-- ==== Sys2Proof/Word.lean ====
section
/-! DEFINITION. The word types of the machine and their plainest arithmetic. -/

namespace Sys2Proof

/-- A doubleword: the width of a scalar register (R3, R8). -/
abbrev Word := BitVec 64

/-- An instruction word (R327). -/
abbrev Inst := BitVec 32

/-- A byte, the unit of every memory (R2). -/
abbrev Byte := BitVec 8

/-- A register field of an instruction word (R327). -/
abbrev Reg := BitVec 6

end Sys2Proof
end

