-- ==== Sys2Proof/Syntax.lean ====
section
/-! DEFINITION. The instructions and events of the opcode table, one constructor per row, and the data
that events bring in from outside the device. The first 160 constructors are the 32-bit instruction words,
with exactly the fields the table gives them. The other 95 are the steps the device takes by itself or that
the outside world makes it take. Their arguments say which unit acts and, for an event from outside, what
the outside brings. -/

namespace Sys2Proof

/-- What a sector's code finds when the sector is read (R197). -/
inductive SectorError where
  /-- No error. -/
  | none
  /-- An error confined to one 16-bit symbol: corrected. -/
  | corrected
  /-- Errors in two symbols: detected and not correctable. -/
  | uncorrectable
  deriving DecidableEq, Repr

/-- What another rank of a multicast window contributes to a collective: the values the members
exchange before any data moves, and its data (R308, R313). -/
structure MemberData where
  /-- The values exchanged: OP, RED, format, element count and ROOT, or the CXP record fields of R313. -/
  params : List Nat
  /-- Its buffer in row-major order, or its rows in INLAY order, as bytes. -/
  data : List Byte
  /-- Its destination capacity in rows (R312). -/
  dcap : Nat
  deriving DecidableEq, Repr

/-- What the fabric delivers to a collective context (R308, R310). -/
inductive CollectiveInput where
  /-- Every member has joined; entry k is rank k (this member's own entry is not used). -/
  | joined (members : List MemberData)
  /-- This member's fabric traffic has exhausted its retries. -/
  | timeout
  deriving DecidableEq, Repr

/-- The kinds of remote element access (R301). -/
inductive RemoteKind where
  | read | write | atomic | watch
  deriving DecidableEq, Repr

/-- A remote element access as it arrives at this device, the target (R301 to R303). -/
structure RemoteAccess where
  /-- Device number of the source. -/
  src : Nat
  /-- Core, queue and entry of the source's command, as one number. -/
  cmd : Nat
  /-- Element index within the command. -/
  elem : Nat
  /-- Key index carried by the access (R300). -/
  key : BitVec 32
  /-- Virtual address. -/
  va : Nat
  kind : RemoteKind
  /-- Atomic operation, codes of OP in command word 0; 0 for reads and plain writes. -/
  op : Nat
  /-- Format code of the element. -/
  fmt : Nat
  /-- Bytes in the access. -/
  size : Nat
  /-- Operand, zero for a read. -/
  value : Word
  /-- Sequence number, used by the connection-cached mode. -/
  seq : Nat
  /-- For a WATCH: its compare mask, its compare value and its relation (WCMP). -/
  mask : Word
  cmp : Word
  rel : Nat
  deriving DecidableEq, Repr

/-- What a source tells a target about a command (R302). -/
inductive RemoteNotice where
  | commit | resume | cancel
  deriving DecidableEq, Repr

/-- A notice from a source about its command. On a commit, the staged elements below `upto` are performed (R302). -/
structure RemoteCommit where
  src : Nat
  cmd : Nat
  notice : RemoteNotice
  upto : Nat
  deriving DecidableEq, Repr

/-- How the two checked steps of bring-up go (R318). -/
structure BootOutcome where
  signatureOk : Bool
  trainingOk : Bool
  deriving DecidableEq, Repr

/-- Whose key signed a request at the debug port (R325, R326). -/
inductive SigningKey where
  | owner | vendor | other
  deriving DecidableEq, Repr

/-- The structures of R322's table that report errors. -/
inductive ErrorUnit where
  | scratchBank | tileBank | l2Way | l2Slice | hbmRow | penufLane | pcieLane
  deriving DecidableEq, Repr

/-- A detected error: the structure, its number and its parent's number (R322, R323). -/
structure ErrorSite where
  unit : ErrorUnit
  number : Nat
  parent : Nat
  deriving DecidableEq, Repr

/-- The instruction words and the events of the opcode table. -/
inductive Instr where
  /-- NOP (R417). -/
  | nop
  /-- BRA (R380). -/
  | bra (i : BitVec 20)
  /-- CALL (R382). -/
  | call (i : BitVec 20)
  /-- JMPI (R400). -/
  | jmpi (a : Reg)
  /-- RET (R421). -/
  | ret
  /-- JOIN (R401). -/
  | join
  /-- EXIT (R394). -/
  | exit
  /-- YIELD (R458). -/
  | yield
  /-- HALT (R397). -/
  | halt
  /-- ERET (R392). -/
  | eret
  /-- TRAP (R437). -/
  | trap (a : Reg) (c : BitVec 8)
  /-- BKPT (R379). -/
  | bkpt (c : BitVec 16)
  /-- SYSC (R431). -/
  | sysc (c : BitVec 16)
  /-- BRD (R381). -/
  | brd (k : BitVec 4) (i : BitVec 20)
  /-- MODE (R340). -/
  | mode (e : Reg) (v : BitVec 19)
  /-- MODE_REG (R340). -/
  | modeReg (e : Reg) (s : Reg)
  /-- REP (R418). -/
  | rep (p : Bool) (d : Bool) (a : Bool) (b : Bool) (n : Reg)
  /-- IMM (R338). -/
  | imm (v : BitVec 26)
  /-- HDR (R334). -/
  | hdr (w : BitVec 12) (a : BitVec 4) (b : BitVec 4) (l : BitVec 4)
  /-- SADD (R423). -/
  | sadd (d : Reg) (a : Reg) (b : Reg)
  /-- SSUB (R423). -/
  | ssub (d : Reg) (a : Reg) (b : Reg)
  /-- SMUL (R423). -/
  | smul (d : Reg) (a : Reg) (b : Reg)
  /-- SMULH (R423). -/
  | smulh (d : Reg) (a : Reg) (b : Reg)
  /-- SMULHU (R423). -/
  | smulhu (d : Reg) (a : Reg) (b : Reg)
  /-- SDIV (R428). -/
  | sdiv (d : Reg) (a : Reg) (b : Reg) (u : Bool)
  /-- SREM (R428). -/
  | srem (d : Reg) (a : Reg) (b : Reg) (u : Bool)
  /-- SAND (R423). -/
  | sand (d : Reg) (a : Reg) (b : Reg)
  /-- SOR (R423). -/
  | sor (d : Reg) (a : Reg) (b : Reg)
  /-- SXOR (R423). -/
  | sxor (d : Reg) (a : Reg) (b : Reg)
  /-- SSHL (R423). -/
  | sshl (d : Reg) (a : Reg) (b : Reg)
  /-- SSHR (R423). -/
  | sshr (d : Reg) (a : Reg) (b : Reg)
  /-- SSRA (R423). -/
  | ssra (d : Reg) (a : Reg) (b : Reg)
  /-- SMIN (R423). -/
  | smin (d : Reg) (a : Reg) (b : Reg) (u : Bool)
  /-- SMAX (R423). -/
  | smax (d : Reg) (a : Reg) (b : Reg) (u : Bool)
  /-- SMOV (R423). -/
  | smov (d : Reg) (a : Reg)
  /-- SBFX (R425). -/
  | sbfx (d : Reg) (a : Reg) (b : Reg) (u : Bool)
  /-- SBFI (R425). -/
  | sbfi (d : Reg) (a : Reg) (b : Reg)
  /-- SCLZ (R423). -/
  | sclz (d : Reg) (a : Reg)
  /-- SPOP (R423). -/
  | spop (d : Reg) (a : Reg)
  /-- SADD_IMM (R354). -/
  | saddImm (d : Reg) (i : BitVec 14)
  /-- SSUB_IMM (R354). -/
  | ssubImm (d : Reg) (i : BitVec 14)
  /-- SMUL_IMM (R354). -/
  | smulImm (d : Reg) (i : BitVec 14)
  /-- SAND_IMM (R354). -/
  | sandImm (d : Reg) (i : BitVec 14)
  /-- SOR_IMM (R354). -/
  | sorImm (d : Reg) (i : BitVec 14)
  /-- SXOR_IMM (R354). -/
  | sxorImm (d : Reg) (i : BitVec 14)
  /-- SSHL_IMM (R354). -/
  | sshlImm (d : Reg) (i : BitVec 14)
  /-- SSHR_IMM (R354). -/
  | sshrImm (d : Reg) (i : BitVec 14)
  /-- SSRA_IMM (R354). -/
  | ssraImm (d : Reg) (i : BitVec 14)
  /-- SMIN_IMM (R354). -/
  | sminImm (d : Reg) (u : Bool) (i : BitVec 14)
  /-- SMAX_IMM (R354). -/
  | smaxImm (d : Reg) (u : Bool) (i : BitVec 14)
  /-- SMOV_IMM (R354). -/
  | smovImm (d : Reg) (i : BitVec 14)
  /-- SLI (R429). -/
  | sli (d : Reg) (i : BitVec 20)
  /-- SCMP (R426). -/
  | scmp (d : Reg) (a : Reg) (b : Reg) (u : Bool) (r : BitVec 3)
  /-- SSEL (R427). -/
  | ssel (d : Reg) (a : Reg) (b : Reg) (c : Reg)
  /-- VADD (R442). -/
  | vadd (d : Reg) (a : Reg) (b : Reg)
  /-- VSUB (R442). -/
  | vsub (d : Reg) (a : Reg) (b : Reg)
  /-- VMUL (R442). -/
  | vmul (d : Reg) (a : Reg) (b : Reg)
  /-- VMULH (R442). -/
  | vmulh (d : Reg) (a : Reg) (b : Reg)
  /-- VMIN (R442). -/
  | vmin (d : Reg) (a : Reg) (b : Reg)
  /-- VMAX (R442). -/
  | vmax (d : Reg) (a : Reg) (b : Reg)
  /-- VAND (R442). -/
  | vand (d : Reg) (a : Reg) (b : Reg)
  /-- VOR (R442). -/
  | vor (d : Reg) (a : Reg) (b : Reg)
  /-- VXOR (R442). -/
  | vxor (d : Reg) (a : Reg) (b : Reg)
  /-- VSHL (R442). -/
  | vshl (d : Reg) (a : Reg) (b : Reg)
  /-- VSHR (R442). -/
  | vshr (d : Reg) (a : Reg) (b : Reg)
  /-- VABS (R441). -/
  | vabs (d : Reg) (a : Reg)
  /-- VNEG (R441). -/
  | vneg (d : Reg) (a : Reg)
  /-- VNOT (R441). -/
  | vnot (d : Reg) (a : Reg)
  /-- VMOV (R441). -/
  | vmov (d : Reg) (a : Reg)
  /-- VCLZ (R441). -/
  | vclz (d : Reg) (a : Reg)
  /-- VPOP (R441). -/
  | vpop (d : Reg) (a : Reg)
  /-- VIOTA (R451). -/
  | viota (d : Reg)
  /-- VBCAST (R443). -/
  | vbcast (d : Reg) (a : Reg) (b : Reg)
  /-- VCVT (R448). -/
  | vcvt (d : Reg) (a : Reg) (t : BitVec 5) (s : BitVec 5)
  /-- VSEL (R454). -/
  | vsel (d : Reg) (a : Reg) (b : Reg) (k : BitVec 4)
  /-- VADD_SCALAR (R357). -/
  | vaddScalar (d : Reg) (a : Reg) (b : Reg)
  /-- VSUB_SCALAR (R357). -/
  | vsubScalar (d : Reg) (a : Reg) (b : Reg)
  /-- VMUL_SCALAR (R357). -/
  | vmulScalar (d : Reg) (a : Reg) (b : Reg)
  /-- VMULH_SCALAR (R357). -/
  | vmulhScalar (d : Reg) (a : Reg) (b : Reg)
  /-- VMIN_SCALAR (R357). -/
  | vminScalar (d : Reg) (a : Reg) (b : Reg)
  /-- VMAX_SCALAR (R357). -/
  | vmaxScalar (d : Reg) (a : Reg) (b : Reg)
  /-- VAND_SCALAR (R357). -/
  | vandScalar (d : Reg) (a : Reg) (b : Reg)
  /-- VOR_SCALAR (R357). -/
  | vorScalar (d : Reg) (a : Reg) (b : Reg)
  /-- VXOR_SCALAR (R357). -/
  | vxorScalar (d : Reg) (a : Reg) (b : Reg)
  /-- VSHL_SCALAR (R357). -/
  | vshlScalar (d : Reg) (a : Reg) (b : Reg)
  /-- VSHR_SCALAR (R357). -/
  | vshrScalar (d : Reg) (a : Reg) (b : Reg)
  /-- VMOV_SCALAR (R441). -/
  | vmovScalar (d : Reg) (a : Reg)
  /-- VSEL_SCALAR (R454). -/
  | vselScalar (d : Reg) (a : Reg) (b : Reg) (k : BitVec 4)
  /-- VFMA (R450). -/
  | vfma (d : Reg) (a : Reg) (b : Reg) (c : Reg) (p : Bool) (n : Bool)
  /-- VRCP (R447). -/
  | vrcp (d : Reg) (a : Reg) (f : Bool)
  /-- VRSQ (R447). -/
  | vrsq (d : Reg) (a : Reg) (f : Bool)
  /-- VSQRT (R447). -/
  | vsqrt (d : Reg) (a : Reg) (f : Bool)
  /-- VDIV (R447). -/
  | vdiv (d : Reg) (a : Reg) (b : Reg) (f : Bool)
  /-- VEXP2 (R447). -/
  | vexp2 (d : Reg) (a : Reg) (f : Bool)
  /-- VLOG2 (R447). -/
  | vlog2 (d : Reg) (a : Reg) (f : Bool)
  /-- VSIN (R447). -/
  | vsin (d : Reg) (a : Reg) (f : Bool)
  /-- VCOS (R447). -/
  | vcos (d : Reg) (a : Reg) (f : Bool)
  /-- VCOAL (R93). -/
  | vcoal (d : Reg)
  /-- VINFO (R69). -/
  | vinfo (d : Reg) (a : Reg)
  /-- VFREE (R94). -/
  | vfree (d : Reg)
  /-- VBUDGET (R73). -/
  | vbudget (d : Reg) (a : Reg)
  /-- VRUN (R445). -/
  | vrun (d : Reg) (a : Reg) (b : Reg)
  /-- VEXT (R445). -/
  | vext (d : Reg) (a : Reg) (b : Reg)
  /-- VINS (R445). -/
  | vins (d : Reg) (a : Reg) (b : Reg)
  /-- VRED (R453). -/
  | vred (d : Reg) (a : Reg) (o : BitVec 3)
  /-- VSCAN (R453). -/
  | vscan (d : Reg) (a : Reg) (o : BitVec 3)
  /-- VPERM (R452). -/
  | vperm (d : Reg) (a : Reg) (b : Reg)
  /-- VROT (R452). -/
  | vrot (d : Reg) (a : Reg) (b : Reg)
  /-- VSFC (R455). -/
  | vsfc (d : Reg) (a : Reg) (b : Reg) (h : Bool) (e : Bool)
  /-- MAND (R409). -/
  | mand (d : Reg) (a : Reg) (b : Reg)
  /-- MOR (R409). -/
  | mor (d : Reg) (a : Reg) (b : Reg)
  /-- MXOR (R409). -/
  | mxor (d : Reg) (a : Reg) (b : Reg)
  /-- MANDN (R409). -/
  | mandn (d : Reg) (a : Reg) (b : Reg)
  /-- MNOT (R409). -/
  | mnot (d : Reg) (a : Reg)
  /-- MMOV (R409). -/
  | mmov (d : Reg) (a : Reg)
  /-- MCNT (R409). -/
  | mcnt (d : Reg) (a : Reg)
  /-- MFIRST (R409). -/
  | mfirst (d : Reg) (a : Reg)
  /-- MSET (R409). -/
  | mset (d : Reg) (a : Reg) (b : Reg)
  /-- VCMP (R446). -/
  | vcmp (d : Reg) (a : Reg) (b : Reg) (s : Bool) (r : BitVec 3)
  /-- LDS (R407). -/
  | lds (d : Reg) (a : Reg) (b : Reg) (z : BitVec 2) (v : Bool) (c : Bool) (f : Bool)
  /-- STS (R407). -/
  | sts (d : Reg) (a : Reg) (b : Reg) (z : BitVec 2) (v : Bool) (c : Bool)
  /-- LDT (R407). -/
  | ldt (d : Reg) (a : Reg) (b : Reg) (z : BitVec 2) (v : Bool) (c : Bool) (f : Bool)
  /-- STT (R407). -/
  | stt (d : Reg) (a : Reg) (b : Reg) (z : BitVec 2) (v : Bool) (c : Bool)
  /-- LDC (R407). -/
  | ldc (d : Reg) (a : Reg) (b : Reg) (z : BitVec 2) (v : Bool) (c : Bool) (f : Bool)
  /-- STC (R407). -/
  | stc (d : Reg) (a : Reg) (b : Reg) (z : BitVec 2) (v : Bool) (c : Bool)
  /-- LD (R405). -/
  | ld (d : Reg) (a : Reg) (b : Reg) (z : BitVec 2) (v : Bool) (c : Bool) (f : Bool)
  /-- ST (R405). -/
  | st (d : Reg) (a : Reg) (b : Reg) (z : BitVec 2) (v : Bool) (c : Bool)
  /-- SPACE (R430). -/
  | space (d : Reg) (a : Reg)
  /-- CAST (R383). -/
  | cast (d : Reg) (a : Reg) (w : BitVec 4)
  /-- ATOM (R374). -/
  | atom (d : Reg) (a : Reg) (b : Reg) (o : BitVec 4) (w : Bool) (s : Bool) (v : Bool) (f : Bool)
  /-- FENCE (R210). -/
  | fence (k : BitVec 2) (s : BitVec 4)
  /-- CPOST (R385). -/
  | cpost (a : Reg) (q : BitVec 2) (f : Bool)
  /-- CQSTAT (R387). -/
  | cqstat (d : Reg) (q : BitVec 2)
  /-- CCANCEL (R384). -/
  | ccancel (a : Reg)
  /-- BINIT (R377). -/
  | binit (a : Reg) (b : Reg)
  /-- BARV (R377). -/
  | barv (a : Reg) (b : Reg)
  /-- BEXP (R377). -/
  | bexp (a : Reg) (b : Reg)
  /-- BWAIT (R378). -/
  | bwait (a : Reg) (b : Reg)
  /-- BTEST (R377). -/
  | btest (d : Reg) (a : Reg) (b : Reg)
  /-- MMA (R237). -/
  | mma (s : Bool) (c : BitVec 3) (a : Reg) (b : Reg) (f : Reg) (n : Bool) (x : Bool)
  /-- MLOOP (R241). -/
  | mloop (s : Bool) (c : BitVec 3) (a : Reg) (b : Reg) (l : Reg) (n : Bool) (x : Bool)
  /-- MZERO (R243). -/
  | mzero (c : BitVec 3) (f : BitVec 2)
  /-- MLDA (R244). -/
  | mlda (c : BitVec 3) (a : Reg) (f : BitVec 2)
  /-- MSTA (R245). -/
  | msta (c : BitVec 3) (a : Reg) (b : Reg)
  /-- TSUB (R258). -/
  | tsub (a : Reg)
  /-- TTAKE (R259). -/
  | ttake (d : Reg) (a : Reg) (m : Bool)
  /-- TDONE (R260). -/
  | tdone (a : Reg)
  /-- TRETRY (R261). -/
  | tretry (a : Reg) (m : Bool)
  /-- TCANCEL (R262). -/
  | tcancel (a : Reg)
  /-- LAUNCH (R402). -/
  | launch (d : Reg) (a : Reg) (f : Bool)
  /-- LWAIT (R408). -/
  | lwait (d : Reg) (a : Reg)
  /-- CXA (R389). -/
  | cxa (d : Reg) (a : Reg) (b : Reg) (r : BitVec 3) (f : Bool)
  /-- CXG (R389). -/
  | cxg (d : Reg) (a : Reg) (b : Reg) (f : Bool)
  /-- CXS (R389). -/
  | cxs (d : Reg) (a : Reg) (b : Reg) (r : BitVec 3) (f : Bool)
  /-- CXB (R389). -/
  | cxb (d : Reg) (a : Reg) (b : Reg) (f : Bool)
  /-- CXT (R389). -/
  | cxt (d : Reg) (a : Reg) (b : Reg) (f : Bool)
  /-- CXP (R390). -/
  | cxp (a : Reg) (f : Bool)
  /-- XRD (R456). -/
  | xrd (d : Reg) (s : Reg)
  /-- XWR (R457). -/
  | xwr (a : Reg) (s : Reg)
  /-- TIME (R436). -/
  | time (d : Reg)
  /-- VECTOR_FINAL_PASS (R118). -/
  | vectorFinalPass (c p : Nat)
  /-- LOAD_DATA_READY (R138). -/
  | loadDataReady (c p : Nat)
  /-- STORE_PERFORM (R207). -/
  | storePerform (c p : Nat)
  /-- CLUSTER_STORE_ACK (R208). -/
  | clusterStoreAck (c p : Nat)
  /-- YIELD_EXPIRY (R458). -/
  | yieldExpiry (c p : Nat)
  /-- SPECIAL_FUNCTION_READY (R447). -/
  | specialFunctionReady (c p : Nat)
  /-- DIVIDER_FREE (R416). -/
  | dividerFree (c : Nat)
  /-- ERROR_DETECTED (R322). -/
  | errorDetected (e : ErrorSite)
  /-- DOORBELL (R39). -/
  | doorbell (q tail port : Nat)
  /-- QUEUE_PRIORITY_WRITE (R46). -/
  | queuePriorityWrite (q prio port : Nat)
  /-- QUEUE_OWNPORT_MOVE (R294). -/
  | queueOwnportMove (q newPort port : Nat)
  /-- LAUNCH_RECORD_READ (R294). -/
  | launchRecordRead (q : Nat)
  /-- BATCH_HANDOUT (R42). -/
  | batchHandout (n : Nat)
  /-- GROUP_PLACEMENT (R43). -/
  | groupPlacement (die : Nat)
  /-- PARTITION_FILL_END (R144). -/
  | partitionFillEnd (c g : Nat)
  /-- GROUP_COMPLETE (R48). -/
  | groupComplete (c g : Nat)
  /-- LAUNCH_ACCEPT (R403). -/
  | launchAccept (c g : Nat)
  /-- NOTIFICATION_POST (R295). -/
  | notificationPost (q : Nat)
  /-- FAULT_RECORD_POST (R297). -/
  | faultRecordPost
  /-- PRIORITY_PREEMPTION (R54). -/
  | priorityPreemption
  /-- QUANTUM_EXPIRY (R280). -/
  | quantumExpiry (c g : Nat)
  /-- PARKED_EVICTION (R57). -/
  | parkedEviction (grid : Nat)
  /-- GRID_STALL (R57). -/
  | gridStall (grid : Nat)
  /-- HOST_PREEMPT_REQUEST (R280). -/
  | hostPreemptRequest (grid port : Nat)
  /-- GROUP_RESTORE (R285). -/
  | groupRestore (grid idx : Nat)
  /-- COMMAND_ACCEPT (R150). -/
  | commandAccept (c q slot : Nat)
  /-- COMMAND_START (R173). -/
  | commandStart (c q : Nat)
  /-- COPY (R160). -/
  | copyCmd (c q slot n : Nat)
  /-- GATHER (R160). -/
  | gatherCmd (c q slot n : Nat)
  /-- SCATTER (R160). -/
  | scatterCmd (c q slot n : Nat)
  /-- FILL (R161). -/
  | fillCmd (c q slot n : Nat)
  /-- WATCH (R163). -/
  | watchCmd (c q slot : Nat)
  /-- WATCH_COMPLETE (R163). -/
  | watchComplete (c q slot : Nat)
  /-- SIGNAL (R164). -/
  | signalCmd (c q slot : Nat)
  /-- COPY_FENCE (R165). -/
  | copyFence (c q slot : Nat)
  /-- FLUSH (R166). -/
  | flushCmd (c q slot : Nat)
  /-- HINT_PREFETCH_L2 (R166). -/
  | hintPrefetchL2 (c q slot : Nat)
  /-- HINT_PREFETCH_HOME (R194). -/
  | hintPrefetchHome (c q slot : Nat)
  /-- HINT_KEEP_RESIDENT (R194). -/
  | hintKeepResident (c q slot : Nat)
  /-- HINT_RELEASE_RESIDENCY (R194). -/
  | hintReleaseResidency (c q slot : Nat)
  /-- COMMAND_COMPLETE (R174). -/
  | commandComplete (c q slot : Nat)
  /-- CANCELLATION_COMPLETE (R177). -/
  | cancellationComplete (c q slot : Nat)
  /-- GENERATION_BUMP (R187). -/
  | generationBump (die cls : Nat)
  /-- HOME_ACKNOWLEDGE (R188). -/
  | homeAcknowledge (die i : Nat)
  /-- FILL_RETURN (R182). -/
  | fillReturn (die i : Nat)
  /-- WRITE_BACK (R185). -/
  | writeBack (die i : Nat)
  /-- WRITE_THROUGH (R167). -/
  | writeThrough (die i : Nat)
  /-- HOME_ATOMIC (R195). -/
  | homeAtomic (die i : Nat)
  /-- RDUP_INVALIDATE (R201). -/
  | rdupInvalidate (die i : Nat)
  /-- SWEEPER_VISIT (R191). -/
  | sweeperVisit (die slice : Nat)
  /-- SCRUB_READ (R198). -/
  | scrubRead (home : Nat) (ecc : SectorError)
  /-- PAGE_WALK (R271). -/
  | pageWalk (die aspace va : Nat)
  /-- REPLAY (R199). -/
  | replay (die : Nat) (value : Word) (port : Nat)
  /-- TLBINV (R272). -/
  | tlbinv (die : Nat) (w1 : Word) (port : Nat)
  /-- TLBINV_COMPLETE (R272). -/
  | tlbinvComplete (die : Nat)
  /-- HANDOVER_TODEVICE (R273). -/
  | handoverTodevice (w1 : Word) (port : Nat)
  /-- HANDOVER_TOHOST (R273). -/
  | handoverTohost (w1 : Word) (port : Nat)
  /-- HANDOVER_COMPLETE (R273). -/
  | handoverComplete
  /-- FQSVC_RESUME (R279). -/
  | fqsvcResume (w1 : Word) (port : Nat)
  /-- FQSVC_CANCEL (R279). -/
  | fqsvcCancel (w1 : Word) (port : Nat)
  /-- DEBUG_HALT (R287). -/
  | debugHalt (c p port : Nat)
  /-- DEBUG_RESUME (R287). -/
  | debugResume (c p port : Nat)
  /-- DEBUG_STEP (R287). -/
  | debugStep (c p port : Nat)
  /-- SNAP (R288). -/
  | snap (c g port : Nat)
  /-- SNAP_RELOAD (R288). -/
  | snapReload (c g : Nat)
  /-- HOST_READ (R290). -/
  | hostRead (pa n port : Nat)
  /-- HOST_WRITE (R290). -/
  | hostWrite (pa : Nat) (bytes : List Byte) (port : Nat)
  /-- HOST_FETCHADD (R290). -/
  | hostFetchadd (pa n : Nat) (v : Word) (port : Nat)
  /-- HOST_SWAP (R290). -/
  | hostSwap (pa n : Nat) (v : Word) (port : Nat)
  /-- HOST_CAS (R290). -/
  | hostCas (pa n : Nat) (cmp v : Word) (port : Nat)
  /-- REGISTER_WRITE (R291). -/
  | registerWrite (off size : Nat) (v : Word) (port : Nat)
  /-- MCWIN_DEFINE (R304). -/
  | mcwinDefine (w : Nat) (v : Word) (port : Nat)
  /-- COLLECTIVE_ABORT (R310). -/
  | collectiveAbort (w port : Nat)
  /-- COLLECTIVE_ACCEPT (R308). -/
  | collectiveAccept (c i : Nat)
  /-- COLLECTIVE_COMPLETE (R311). -/
  | collectiveComplete (c i : Nat) (input : CollectiveInput)
  /-- FLIT_RECEIVE (R299). -/
  | flitReceive (port : Nat) (flit : List Byte)
  /-- FLIT_NAK (R299). -/
  | flitNak (port seq : Nat)
  /-- REMOTE_REQUEST (R301). -/
  | remoteRequest (r : RemoteAccess)
  /-- REMOTE_COMMIT (R302). -/
  | remoteCommit (r : RemoteCommit)
  /-- REMOTE_TIMEOUT_EXPIRY (R303). -/
  | remoteTimeoutExpiry (i : Nat)
  /-- BUSY_RETRY (R303). -/
  | busyRetry (i : Nat)
  /-- STAGING_EXPIRY (R302). -/
  | stagingExpiry (i : Nat)
  /-- MATRIX_OP_START (R246). -/
  | matrixOpStart (c : Nat)
  /-- MATRIX_OP_COMPLETE (R246). -/
  | matrixOpComplete (c : Nat)
  /-- RAMP_ADJUST (R321). -/
  | rampAdjust
  /-- POWER_STATE_ENTRY (R319). -/
  | powerStateEntry
  /-- RESET (R318). -/
  | resetDevice (boot : BootOutcome)
  /-- FREEZE (R324). -/
  | freeze
  /-- SIGNED_UNLOCK (R326). -/
  | signedUnlock (key : SigningKey)
  /-- PROVISIONING_COMMAND (R325). -/
  | provisioningCommand (key : SigningKey)
  /-- ATTESTATION_REPORT (R325). -/
  | attestationReport (nonce : BitVec 256)
  /-- SELF_TEST_END (R323). -/
  | selfTestEnd (i : Nat) (lasting : Bool)
  /-- FIRMWARE_UPDATE (R325). -/
  | firmwareUpdate
  /-- POWER_MEASURE (R320). -/
  | powerMeasure (milliwatts : Nat)
  /-- POWER_REQUEST (R319). -/
  | powerRequest (v : Word) (port : Nat)
  deriving DecidableEq, Repr

end Sys2Proof
end

