-- ==== Sys2Proof/Decode.lean ====
section
/-! DEFINITION. Decoding an instruction word (R327, R328, R349 to R372) and encoding an instruction.
A word is decoded from its major opcode: the row of the opcode table whose fixed bits it carries gives the
instruction, with every field at whatever value it has. A word that no row fits is rejected by name: ILLEGAL
when its function code is unassigned, RESERVED when only a bit marked 0 is set (R350, R372). Values of a field
that the field's own table refuses (a scope above 9, a mask register above 15) are checked where the
instruction issues. -/

namespace Sys2Proof

/-- The n bits of w from bit lo up (R11's Bits). -/
def fld (w : Inst) (lo n : Nat) : BitVec n := w.extractLsb' lo n

/-- Bit i of w. -/
def bit (w : Inst) (i : Nat) : Bool := w.getLsbD i

/-- A field's value at its place in a word. -/
def put {n : Nat} (lo : Nat) (x : BitVec n) : Inst := x.setWidth 32 <<< lo

/-- A one-bit field at its place in a word. -/
def putB (lo : Nat) (b : Bool) : Inst := if b then 1#32 <<< lo else 0#32

/-- A row of the opcode table: the fixed bits and the instruction that the other bits give. -/
structure Row where
  mask : Inst
  value : Inst
  make : Inst → Instr

/-- Major 0x00. -/
def rows00 : List Row := [
  ⟨0xFFFFFFFF#32, 0x00000000#32, fun _ => .nop⟩,
  ⟨0xFFF00000#32, 0x00100000#32, fun w => .bra (fld w 0 20)⟩,
  ⟨0xFFF00000#32, 0x00200000#32, fun w => .call (fld w 0 20)⟩,
  ⟨0xFFF03FFF#32, 0x00300000#32, fun w => .jmpi (fld w 14 6)⟩,
  ⟨0xFFFFFFFF#32, 0x00400000#32, fun _ => .ret⟩,
  ⟨0xFFFFFFFF#32, 0x00500000#32, fun _ => .join⟩,
  ⟨0xFFFFFFFF#32, 0x00600000#32, fun _ => .exit⟩,
  ⟨0xFFFFFFFF#32, 0x00700000#32, fun _ => .yield⟩,
  ⟨0xFFFFFFFF#32, 0x00800000#32, fun _ => .halt⟩,
  ⟨0xFFFFFFFF#32, 0x00900000#32, fun _ => .eret⟩,
  ⟨0xFFF03F00#32, 0x00A00000#32, fun w => .trap (fld w 14 6) (fld w 0 8)⟩,
  ⟨0xFFFF0000#32, 0x00B00000#32, fun w => .bkpt (fld w 0 16)⟩,
  ⟨0xFFFF0000#32, 0x00C00000#32, fun w => .sysc (fld w 0 16)⟩,
  ⟨0xFF000000#32, 0x01000000#32, fun w => .brd (fld w 20 4) (fld w 0 20)⟩]

/-- Major 0x01. -/
def rows01 : List Row := [
  ⟨0xFC080000#32, 0x04000000#32, fun w => .mode (fld w 20 6) (fld w 0 19)⟩,
  ⟨0xFC0FFFC0#32, 0x04080000#32, fun w => .modeReg (fld w 20 6) (fld w 0 6)⟩]

/-- Major 0x02. -/
def rows02 : List Row := [
  ⟨0xFFFFFC00#32, 0x08000000#32, fun w => .rep (bit w 9) (bit w 8) (bit w 7) (bit w 6) (fld w 0 6)⟩]

/-- Major 0x03. -/
def rows03 : List Row := [
  ⟨0xFC000000#32, 0x0C000000#32, fun w => .imm (fld w 0 26)⟩]

/-- Major 0x04. -/
def rows04 : List Row := [
  ⟨0xFC0000FF#32, 0x10000000#32, fun w => .sadd (fld w 20 6) (fld w 14 6) (fld w 8 6)⟩,
  ⟨0xFC0000FF#32, 0x10000001#32, fun w => .ssub (fld w 20 6) (fld w 14 6) (fld w 8 6)⟩,
  ⟨0xFC0000FF#32, 0x10000002#32, fun w => .smul (fld w 20 6) (fld w 14 6) (fld w 8 6)⟩,
  ⟨0xFC0000FF#32, 0x10000003#32, fun w => .smulh (fld w 20 6) (fld w 14 6) (fld w 8 6)⟩,
  ⟨0xFC0000FF#32, 0x10000004#32, fun w => .smulhu (fld w 20 6) (fld w 14 6) (fld w 8 6)⟩,
  ⟨0xFC0000DF#32, 0x10000005#32, fun w => .sdiv (fld w 20 6) (fld w 14 6) (fld w 8 6) (bit w 5)⟩,
  ⟨0xFC0000DF#32, 0x10000006#32, fun w => .srem (fld w 20 6) (fld w 14 6) (fld w 8 6) (bit w 5)⟩,
  ⟨0xFC0000FF#32, 0x10000007#32, fun w => .sand (fld w 20 6) (fld w 14 6) (fld w 8 6)⟩,
  ⟨0xFC0000FF#32, 0x10000008#32, fun w => .sor (fld w 20 6) (fld w 14 6) (fld w 8 6)⟩,
  ⟨0xFC0000FF#32, 0x10000009#32, fun w => .sxor (fld w 20 6) (fld w 14 6) (fld w 8 6)⟩,
  ⟨0xFC0000FF#32, 0x1000000A#32, fun w => .sshl (fld w 20 6) (fld w 14 6) (fld w 8 6)⟩,
  ⟨0xFC0000FF#32, 0x1000000B#32, fun w => .sshr (fld w 20 6) (fld w 14 6) (fld w 8 6)⟩,
  ⟨0xFC0000FF#32, 0x1000000C#32, fun w => .ssra (fld w 20 6) (fld w 14 6) (fld w 8 6)⟩,
  ⟨0xFC0000DF#32, 0x1000000D#32, fun w => .smin (fld w 20 6) (fld w 14 6) (fld w 8 6) (bit w 5)⟩,
  ⟨0xFC0000DF#32, 0x1000000E#32, fun w => .smax (fld w 20 6) (fld w 14 6) (fld w 8 6) (bit w 5)⟩,
  ⟨0xFC003FFF#32, 0x1000000F#32, fun w => .smov (fld w 20 6) (fld w 14 6)⟩,
  ⟨0xFC0000DF#32, 0x10000010#32, fun w => .sbfx (fld w 20 6) (fld w 14 6) (fld w 8 6) (bit w 5)⟩,
  ⟨0xFC0000FF#32, 0x10000011#32, fun w => .sbfi (fld w 20 6) (fld w 14 6) (fld w 8 6)⟩,
  ⟨0xFC003FFF#32, 0x10000012#32, fun w => .sclz (fld w 20 6) (fld w 14 6)⟩,
  ⟨0xFC003FFF#32, 0x10000013#32, fun w => .spop (fld w 20 6) (fld w 14 6)⟩]

/-- Major 0x05. -/
def rows05 : List Row := [
  ⟨0xFC0FC000#32, 0x14000000#32, fun w => .saddImm (fld w 20 6) (fld w 0 14)⟩,
  ⟨0xFC0FC000#32, 0x14004000#32, fun w => .ssubImm (fld w 20 6) (fld w 0 14)⟩,
  ⟨0xFC0FC000#32, 0x14008000#32, fun w => .smulImm (fld w 20 6) (fld w 0 14)⟩,
  ⟨0xFC0FC000#32, 0x1401C000#32, fun w => .sandImm (fld w 20 6) (fld w 0 14)⟩,
  ⟨0xFC0FC000#32, 0x14020000#32, fun w => .sorImm (fld w 20 6) (fld w 0 14)⟩,
  ⟨0xFC0FC000#32, 0x14024000#32, fun w => .sxorImm (fld w 20 6) (fld w 0 14)⟩,
  ⟨0xFC0FC000#32, 0x14028000#32, fun w => .sshlImm (fld w 20 6) (fld w 0 14)⟩,
  ⟨0xFC0FC000#32, 0x1402C000#32, fun w => .sshrImm (fld w 20 6) (fld w 0 14)⟩,
  ⟨0xFC0FC000#32, 0x14030000#32, fun w => .ssraImm (fld w 20 6) (fld w 0 14)⟩,
  ⟨0xFC07C000#32, 0x14034000#32, fun w => .sminImm (fld w 20 6) (bit w 19) (fld w 0 14)⟩,
  ⟨0xFC07C000#32, 0x14038000#32, fun w => .smaxImm (fld w 20 6) (bit w 19) (fld w 0 14)⟩,
  ⟨0xFC0FC000#32, 0x1403C000#32, fun w => .smovImm (fld w 20 6) (fld w 0 14)⟩]

/-- Major 0x06. -/
def rows06 : List Row := [
  ⟨0xFC000000#32, 0x18000000#32, fun w => .sli (fld w 20 6) (fld w 0 20)⟩]

/-- Major 0x07. -/
def rows07 : List Row := [
  ⟨0xFC0000F0#32, 0x1C000000#32, fun w => .scmp (fld w 20 6) (fld w 14 6) (fld w 8 6) (bit w 3) (fld w 0 3)⟩,
  ⟨0xFC0000C0#32, 0x1C000080#32, fun w => .ssel (fld w 20 6) (fld w 14 6) (fld w 8 6) (fld w 0 6)⟩]

/-- Major 0x08. -/
def rows08 : List Row := [
  ⟨0xFC0000FF#32, 0x20000000#32, fun w => .vadd (fld w 20 6) (fld w 14 6) (fld w 8 6)⟩,
  ⟨0xFC0000FF#32, 0x20000001#32, fun w => .vsub (fld w 20 6) (fld w 14 6) (fld w 8 6)⟩,
  ⟨0xFC0000FF#32, 0x20000002#32, fun w => .vmul (fld w 20 6) (fld w 14 6) (fld w 8 6)⟩,
  ⟨0xFC0000FF#32, 0x20000003#32, fun w => .vmulh (fld w 20 6) (fld w 14 6) (fld w 8 6)⟩,
  ⟨0xFC0000FF#32, 0x20000004#32, fun w => .vmin (fld w 20 6) (fld w 14 6) (fld w 8 6)⟩,
  ⟨0xFC0000FF#32, 0x20000005#32, fun w => .vmax (fld w 20 6) (fld w 14 6) (fld w 8 6)⟩,
  ⟨0xFC0000FF#32, 0x20000006#32, fun w => .vand (fld w 20 6) (fld w 14 6) (fld w 8 6)⟩,
  ⟨0xFC0000FF#32, 0x20000007#32, fun w => .vor (fld w 20 6) (fld w 14 6) (fld w 8 6)⟩,
  ⟨0xFC0000FF#32, 0x20000008#32, fun w => .vxor (fld w 20 6) (fld w 14 6) (fld w 8 6)⟩,
  ⟨0xFC0000FF#32, 0x20000009#32, fun w => .vshl (fld w 20 6) (fld w 14 6) (fld w 8 6)⟩,
  ⟨0xFC0000FF#32, 0x2000000A#32, fun w => .vshr (fld w 20 6) (fld w 14 6) (fld w 8 6)⟩,
  ⟨0xFC003FFF#32, 0x20000010#32, fun w => .vabs (fld w 20 6) (fld w 14 6)⟩,
  ⟨0xFC003FFF#32, 0x20000011#32, fun w => .vneg (fld w 20 6) (fld w 14 6)⟩,
  ⟨0xFC003FFF#32, 0x20000012#32, fun w => .vnot (fld w 20 6) (fld w 14 6)⟩,
  ⟨0xFC003FFF#32, 0x20000013#32, fun w => .vmov (fld w 20 6) (fld w 14 6)⟩,
  ⟨0xFC003FFF#32, 0x20000014#32, fun w => .vclz (fld w 20 6) (fld w 14 6)⟩,
  ⟨0xFC003FFF#32, 0x20000015#32, fun w => .vpop (fld w 20 6) (fld w 14 6)⟩,
  ⟨0xFC0FFFFF#32, 0x20000016#32, fun w => .viota (fld w 20 6)⟩,
  ⟨0xFC0000FF#32, 0x20000017#32, fun w => .vbcast (fld w 20 6) (fld w 14 6) (fld w 8 6)⟩,
  ⟨0xFC0020E0#32, 0x20000020#32, fun w => .vcvt (fld w 20 6) (fld w 14 6) (fld w 8 5) (fld w 0 5)⟩,
  ⟨0xFC0000F0#32, 0x200000F0#32, fun w => .vsel (fld w 20 6) (fld w 14 6) (fld w 8 6) (fld w 0 4)⟩]

/-- Major 0x09. -/
def rows09 : List Row := [
  ⟨0xFC0000FF#32, 0x24000000#32, fun w => .vaddScalar (fld w 20 6) (fld w 14 6) (fld w 8 6)⟩,
  ⟨0xFC0000FF#32, 0x24000001#32, fun w => .vsubScalar (fld w 20 6) (fld w 14 6) (fld w 8 6)⟩,
  ⟨0xFC0000FF#32, 0x24000002#32, fun w => .vmulScalar (fld w 20 6) (fld w 14 6) (fld w 8 6)⟩,
  ⟨0xFC0000FF#32, 0x24000003#32, fun w => .vmulhScalar (fld w 20 6) (fld w 14 6) (fld w 8 6)⟩,
  ⟨0xFC0000FF#32, 0x24000004#32, fun w => .vminScalar (fld w 20 6) (fld w 14 6) (fld w 8 6)⟩,
  ⟨0xFC0000FF#32, 0x24000005#32, fun w => .vmaxScalar (fld w 20 6) (fld w 14 6) (fld w 8 6)⟩,
  ⟨0xFC0000FF#32, 0x24000006#32, fun w => .vandScalar (fld w 20 6) (fld w 14 6) (fld w 8 6)⟩,
  ⟨0xFC0000FF#32, 0x24000007#32, fun w => .vorScalar (fld w 20 6) (fld w 14 6) (fld w 8 6)⟩,
  ⟨0xFC0000FF#32, 0x24000008#32, fun w => .vxorScalar (fld w 20 6) (fld w 14 6) (fld w 8 6)⟩,
  ⟨0xFC0000FF#32, 0x24000009#32, fun w => .vshlScalar (fld w 20 6) (fld w 14 6) (fld w 8 6)⟩,
  ⟨0xFC0000FF#32, 0x2400000A#32, fun w => .vshrScalar (fld w 20 6) (fld w 14 6) (fld w 8 6)⟩,
  ⟨0xFC003FFF#32, 0x24000013#32, fun w => .vmovScalar (fld w 20 6) (fld w 14 6)⟩,
  ⟨0xFC0000F0#32, 0x240000F0#32, fun w => .vselScalar (fld w 20 6) (fld w 14 6) (fld w 8 6) (fld w 0 4)⟩]

/-- Major 0x0A. -/
def rows0A : List Row := [
  ⟨0xFC000000#32, 0x28000000#32, fun w => .vfma (fld w 20 6) (fld w 14 6) (fld w 8 6) (fld w 2 6) (bit w 1) (bit w 0)⟩]

/-- Major 0x0B. -/
def rows0B : List Row := [
  ⟨0xFC003FFE#32, 0x2C000000#32, fun w => .vrcp (fld w 20 6) (fld w 14 6) (bit w 0)⟩,
  ⟨0xFC003FFE#32, 0x2C000002#32, fun w => .vrsq (fld w 20 6) (fld w 14 6) (bit w 0)⟩,
  ⟨0xFC003FFE#32, 0x2C000004#32, fun w => .vsqrt (fld w 20 6) (fld w 14 6) (bit w 0)⟩,
  ⟨0xFC0000FE#32, 0x2C000006#32, fun w => .vdiv (fld w 20 6) (fld w 14 6) (fld w 8 6) (bit w 0)⟩,
  ⟨0xFC003FFE#32, 0x2C000008#32, fun w => .vexp2 (fld w 20 6) (fld w 14 6) (bit w 0)⟩,
  ⟨0xFC003FFE#32, 0x2C00000A#32, fun w => .vlog2 (fld w 20 6) (fld w 14 6) (bit w 0)⟩,
  ⟨0xFC003FFE#32, 0x2C00000C#32, fun w => .vsin (fld w 20 6) (fld w 14 6) (bit w 0)⟩,
  ⟨0xFC003FFE#32, 0x2C00000E#32, fun w => .vcos (fld w 20 6) (fld w 14 6) (bit w 0)⟩]

/-- Major 0x0C. -/
def rows0C : List Row := [
  ⟨0xFC0FFFFF#32, 0x30000000#32, fun w => .vcoal (fld w 20 6)⟩,
  ⟨0xFC003FFF#32, 0x30000001#32, fun w => .vinfo (fld w 20 6) (fld w 14 6)⟩,
  ⟨0xFC0FFFFF#32, 0x30000002#32, fun w => .vfree (fld w 20 6)⟩,
  ⟨0xFC003FFF#32, 0x30000003#32, fun w => .vbudget (fld w 20 6) (fld w 14 6)⟩,
  ⟨0xFC0000FF#32, 0x30000004#32, fun w => .vrun (fld w 20 6) (fld w 14 6) (fld w 8 6)⟩,
  ⟨0xFC0000FF#32, 0x30000005#32, fun w => .vext (fld w 20 6) (fld w 14 6) (fld w 8 6)⟩,
  ⟨0xFC0000FF#32, 0x30000006#32, fun w => .vins (fld w 20 6) (fld w 14 6) (fld w 8 6)⟩]

/-- Major 0x0D. -/
def rows0D : List Row := [
  ⟨0xFC003FE3#32, 0x34000000#32, fun w => .vred (fld w 20 6) (fld w 14 6) (fld w 2 3)⟩,
  ⟨0xFC003FE3#32, 0x34000020#32, fun w => .vscan (fld w 20 6) (fld w 14 6) (fld w 2 3)⟩,
  ⟨0xFC0000FF#32, 0x34000040#32, fun w => .vperm (fld w 20 6) (fld w 14 6) (fld w 8 6)⟩,
  ⟨0xFC0000FF#32, 0x34000060#32, fun w => .vrot (fld w 20 6) (fld w 14 6) (fld w 8 6)⟩,
  ⟨0xFC0000E7#32, 0x34000080#32, fun w => .vsfc (fld w 20 6) (fld w 14 6) (fld w 8 6) (bit w 4) (bit w 3)⟩]

/-- Major 0x0E. -/
def rows0E : List Row := [
  ⟨0xFC0000FF#32, 0x38000000#32, fun w => .mand (fld w 20 6) (fld w 14 6) (fld w 8 6)⟩,
  ⟨0xFC0000FF#32, 0x38000001#32, fun w => .mor (fld w 20 6) (fld w 14 6) (fld w 8 6)⟩,
  ⟨0xFC0000FF#32, 0x38000002#32, fun w => .mxor (fld w 20 6) (fld w 14 6) (fld w 8 6)⟩,
  ⟨0xFC0000FF#32, 0x38000003#32, fun w => .mandn (fld w 20 6) (fld w 14 6) (fld w 8 6)⟩,
  ⟨0xFC003FFF#32, 0x38000004#32, fun w => .mnot (fld w 20 6) (fld w 14 6)⟩,
  ⟨0xFC003FFF#32, 0x38000005#32, fun w => .mmov (fld w 20 6) (fld w 14 6)⟩,
  ⟨0xFC003FFF#32, 0x38000006#32, fun w => .mcnt (fld w 20 6) (fld w 14 6)⟩,
  ⟨0xFC003FFF#32, 0x38000007#32, fun w => .mfirst (fld w 20 6) (fld w 14 6)⟩,
  ⟨0xFC0000FF#32, 0x38000008#32, fun w => .mset (fld w 20 6) (fld w 14 6) (fld w 8 6)⟩]

/-- Major 0x0F. -/
def rows0F : List Row := [
  ⟨0xFC0000F0#32, 0x3C000000#32, fun w => .vcmp (fld w 20 6) (fld w 14 6) (fld w 8 6) (bit w 3) (fld w 0 3)⟩]

/-- Major 0x10. -/
def rows10 : List Row := [
  ⟨0xFC000086#32, 0x40000000#32, fun w => .lds (fld w 20 6) (fld w 14 6) (fld w 8 6) (fld w 5 2) (bit w 4) (bit w 3) (bit w 0)⟩,
  ⟨0xFC000087#32, 0x40000080#32, fun w => .sts (fld w 20 6) (fld w 14 6) (fld w 8 6) (fld w 5 2) (bit w 4) (bit w 3)⟩]

/-- Major 0x11. -/
def rows11 : List Row := [
  ⟨0xFC000086#32, 0x44000000#32, fun w => .ldt (fld w 20 6) (fld w 14 6) (fld w 8 6) (fld w 5 2) (bit w 4) (bit w 3) (bit w 0)⟩,
  ⟨0xFC000087#32, 0x44000080#32, fun w => .stt (fld w 20 6) (fld w 14 6) (fld w 8 6) (fld w 5 2) (bit w 4) (bit w 3)⟩]

/-- Major 0x12. -/
def rows12 : List Row := [
  ⟨0xFC000086#32, 0x48000000#32, fun w => .ldc (fld w 20 6) (fld w 14 6) (fld w 8 6) (fld w 5 2) (bit w 4) (bit w 3) (bit w 0)⟩,
  ⟨0xFC000087#32, 0x48000080#32, fun w => .stc (fld w 20 6) (fld w 14 6) (fld w 8 6) (fld w 5 2) (bit w 4) (bit w 3)⟩]

/-- Major 0x13. -/
def rows13 : List Row := [
  ⟨0xFC000086#32, 0x4C000000#32, fun w => .ld (fld w 20 6) (fld w 14 6) (fld w 8 6) (fld w 5 2) (bit w 4) (bit w 3) (bit w 0)⟩,
  ⟨0xFC000087#32, 0x4C000080#32, fun w => .st (fld w 20 6) (fld w 14 6) (fld w 8 6) (fld w 5 2) (bit w 4) (bit w 3)⟩,
  ⟨0xFC003FFF#32, 0x4C000002#32, fun w => .space (fld w 20 6) (fld w 14 6)⟩,
  ⟨0xFC003F0F#32, 0x4C000004#32, fun w => .cast (fld w 20 6) (fld w 14 6) (fld w 4 4)⟩]

/-- Major 0x14. -/
def rows14 : List Row := [
  ⟨0xFC000000#32, 0x50000000#32, fun w => .atom (fld w 20 6) (fld w 14 6) (fld w 8 6) (fld w 4 4) (bit w 3) (bit w 2) (bit w 1) (bit w 0)⟩]

/-- Major 0x15. -/
def rows15 : List Row := [
  ⟨0xFFFFFF03#32, 0x54000000#32, fun w => .fence (fld w 6 2) (fld w 2 4)⟩]

/-- Major 0x16. -/
def rows16 : List Row := [
  ⟨0xFFF03FCE#32, 0x58000000#32, fun w => .cpost (fld w 14 6) (fld w 4 2) (bit w 0)⟩,
  ⟨0xFC0FFFCF#32, 0x58000040#32, fun w => .cqstat (fld w 20 6) (fld w 4 2)⟩,
  ⟨0xFFF03FFF#32, 0x58000080#32, fun w => .ccancel (fld w 14 6)⟩]

/-- Major 0x17. -/
def rows17 : List Row := [
  ⟨0xFFF000FF#32, 0x5C000000#32, fun w => .binit (fld w 14 6) (fld w 8 6)⟩,
  ⟨0xFFF000FF#32, 0x5C000001#32, fun w => .barv (fld w 14 6) (fld w 8 6)⟩,
  ⟨0xFFF000FF#32, 0x5C000002#32, fun w => .bexp (fld w 14 6) (fld w 8 6)⟩,
  ⟨0xFFF000FF#32, 0x5C000003#32, fun w => .bwait (fld w 14 6) (fld w 8 6)⟩,
  ⟨0xFC0000FF#32, 0x5C000004#32, fun w => .btest (fld w 20 6) (fld w 14 6) (fld w 8 6)⟩]

/-- Major 0x18. -/
def rows18 : List Row := [
  ⟨0xFD800000#32, 0x60000000#32, fun w => .mma (bit w 25) (fld w 20 3) (fld w 14 6) (fld w 8 6) (fld w 2 6) (bit w 1) (bit w 0)⟩]

/-- Major 0x19. -/
def rows19 : List Row := [
  ⟨0xFD800000#32, 0x64000000#32, fun w => .mloop (bit w 25) (fld w 20 3) (fld w 14 6) (fld w 8 6) (fld w 2 6) (bit w 1) (bit w 0)⟩]

/-- Major 0x1A. -/
def rows1A : List Row := [
  ⟨0xFF8FFFCF#32, 0x68000000#32, fun w => .mzero (fld w 20 3) (fld w 4 2)⟩,
  ⟨0xFF803FCF#32, 0x68000040#32, fun w => .mlda (fld w 20 3) (fld w 14 6) (fld w 4 2)⟩,
  ⟨0xFF8000FF#32, 0x68000080#32, fun w => .msta (fld w 20 3) (fld w 14 6) (fld w 8 6)⟩]

/-- Major 0x1B. -/
def rows1B : List Row := [
  ⟨0xFFF03FFF#32, 0x6C000000#32, fun w => .tsub (fld w 14 6)⟩,
  ⟨0xFC003FF7#32, 0x6C000010#32, fun w => .ttake (fld w 20 6) (fld w 14 6) (bit w 3)⟩,
  ⟨0xFFF03FFF#32, 0x6C000020#32, fun w => .tdone (fld w 14 6)⟩,
  ⟨0xFFF03FF7#32, 0x6C000030#32, fun w => .tretry (fld w 14 6) (bit w 3)⟩,
  ⟨0xFFF03FFF#32, 0x6C000040#32, fun w => .tcancel (fld w 14 6)⟩]

/-- Major 0x1C. -/
def rows1C : List Row := [
  ⟨0xFC003FFE#32, 0x70000000#32, fun w => .launch (fld w 20 6) (fld w 14 6) (bit w 0)⟩,
  ⟨0xFC003FFF#32, 0x70000040#32, fun w => .lwait (fld w 20 6) (fld w 14 6)⟩]

/-- Major 0x1D. -/
def rows1D : List Row := [
  ⟨0xFC0000E2#32, 0x74000000#32, fun w => .cxa (fld w 20 6) (fld w 14 6) (fld w 8 6) (fld w 2 3) (bit w 0)⟩,
  ⟨0xFC0000FE#32, 0x74000020#32, fun w => .cxg (fld w 20 6) (fld w 14 6) (fld w 8 6) (bit w 0)⟩,
  ⟨0xFC0000E2#32, 0x74000040#32, fun w => .cxs (fld w 20 6) (fld w 14 6) (fld w 8 6) (fld w 2 3) (bit w 0)⟩,
  ⟨0xFC0000FE#32, 0x74000060#32, fun w => .cxb (fld w 20 6) (fld w 14 6) (fld w 8 6) (bit w 0)⟩,
  ⟨0xFC0000FE#32, 0x74000080#32, fun w => .cxt (fld w 20 6) (fld w 14 6) (fld w 8 6) (bit w 0)⟩,
  ⟨0xFFF03FFE#32, 0x740000A0#32, fun w => .cxp (fld w 14 6) (bit w 0)⟩]

/-- Major 0x1E. -/
def rows1E : List Row := [
  ⟨0xFC0FFFC0#32, 0x78000000#32, fun w => .xrd (fld w 20 6) (fld w 0 6)⟩,
  ⟨0xFFF03FC0#32, 0x78000040#32, fun w => .xwr (fld w 14 6) (fld w 0 6)⟩,
  ⟨0xFC0FFFFF#32, 0x78000080#32, fun w => .time (fld w 20 6)⟩]

/-- Major 0x3F. -/
def rows3F : List Row := [
  ⟨0xFC000003#32, 0xFC000000#32, fun w => .hdr (fld w 14 12) (fld w 10 4) (fld w 6 4) (fld w 2 4)⟩]

/-- The rows of a major opcode; a reserved major has none (R349). -/
def rowsOf : Nat → List Row
  | 0x00 => rows00
  | 0x01 => rows01
  | 0x02 => rows02
  | 0x03 => rows03
  | 0x04 => rows04
  | 0x05 => rows05
  | 0x06 => rows06
  | 0x07 => rows07
  | 0x08 => rows08
  | 0x09 => rows09
  | 0x0A => rows0A
  | 0x0B => rows0B
  | 0x0C => rows0C
  | 0x0D => rows0D
  | 0x0E => rows0E
  | 0x0F => rows0F
  | 0x10 => rows10
  | 0x11 => rows11
  | 0x12 => rows12
  | 0x13 => rows13
  | 0x14 => rows14
  | 0x15 => rows15
  | 0x16 => rows16
  | 0x17 => rows17
  | 0x18 => rows18
  | 0x19 => rows19
  | 0x1A => rows1A
  | 0x1B => rows1B
  | 0x1C => rows1C
  | 0x1D => rows1D
  | 0x1E => rows1E
  | 0x3F => rows3F
  | _ => []

/-- The first row whose fixed bits the word carries. -/
def firstRow : List Row → Inst → Option Instr
  | [], _ => none
  | r :: rs, w => if w &&& r.mask = r.value then some (r.make w) else firstRow rs w

/-- The major opcode (R327). -/
def major (w : Inst) : Nat := (fld w 26 6).toNat

/-- Whether the word's function code is one that its major leaves unassigned, or its major is reserved
(R349, R352 to R371). -/
def unassigned (w : Inst) : Bool :=
  let minor := (fld w 0 8).toNat
  let d := (fld w 20 6).toNat
  let a := (fld w 14 6).toNat
  let low (n : Nat) := minor % 2 ^ n
  match major w with
  | 0x00 => (0x0D ≤ d && d ≤ 0x0F) || 0x20 ≤ d
  | 0x01 | 0x02 | 0x03 | 0x06 | 0x0A | 0x18 | 0x19 | 0x3F => false
  | 0x04 => 20 ≤ low 5
  | 0x05 => !([0, 1, 2, 7, 8, 9, 10, 11, 12, 13, 14, 15].contains (a % 32))  -- bit 5 of A is U, a field of its own (R354, R422)
  | 0x07 => minor < 128 && 6 ≤ low 3
  | 0x08 => !(minor ≤ 0x0A || (0x10 ≤ minor && minor ≤ 0x17) || (0x20 ≤ minor && minor ≤ 0x3F) || 0xF0 ≤ minor)
  | 0x09 => !(minor ≤ 0x0A || minor = 0x13 || 0xF0 ≤ minor)
  | 0x0B => false
  | 0x0C => low 3 = 7
  | 0x0D => 5 ≤ minor / 32 || (minor / 32 ≤ 1 && 6 ≤ minor / 4 % 8)
  | 0x0E => 9 ≤ low 4
  | 0x0F => 6 ≤ low 3
  | 0x10 | 0x11 | 0x12 => minor / 2 % 4 ≠ 0
  | 0x13 => minor / 2 % 4 = 3
  | 0x14 => 8 ≤ minor / 16
  | 0x15 => minor / 64 = 0 || 10 ≤ minor / 4 % 16
  | 0x16 => minor / 64 = 3
  | 0x17 => 5 ≤ low 3
  | 0x1A => minor / 64 = 3 || minor / 16 % 4 = 3
  | 0x1B => 5 ≤ minor / 16
  | 0x1C => 2 ≤ minor / 64
  | 0x1D => 6 ≤ minor / 32 || ((minor / 32 = 0 || minor / 32 = 2) && 6 ≤ minor / 4 % 8)
  | 0x1E => minor / 64 = 3 || (minor / 64 ≤ 1 && 17 ≤ low 6)
  | _ => true

/-- What a word decodes to. -/
inductive Decoded where
  /-- An instruction of the opcode table. -/
  | ok (i : Instr)
  /-- No instruction: its function code or major is unassigned (ILLEGAL_OPCODE). -/
  | illegal
  /-- No instruction: a bit marked 0 is set (RESERVED_FIELD). -/
  | reserved
  deriving DecidableEq, Repr

/-- Decode a word: an unassigned function code comes before a bit marked 0 (R275, R350). -/
def decode (w : Inst) : Decoded :=
  if unassigned w then .illegal
  else match firstRow (rowsOf (major w)) w with
    | some i => .ok i
    | none => .reserved

/-- A word from the four bytes it is stored as, lowest address first (R2, R327). -/
def wordOfBytes (b0 b1 b2 b3 : Byte) : Inst := b3 ++ b2 ++ b1 ++ b0

/-- The four bytes a word is stored as. -/
def bytesOfWord (w : Inst) : List Byte := [fld w 0 8, fld w 8 8, fld w 16 8, fld w 24 8]

/-- Decode the instruction that starts a list of bytes, with the bytes that follow it. -/
def decodeBytes : List Byte → Option (Decoded × List Byte)
  | b0 :: b1 :: b2 :: b3 :: rest => some (decode (wordOfBytes b0 b1 b2 b3), rest)
  | _ => none

/-- The instruction whose bits are the number w: every instruction is one word of 32 bits. -/
def decodeTableWord (_nbits w : Nat) : Option Instr :=
  match decodeBytes (bytesOfWord (BitVec.ofNat 32 w)) with
  | some (.ok i, _) => some i
  | _ => none

/-- The word of an instruction; events have none. -/
def encode : Instr → Option Inst
  | .nop => some (0x00000000#32)
  | .bra i => some (0x00100000#32 ||| put 0 i)
  | .call i => some (0x00200000#32 ||| put 0 i)
  | .jmpi a => some (0x00300000#32 ||| put 14 a)
  | .ret => some (0x00400000#32)
  | .join => some (0x00500000#32)
  | .exit => some (0x00600000#32)
  | .yield => some (0x00700000#32)
  | .halt => some (0x00800000#32)
  | .eret => some (0x00900000#32)
  | .trap a c => some (0x00A00000#32 ||| put 14 a ||| put 0 c)
  | .bkpt c => some (0x00B00000#32 ||| put 0 c)
  | .sysc c => some (0x00C00000#32 ||| put 0 c)
  | .brd k i => some (0x01000000#32 ||| put 20 k ||| put 0 i)
  | .mode e v => some (0x04000000#32 ||| put 20 e ||| put 0 v)
  | .modeReg e s => some (0x04080000#32 ||| put 20 e ||| put 0 s)
  | .rep p d a b n => some (0x08000000#32 ||| putB 9 p ||| putB 8 d ||| putB 7 a ||| putB 6 b ||| put 0 n)
  | .imm v => some (0x0C000000#32 ||| put 0 v)
  | .hdr w a b l => some (0xFC000000#32 ||| put 14 w ||| put 10 a ||| put 6 b ||| put 2 l)
  | .sadd d a b => some (0x10000000#32 ||| put 20 d ||| put 14 a ||| put 8 b)
  | .ssub d a b => some (0x10000001#32 ||| put 20 d ||| put 14 a ||| put 8 b)
  | .smul d a b => some (0x10000002#32 ||| put 20 d ||| put 14 a ||| put 8 b)
  | .smulh d a b => some (0x10000003#32 ||| put 20 d ||| put 14 a ||| put 8 b)
  | .smulhu d a b => some (0x10000004#32 ||| put 20 d ||| put 14 a ||| put 8 b)
  | .sdiv d a b u => some (0x10000005#32 ||| put 20 d ||| put 14 a ||| put 8 b ||| putB 5 u)
  | .srem d a b u => some (0x10000006#32 ||| put 20 d ||| put 14 a ||| put 8 b ||| putB 5 u)
  | .sand d a b => some (0x10000007#32 ||| put 20 d ||| put 14 a ||| put 8 b)
  | .sor d a b => some (0x10000008#32 ||| put 20 d ||| put 14 a ||| put 8 b)
  | .sxor d a b => some (0x10000009#32 ||| put 20 d ||| put 14 a ||| put 8 b)
  | .sshl d a b => some (0x1000000A#32 ||| put 20 d ||| put 14 a ||| put 8 b)
  | .sshr d a b => some (0x1000000B#32 ||| put 20 d ||| put 14 a ||| put 8 b)
  | .ssra d a b => some (0x1000000C#32 ||| put 20 d ||| put 14 a ||| put 8 b)
  | .smin d a b u => some (0x1000000D#32 ||| put 20 d ||| put 14 a ||| put 8 b ||| putB 5 u)
  | .smax d a b u => some (0x1000000E#32 ||| put 20 d ||| put 14 a ||| put 8 b ||| putB 5 u)
  | .smov d a => some (0x1000000F#32 ||| put 20 d ||| put 14 a)
  | .sbfx d a b u => some (0x10000010#32 ||| put 20 d ||| put 14 a ||| put 8 b ||| putB 5 u)
  | .sbfi d a b => some (0x10000011#32 ||| put 20 d ||| put 14 a ||| put 8 b)
  | .sclz d a => some (0x10000012#32 ||| put 20 d ||| put 14 a)
  | .spop d a => some (0x10000013#32 ||| put 20 d ||| put 14 a)
  | .saddImm d i => some (0x14000000#32 ||| put 20 d ||| put 0 i)
  | .ssubImm d i => some (0x14004000#32 ||| put 20 d ||| put 0 i)
  | .smulImm d i => some (0x14008000#32 ||| put 20 d ||| put 0 i)
  | .sandImm d i => some (0x1401C000#32 ||| put 20 d ||| put 0 i)
  | .sorImm d i => some (0x14020000#32 ||| put 20 d ||| put 0 i)
  | .sxorImm d i => some (0x14024000#32 ||| put 20 d ||| put 0 i)
  | .sshlImm d i => some (0x14028000#32 ||| put 20 d ||| put 0 i)
  | .sshrImm d i => some (0x1402C000#32 ||| put 20 d ||| put 0 i)
  | .ssraImm d i => some (0x14030000#32 ||| put 20 d ||| put 0 i)
  | .sminImm d u i => some (0x14034000#32 ||| put 20 d ||| putB 19 u ||| put 0 i)
  | .smaxImm d u i => some (0x14038000#32 ||| put 20 d ||| putB 19 u ||| put 0 i)
  | .smovImm d i => some (0x1403C000#32 ||| put 20 d ||| put 0 i)
  | .sli d i => some (0x18000000#32 ||| put 20 d ||| put 0 i)
  | .scmp d a b u r => some (0x1C000000#32 ||| put 20 d ||| put 14 a ||| put 8 b ||| putB 3 u ||| put 0 r)
  | .ssel d a b c => some (0x1C000080#32 ||| put 20 d ||| put 14 a ||| put 8 b ||| put 0 c)
  | .vadd d a b => some (0x20000000#32 ||| put 20 d ||| put 14 a ||| put 8 b)
  | .vsub d a b => some (0x20000001#32 ||| put 20 d ||| put 14 a ||| put 8 b)
  | .vmul d a b => some (0x20000002#32 ||| put 20 d ||| put 14 a ||| put 8 b)
  | .vmulh d a b => some (0x20000003#32 ||| put 20 d ||| put 14 a ||| put 8 b)
  | .vmin d a b => some (0x20000004#32 ||| put 20 d ||| put 14 a ||| put 8 b)
  | .vmax d a b => some (0x20000005#32 ||| put 20 d ||| put 14 a ||| put 8 b)
  | .vand d a b => some (0x20000006#32 ||| put 20 d ||| put 14 a ||| put 8 b)
  | .vor d a b => some (0x20000007#32 ||| put 20 d ||| put 14 a ||| put 8 b)
  | .vxor d a b => some (0x20000008#32 ||| put 20 d ||| put 14 a ||| put 8 b)
  | .vshl d a b => some (0x20000009#32 ||| put 20 d ||| put 14 a ||| put 8 b)
  | .vshr d a b => some (0x2000000A#32 ||| put 20 d ||| put 14 a ||| put 8 b)
  | .vabs d a => some (0x20000010#32 ||| put 20 d ||| put 14 a)
  | .vneg d a => some (0x20000011#32 ||| put 20 d ||| put 14 a)
  | .vnot d a => some (0x20000012#32 ||| put 20 d ||| put 14 a)
  | .vmov d a => some (0x20000013#32 ||| put 20 d ||| put 14 a)
  | .vclz d a => some (0x20000014#32 ||| put 20 d ||| put 14 a)
  | .vpop d a => some (0x20000015#32 ||| put 20 d ||| put 14 a)
  | .viota d => some (0x20000016#32 ||| put 20 d)
  | .vbcast d a b => some (0x20000017#32 ||| put 20 d ||| put 14 a ||| put 8 b)
  | .vcvt d a t s => some (0x20000020#32 ||| put 20 d ||| put 14 a ||| put 8 t ||| put 0 s)
  | .vsel d a b k => some (0x200000F0#32 ||| put 20 d ||| put 14 a ||| put 8 b ||| put 0 k)
  | .vaddScalar d a b => some (0x24000000#32 ||| put 20 d ||| put 14 a ||| put 8 b)
  | .vsubScalar d a b => some (0x24000001#32 ||| put 20 d ||| put 14 a ||| put 8 b)
  | .vmulScalar d a b => some (0x24000002#32 ||| put 20 d ||| put 14 a ||| put 8 b)
  | .vmulhScalar d a b => some (0x24000003#32 ||| put 20 d ||| put 14 a ||| put 8 b)
  | .vminScalar d a b => some (0x24000004#32 ||| put 20 d ||| put 14 a ||| put 8 b)
  | .vmaxScalar d a b => some (0x24000005#32 ||| put 20 d ||| put 14 a ||| put 8 b)
  | .vandScalar d a b => some (0x24000006#32 ||| put 20 d ||| put 14 a ||| put 8 b)
  | .vorScalar d a b => some (0x24000007#32 ||| put 20 d ||| put 14 a ||| put 8 b)
  | .vxorScalar d a b => some (0x24000008#32 ||| put 20 d ||| put 14 a ||| put 8 b)
  | .vshlScalar d a b => some (0x24000009#32 ||| put 20 d ||| put 14 a ||| put 8 b)
  | .vshrScalar d a b => some (0x2400000A#32 ||| put 20 d ||| put 14 a ||| put 8 b)
  | .vmovScalar d a => some (0x24000013#32 ||| put 20 d ||| put 14 a)
  | .vselScalar d a b k => some (0x240000F0#32 ||| put 20 d ||| put 14 a ||| put 8 b ||| put 0 k)
  | .vfma d a b c p n => some (0x28000000#32 ||| put 20 d ||| put 14 a ||| put 8 b ||| put 2 c ||| putB 1 p ||| putB 0 n)
  | .vrcp d a f => some (0x2C000000#32 ||| put 20 d ||| put 14 a ||| putB 0 f)
  | .vrsq d a f => some (0x2C000002#32 ||| put 20 d ||| put 14 a ||| putB 0 f)
  | .vsqrt d a f => some (0x2C000004#32 ||| put 20 d ||| put 14 a ||| putB 0 f)
  | .vdiv d a b f => some (0x2C000006#32 ||| put 20 d ||| put 14 a ||| put 8 b ||| putB 0 f)
  | .vexp2 d a f => some (0x2C000008#32 ||| put 20 d ||| put 14 a ||| putB 0 f)
  | .vlog2 d a f => some (0x2C00000A#32 ||| put 20 d ||| put 14 a ||| putB 0 f)
  | .vsin d a f => some (0x2C00000C#32 ||| put 20 d ||| put 14 a ||| putB 0 f)
  | .vcos d a f => some (0x2C00000E#32 ||| put 20 d ||| put 14 a ||| putB 0 f)
  | .vcoal d => some (0x30000000#32 ||| put 20 d)
  | .vinfo d a => some (0x30000001#32 ||| put 20 d ||| put 14 a)
  | .vfree d => some (0x30000002#32 ||| put 20 d)
  | .vbudget d a => some (0x30000003#32 ||| put 20 d ||| put 14 a)
  | .vrun d a b => some (0x30000004#32 ||| put 20 d ||| put 14 a ||| put 8 b)
  | .vext d a b => some (0x30000005#32 ||| put 20 d ||| put 14 a ||| put 8 b)
  | .vins d a b => some (0x30000006#32 ||| put 20 d ||| put 14 a ||| put 8 b)
  | .vred d a o => some (0x34000000#32 ||| put 20 d ||| put 14 a ||| put 2 o)
  | .vscan d a o => some (0x34000020#32 ||| put 20 d ||| put 14 a ||| put 2 o)
  | .vperm d a b => some (0x34000040#32 ||| put 20 d ||| put 14 a ||| put 8 b)
  | .vrot d a b => some (0x34000060#32 ||| put 20 d ||| put 14 a ||| put 8 b)
  | .vsfc d a b h e => some (0x34000080#32 ||| put 20 d ||| put 14 a ||| put 8 b ||| putB 4 h ||| putB 3 e)
  | .mand d a b => some (0x38000000#32 ||| put 20 d ||| put 14 a ||| put 8 b)
  | .mor d a b => some (0x38000001#32 ||| put 20 d ||| put 14 a ||| put 8 b)
  | .mxor d a b => some (0x38000002#32 ||| put 20 d ||| put 14 a ||| put 8 b)
  | .mandn d a b => some (0x38000003#32 ||| put 20 d ||| put 14 a ||| put 8 b)
  | .mnot d a => some (0x38000004#32 ||| put 20 d ||| put 14 a)
  | .mmov d a => some (0x38000005#32 ||| put 20 d ||| put 14 a)
  | .mcnt d a => some (0x38000006#32 ||| put 20 d ||| put 14 a)
  | .mfirst d a => some (0x38000007#32 ||| put 20 d ||| put 14 a)
  | .mset d a b => some (0x38000008#32 ||| put 20 d ||| put 14 a ||| put 8 b)
  | .vcmp d a b s r => some (0x3C000000#32 ||| put 20 d ||| put 14 a ||| put 8 b ||| putB 3 s ||| put 0 r)
  | .lds d a b z v c f => some (0x40000000#32 ||| put 20 d ||| put 14 a ||| put 8 b ||| put 5 z ||| putB 4 v ||| putB 3 c ||| putB 0 f)
  | .sts d a b z v c => some (0x40000080#32 ||| put 20 d ||| put 14 a ||| put 8 b ||| put 5 z ||| putB 4 v ||| putB 3 c)
  | .ldt d a b z v c f => some (0x44000000#32 ||| put 20 d ||| put 14 a ||| put 8 b ||| put 5 z ||| putB 4 v ||| putB 3 c ||| putB 0 f)
  | .stt d a b z v c => some (0x44000080#32 ||| put 20 d ||| put 14 a ||| put 8 b ||| put 5 z ||| putB 4 v ||| putB 3 c)
  | .ldc d a b z v c f => some (0x48000000#32 ||| put 20 d ||| put 14 a ||| put 8 b ||| put 5 z ||| putB 4 v ||| putB 3 c ||| putB 0 f)
  | .stc d a b z v c => some (0x48000080#32 ||| put 20 d ||| put 14 a ||| put 8 b ||| put 5 z ||| putB 4 v ||| putB 3 c)
  | .ld d a b z v c f => some (0x4C000000#32 ||| put 20 d ||| put 14 a ||| put 8 b ||| put 5 z ||| putB 4 v ||| putB 3 c ||| putB 0 f)
  | .st d a b z v c => some (0x4C000080#32 ||| put 20 d ||| put 14 a ||| put 8 b ||| put 5 z ||| putB 4 v ||| putB 3 c)
  | .space d a => some (0x4C000002#32 ||| put 20 d ||| put 14 a)
  | .cast d a w => some (0x4C000004#32 ||| put 20 d ||| put 14 a ||| put 4 w)
  | .atom d a b o w s v f => some (0x50000000#32 ||| put 20 d ||| put 14 a ||| put 8 b ||| put 4 o ||| putB 3 w ||| putB 2 s ||| putB 1 v ||| putB 0 f)
  | .fence k s => some (0x54000000#32 ||| put 6 k ||| put 2 s)
  | .cpost a q f => some (0x58000000#32 ||| put 14 a ||| put 4 q ||| putB 0 f)
  | .cqstat d q => some (0x58000040#32 ||| put 20 d ||| put 4 q)
  | .ccancel a => some (0x58000080#32 ||| put 14 a)
  | .binit a b => some (0x5C000000#32 ||| put 14 a ||| put 8 b)
  | .barv a b => some (0x5C000001#32 ||| put 14 a ||| put 8 b)
  | .bexp a b => some (0x5C000002#32 ||| put 14 a ||| put 8 b)
  | .bwait a b => some (0x5C000003#32 ||| put 14 a ||| put 8 b)
  | .btest d a b => some (0x5C000004#32 ||| put 20 d ||| put 14 a ||| put 8 b)
  | .mma s c a b f n x => some (0x60000000#32 ||| putB 25 s ||| put 20 c ||| put 14 a ||| put 8 b ||| put 2 f ||| putB 1 n ||| putB 0 x)
  | .mloop s c a b l n x => some (0x64000000#32 ||| putB 25 s ||| put 20 c ||| put 14 a ||| put 8 b ||| put 2 l ||| putB 1 n ||| putB 0 x)
  | .mzero c f => some (0x68000000#32 ||| put 20 c ||| put 4 f)
  | .mlda c a f => some (0x68000040#32 ||| put 20 c ||| put 14 a ||| put 4 f)
  | .msta c a b => some (0x68000080#32 ||| put 20 c ||| put 14 a ||| put 8 b)
  | .tsub a => some (0x6C000000#32 ||| put 14 a)
  | .ttake d a m => some (0x6C000010#32 ||| put 20 d ||| put 14 a ||| putB 3 m)
  | .tdone a => some (0x6C000020#32 ||| put 14 a)
  | .tretry a m => some (0x6C000030#32 ||| put 14 a ||| putB 3 m)
  | .tcancel a => some (0x6C000040#32 ||| put 14 a)
  | .launch d a f => some (0x70000000#32 ||| put 20 d ||| put 14 a ||| putB 0 f)
  | .lwait d a => some (0x70000040#32 ||| put 20 d ||| put 14 a)
  | .cxa d a b r f => some (0x74000000#32 ||| put 20 d ||| put 14 a ||| put 8 b ||| put 2 r ||| putB 0 f)
  | .cxg d a b f => some (0x74000020#32 ||| put 20 d ||| put 14 a ||| put 8 b ||| putB 0 f)
  | .cxs d a b r f => some (0x74000040#32 ||| put 20 d ||| put 14 a ||| put 8 b ||| put 2 r ||| putB 0 f)
  | .cxb d a b f => some (0x74000060#32 ||| put 20 d ||| put 14 a ||| put 8 b ||| putB 0 f)
  | .cxt d a b f => some (0x74000080#32 ||| put 20 d ||| put 14 a ||| put 8 b ||| putB 0 f)
  | .cxp a f => some (0x740000A0#32 ||| put 14 a ||| putB 0 f)
  | .xrd d s => some (0x78000000#32 ||| put 20 d ||| put 0 s)
  | .xwr a s => some (0x78000040#32 ||| put 14 a ||| put 0 s)
  | .time d => some (0x78000080#32 ||| put 20 d)
  | .vectorFinalPass _ _ => none
  | .loadDataReady _ _ => none
  | .storePerform _ _ => none
  | .clusterStoreAck _ _ => none
  | .doorbell _ _ _ => none
  | .queuePriorityWrite _ _ _ => none
  | .queueOwnportMove _ _ _ => none
  | .launchRecordRead _ => none
  | .batchHandout _ => none
  | .groupPlacement _ => none
  | .partitionFillEnd _ _ => none
  | .groupComplete _ _ => none
  | .launchAccept _ _ => none
  | .notificationPost _ => none
  | .faultRecordPost => none
  | .priorityPreemption => none
  | .quantumExpiry _ _ => none
  | .parkedEviction _ => none
  | .gridStall _ => none
  | .hostPreemptRequest _ _ => none
  | .groupRestore _ _ => none
  | .commandAccept _ _ _ => none
  | .commandStart _ _ => none
  | .copyCmd _ _ _ _ => none
  | .gatherCmd _ _ _ _ => none
  | .scatterCmd _ _ _ _ => none
  | .fillCmd _ _ _ _ => none
  | .watchCmd _ _ _ => none
  | .watchComplete _ _ _ => none
  | .signalCmd _ _ _ => none
  | .copyFence _ _ _ => none
  | .flushCmd _ _ _ => none
  | .hintPrefetchL2 _ _ _ => none
  | .hintPrefetchHome _ _ _ => none
  | .hintKeepResident _ _ _ => none
  | .hintReleaseResidency _ _ _ => none
  | .commandComplete _ _ _ => none
  | .cancellationComplete _ _ _ => none
  | .generationBump _ _ => none
  | .homeAcknowledge _ _ => none
  | .fillReturn _ _ => none
  | .writeBack _ _ => none
  | .writeThrough _ _ => none
  | .homeAtomic _ _ => none
  | .rdupInvalidate _ _ => none
  | .sweeperVisit _ _ => none
  | .scrubRead _ _ => none
  | .pageWalk _ _ _ => none
  | .replay _ _ _ => none
  | .tlbinv _ _ _ => none
  | .tlbinvComplete _ => none
  | .handoverTodevice _ _ => none
  | .handoverTohost _ _ => none
  | .handoverComplete => none
  | .fqsvcResume _ _ => none
  | .fqsvcCancel _ _ => none
  | .debugHalt _ _ _ => none
  | .debugResume _ _ _ => none
  | .debugStep _ _ _ => none
  | .snap _ _ _ => none
  | .snapReload _ _ => none
  | .hostRead _ _ _ => none
  | .hostWrite _ _ _ => none
  | .hostFetchadd _ _ _ _ => none
  | .hostSwap _ _ _ _ => none
  | .hostCas _ _ _ _ _ => none
  | .registerWrite _ _ _ _ => none
  | .mcwinDefine _ _ _ => none
  | .collectiveAbort _ _ => none
  | .collectiveAccept _ _ => none
  | .collectiveComplete _ _ _ => none
  | .flitReceive _ _ => none
  | .flitNak _ _ => none
  | .remoteRequest _ => none
  | .remoteCommit _ => none
  | .remoteTimeoutExpiry _ => none
  | .busyRetry _ => none
  | .stagingExpiry _ => none
  | .matrixOpStart _ => none
  | .matrixOpComplete _ => none
  | .rampAdjust => none
  | .powerMeasure _ => none
  | .powerRequest _ _ => none
  | .powerStateEntry => none
  | .resetDevice _ => none
  | .freeze => none
  | .signedUnlock _ => none
  | .provisioningCommand _ => none
  | .attestationReport _ => none
  | .errorDetected _ => none
  | .selfTestEnd _ _ => none
  | .yieldExpiry _ _ => none
  | .specialFunctionReady _ _ => none
  | .dividerFree _ => none
  | .firmwareUpdate => none

end Sys2Proof
end

