-- ==== Sys2Proof/Config.lean ====
section
/-! DEFINITION. What an implementation fixes and the specification leaves open. Every constant here is
opaque: no proof can see its value, so every statement holds whatever it is. -/

namespace Sys2Proof.Config

/-- Set index within a slice of the die L2 for a line address: not architectural (R180). Taken modulo 1,536. -/
opaque l2Set : Nat → Nat

/-- Set index within a home cache for a line of its stack: R194 gives no hash. Taken modulo 8,192. -/
opaque homeSet : Nat → Nat

/-- The identifier a new grid is first offered, by the number of grids accepted so far (R32). -/
opaque freeGridId : Nat → BitVec 32

/-- Whether an element of a collective's buffer holds its new value after TIMEOUT, ABORTED or FAULT:
any mixture is allowed (R310). Applied to the counter `free` of the state, advanced for every element. -/
opaque freeMixture : Nat → Bool

/-- The value that other members' data give an element of a collective that ends before this device has that data (R310). Applied to the
counter `free` of the state. -/
opaque peerElement : Nat → BitVec 64

/-- The lane that a Penuf port is reported with when it is taken down, which R299 does not say: by the NAKed flit's number. -/
opaque failedLane : Nat → BitVec 3

/-- Which of several elements that one operation writes to the same byte is the one that stays, when the
specification gives no order among them (R245). Applied to the counter `free` of the state and the byte's
address, and taken modulo the number of writers. -/
opaque freeWinner : Nat → Nat → Nat

/-- QUEUE in bits 7 and 6 and SLOT in bits 5 to 0 of the range-lock entries of the n-th collective: R145 gives
these fields for commands only. -/
opaque freeLockSlot : Nat → BitVec 8

/-- The Penuf port on which a transaction to a device and a 4 KiB granule is sent, among those that
are up: a hash the specification does not give (R299). Taken modulo the number of ports that are up. -/
opaque portHash : Nat → Nat → Nat

/-- The other four bits of a byte of a remote window into which one four-bit element is written by itself: the specification gives a
remote write whole bytes (R301) and no rule for such an element. Applied to the counter `free` of the state. -/
opaque freeNibble : Nat → BitVec 4

/-- A doubleword that the device reads where nothing can be read: a poisoned sector, or an address that no memory answers, for example a
launch record there. Applied to the counter `free` of the state and the address. -/
opaque noData : Nat → Nat → BitVec 64

/-- The row of an HBM4E stack that a sector of the stack lies in: R322 names rows and gives no layout. -/
opaque hbmRow : Nat → Nat

/-- The 32 bytes of a spilled sequence state, from its peer, address space and two numbers: their layout is not given (R303). -/
opaque seqImage : Nat → Nat → Nat → Nat → BitVec 256

/-- The payload of the n-th data flit that a port sends: the packets' layout is not given (R298). -/
opaque flitPayload : Nat → Nat → BitVec 1920

/-- Internal scan state, which the specification does not describe (R324). Applied to the counter `free` of the state. -/
opaque scanState : Nat → BitVec 64

/-- How long steps 1 and 2 of bring-up take, in the units of time of the state: the specification gives about 2 ms and about 65 ms (R318). -/
opaque bringUpTime : Nat → Nat

/-- SHA-512 of the running firmware, as the report carries it, after n updates (R325). -/
opaque firmwareHash : Nat → BitVec 512

/-- SHA-512 of the identity public key, for the n-th identity key the device has generated (R325). -/
opaque identityHash : Nat → BitVec 512

/-- The Ed25519 signature made with the identity key over a report's contents, given as a number (R325). -/
opaque signReport : Nat → BitVec 512

/-- The position that TRAPCAUSE.CPOS names after a CLAUSE_FRAME at a word beyond position 8, less one: the device never writes 9 to 15 there
(R276), and which of 1 to 8 it writes is not said. Applied to the word's address and taken modulo 8. -/
opaque framePos : Nat → Nat

/-- Which of several target cores performs a team's cluster-window store first, where R208 gives no order. Applied to the counter `free` of the
state and taken modulo their number. -/
opaque nextTarget : Nat → Nat

/-- A fallback for a special function whose result could not be decided within the precision the model
computes with (see the assumption log); the argument is the function's number and the operand. -/
opaque undecided : Nat → Nat → Bool

end Sys2Proof.Config
end

