-- ==== Sys2Proof/Machine/Tab.lean ====
section
/-! DEFINITION. Tables: finite maps from numbers to data, held as lists of pairs.
Registers, teams, groups, cache lines and every other numbered item of the machine are kept in such tables,
so that the state stays plain data. A number that is not listed reads as the default its reader gives. -/

namespace Sys2Proof.Machine

/-- A table: pairs of a number and an item. -/
abbrev Tab (α : Type) := List (Nat × α)

/-- The item listed under `k`, if any. -/
def Tab.find? {α : Type} : Tab α → Nat → Option α
  | [], _ => none
  | (j, v) :: t, k => if j = k then some v else Tab.find? t k

/-- The item under `k`, or `d` when none is listed. -/
def Tab.get {α : Type} (d : α) (t : Tab α) (k : Nat) : α := (t.find? k).getD d

/-- The table without any item under `k`. -/
def Tab.erase {α : Type} : Tab α → Nat → Tab α
  | [], _ => []
  | (j, v) :: t, k => if j = k then Tab.erase t k else (j, v) :: Tab.erase t k

/-- The pair put before the first larger number. -/
def Tab.insert {α : Type} : Tab α → Nat → α → Tab α
  | [], k, v => [(k, v)]
  | (j, w) :: t, k, v => if k < j then (k, v) :: (j, w) :: t else (j, w) :: Tab.insert t k v

/-- The table with `v` under `k`. -/
def Tab.set {α : Type} (t : Tab α) (k : Nat) (v : α) : Tab α := Tab.insert (Tab.erase t k) k v

/-- Whether something is listed under `k`. -/
def Tab.has {α : Type} (t : Tab α) (k : Nat) : Bool := (t.find? k).isSome

/-- The item under `k` changed by `f`, when it is listed. -/
def Tab.modify {α : Type} (t : Tab α) (k : Nat) (f : α → α) : Tab α :=
  match t.find? k with
  | some v => t.set k (f v)
  | none => t

/-- Every item changed by `f`. -/
def Tab.map {α : Type} (t : Tab α) (f : Nat → α → α) : Tab α := List.map (fun p => (p.1, f p.1 p.2)) t

/-- The numbers listed, in the table's order. -/
def Tab.keys {α : Type} (t : Tab α) : List Nat := List.map Prod.fst t

/-- The items whose number and value satisfy `p`. -/
def Tab.filter {α : Type} (t : Tab α) (p : Nat → α → Bool) : Tab α := List.filter (fun q => p q.1 q.2) t

/-- The lowest number below `bound`, from `start` on, under which nothing is listed. -/
def Tab.firstFree {α : Type} (t : Tab α) : (fuel start : Nat) → Option Nat
  | 0, _ => none
  | fuel + 1, start => if t.has start then Tab.firstFree t fuel (start + 1) else some start

/-! ## Sorted lists -/

/-- An item put before the first one that it may precede. -/
def insertBy {α : Type} (le : α → α → Bool) (x : α) : List α → List α
  | [] => [x]
  | y :: ys => if le x y then x :: y :: ys else y :: insertBy le x ys

/-- A list in the order of `le`; items that may precede each other keep their places. -/
def sortBy {α : Type} : List α → (α → α → Bool) → List α
  | [], _ => []
  | x :: xs, le => insertBy le x (sortBy xs le)

end Sys2Proof.Machine
end

