-- ==== Sys2Proof/Machine/State.lean ====
section
/-! DEFINITION. The state of the device, as plain data. Every register, memory, queue and table the
specification names has its place here. The parts are grouped by the unit that owns them: `Mach` is what
instruction words act on (cores, groups, teams, grids, dispatch), `mem` is the memory behind the homes,
`l2` the die L2s, translators and homes, `fab` the fabric and collectives, `sys` the registers of the I/O
dies. `agenda` says what moves next. -/

namespace Sys2Proof.Machine

/-- Memory: the listed bytes, addresses strictly rising, no listed byte zero. -/
abbrev Mem := List Host.Cell

/-! ## Vector and mask registers (R61 to R69, R83) -/

/-- A run of a general vector register: its value and its exclusive end lane. -/
structure Run where
  val : Word
  stop : Nat
  deriving DecidableEq, Repr

/-- A vector register's shape tag with the slots it lays out (R65). -/
inductive Shape where
  | u (val : Word)
  | a (base step : Word)
  | g (runs : List Run)
  deriving DecidableEq, Repr

/-- A vector register: its width bit W (R63) and its shape. -/
structure VReg where
  w : Bool
  shape : Shape
  deriving DecidableEq, Repr

/-- A run of a mask register (R83). -/
structure MRun where
  bit : Bool
  stop : Nat
  deriving DecidableEq, Repr

/-- A reconvergence stack entry (R58, R60). -/
structure StackEntry where
  /-- The kind: true for RECONV, false for ELSE. -/
  reconv : Bool
  saved : List MRun
  pending : List MRun
  resume : Word
  deriving DecidableEq, Repr

/-! ## Teams (R34, R50) -/

/-- Which register a pending result goes to. -/
inductive RegClass where
  | scalar | vector | mask | none
  deriving DecidableEq, Repr

/-- What produced a pending result, so that the event that ends it can be told apart. -/
inductive PendKind where
  | load | special | divider | other
  deriving DecidableEq, Repr

/-- A result that is not yet readable, and the clause flag that counts it (R333). Flag 12 stands for
no flag: the operation then counts in the team's outstanding total only. -/
structure Pend where
  cls : RegClass
  num : Nat
  due : Nat
  kind : PendKind
  flag : Option Nat
  deriving DecidableEq, Repr

/-- A vector instruction still in its passes: its last pass and the flags it will raise (R118). -/
structure PassRec where
  due : Nat
  flags : Nat
  deriving DecidableEq, Repr

/-- What is taken of a core's banks in one cycle: scratchpad data banks 0 to 31 and parity banks 32 to 35 as a set of bits, the row that a
set's parity bank serves, and tile-store banks (R140, R141). -/
structure BankUse where
  banks : Nat
  rows : Tab Nat
  tile : Nat
  deriving DecidableEq, Repr

/-- Every bank free. -/
def BankUse.idle : BankUse := { banks := 0, rows := [], tile := 0 }

/-- A store in a team's store queue (R207): target core and memory, and the bytes it writes, by
physical offset, in lane order. -/
structure QueuedStore where
  core : Nat
  tile : Bool
  cluster : Bool
  bytes : List (Nat × Byte)
  /-- The cycle of its issue, and the one its bank phase, or the rest of it, waits to follow. -/
  issued : Nat
  entered : Nat
  /-- The words that its bank phase, at a cluster window's target too, has still to serve, and whether it is one block (R137, R140). -/
  left : List Nat
  block : Bool
  deriving DecidableEq, Repr

/-- What a parked team waits for (R50). -/
inductive Park where
  /-- BWAIT: the barrier's offset and the phase it had (R376). -/
  | bwait (off phase : Nat)
  /-- TTAKE.wait, with the registers that receive the index and the entry (R255). -/
  | ttake (d e : Nat)
  /-- LWAIT: the handle and the register that receives the status (R408). -/
  | lwait (handle : Word) (d : Nat)
  deriving DecidableEq, Repr

/-- The states of a resident team (R50). READY and WAITING are both `running`: which of them holds is
decided each cycle by the issue conditions. A halted team remembers what it was halted from. `ending` is a
terminated team that waits for its clause flags to clear (R278). -/
inductive Phase where
  | running
  | parked (p : Park)
  | halted (before : Option Park)
  | ending
  | exited
  deriving DecidableEq, Repr

/-- A resident team (R34). -/
structure Team where
  /-- Group place on the core. -/
  group : Nat
  /-- TEAMID. -/
  tid : Nat
  /-- LANES. -/
  lanes : Nat
  /-- Declared vector registers. -/
  nv : Nat
  s : Tab Word
  v : Tab VReg
  m : Tab (List MRun)
  mode : Word
  status : Word
  trapPc : Word
  trapCause : Word
  trapInfo : Word
  trapVec : Word
  /-- The header address of the clause that trapped, until software writes TRAPPC: ERET finds word CPOS from it (R277, R437). -/
  trapClause : Option Word
  pc : Word
  /-- Position of the next word in its clause: 0 when a header is expected, else 1 to 8. -/
  pos : Nat
  /-- Bits 13-0 of the clause's header. -/
  hdr : BitVec 14
  repCnt : Nat
  /-- The REP word that prefixes the next word, if any. -/
  repWord : Option Inst
  /-- The IMM word that prefixes the next word, if any. -/
  immWord : Option Inst
  /-- Address and position of the first prefix of the pair. -/
  prefixPc : Word
  prefixPos : Nat
  /-- Outstanding operations per clause flag 0 to 11; 12 counts those that named no flag. -/
  flags : Tab Nat
  /-- Held reconvergence entries, newest first. -/
  stack : List StackEntry
  /-- Offsets in the private area of the spilled records, newest first, and the end of the last one. -/
  spilled : List Nat
  spillEnd : Nat
  allot : Nat
  phase : Phase
  haltReq : Bool
  stepping : Bool
  age : Nat
  /-- The cycle after the one in which the team last issued, or in which its bank phase ends. -/
  nextIssue : Nat
  /-- The first cycle after the wait of a YIELD in progress. -/
  yielding : Option Nat
  pend : List Pend
  passes : List PassRec
  /-- Registers that vector instructions in their passes have read, with the final pass of each: no later writer issues before it is over (R438). -/
  holds : List (Nat × List (RegClass × Nat))
  storeQ : List QueuedStore
  /-- Cluster-window stores that have left the queue and are not yet performed at their targets, in order (R208). -/
  flight : List QueuedStore
  held : Option Nat
  deriving DecidableEq, Repr

/-! ## Launch records, groups (R36, R33) -/

/-- The fields of a launch record. -/
structure LaunchRec where
  groups : Nat
  teams : Nat
  width : Nat
  prio : Nat
  coloc : Nat
  nacc : Nat
  vregs : Nat
  overlap : Bool
  evictable : Bool
  coop : Bool
  entry : Nat
  arg : Word
  scratch : Nat
  tile : Nat
  stalliv : Nat
  priv : Nat
  allot : Nat
  sigaddr : Nat
  sigval : Word
  user : Word
  deriving DecidableEq, Repr

/-- The states of a group on a core (R48); PENDING and SAVED groups are held by their grid. -/
inductive GroupPhase where
  | resident
  | draining
  /-- A PLACEHOLDER that keeps its group place because the placeholder table is full (R49). -/
  | waitingPlaceholder
  /-- Complete or saved in this cycle: what it held is free for placement from the next one (R29). -/
  | gone
  deriving DecidableEq, Repr

/-- A group on a core. -/
structure Group where
  grid : Nat
  idx : Nat
  /-- Priority tag. -/
  prio : Nat
  /-- Launch queue of the top-level ancestor. -/
  queue : Nat
  aspace : Nat
  depth : Nat
  lrec : LaunchRec
  /-- First scratchpad unit and unit count. -/
  spUnit : Nat
  spUnits : Nat
  /-- First tile-store unit and unit count. -/
  tileUnit : Nat
  tileUnits : Nat
  /-- Accumulators of the core, a0 first. -/
  accs : List Nat
  phase : GroupPhase
  children : Nat
  /-- The time of its placement. -/
  placedAt : Nat
  /-- The cycle in which the partition fill ends, while it runs (R144); its teams and commands wait for it. -/
  filling : Option Nat
  /-- The acquire that a restore on another die makes, which they wait for as well (R223, R285). -/
  acquire : Option Nat
  /-- Chosen for saving: no team starts a clause (R282). -/
  stopping : Bool
  /-- Ready stamp per READY task (R254). -/
  stamps : Tab Nat
  /-- Indices of the live TCBs: submitted, and WAITING, READY, RUNNING or FAULTED (R250). -/
  live : List Nat
  /-- Some team was terminated. -/
  faulted : Bool
  deriving DecidableEq, Repr

/-! ## Copy engine (R145 to R177) -/

/-- A range-lock entry (R145). `ocore` is the posting core; `coll` names the collective that
registered it, if a collective did. -/
structure Lock where
  tile : Bool
  rw : Bool
  queue : Nat
  slot : Nat
  group : Nat
  start : Nat
  stop : Nat
  ocore : Nat
  coll : Option Nat
  /-- The first cycle in which an access is tested against it: the one after its registration (R147, R375). -/
  from_ : Nat
  deriving DecidableEq, Repr

/-- An arrival that a command or a collective brings to a barrier at the end of the cycle: the queue and entry that order it, the
barrier's physical offset, and the count (R172). -/
structure Arrival where
  key : Nat
  off : Nat
  count : Nat
  deriving DecidableEq, Repr

/-- STATE of a command (R156). -/
inductive CmdState where
  | posted | running | suspended | done | cancelled
  deriving DecidableEq, Repr

/-- A copy-queue entry: the captured record and its progress. -/
structure Cmd where
  group : Nat
  /-- TEAMID of the poster, whose private area its private pointers reach. -/
  tid : Nat
  /-- Team place of the poster and the flag its CPOST counts against, until acceptance. -/
  team : Nat
  flag : Nat
  /-- Group-relative offset of the record. -/
  off : Nat
  words : List Word
  src : Option (List Word)
  dst : Option (List Word)
  postedAt : Nat
  /-- Accepted by the engine (R150). -/
  accepted : Bool
  /-- Acceptance order on the core. -/
  order : Nat
  started : Bool
  state : CmdState
  fault : Nat
  done : Nat
  crc : BitVec 32
  cvtInv : Bool
  cvtOvf : Bool
  hintDrop : Bool
  crcBad : Bool
  /-- QUEUE and SLOT of its last fault record (R279). -/
  idQueue : Nat
  idSlot : Nat
  /-- A service action recorded while its group was saved: 0, 1 resume, 2 cancel. -/
  svc : Nat
  cancelling : Bool
  /-- Step of a data unit, or of a SIGNAL, FENCE, FLUSH, HINT or WATCH; 4 when all that one of these does is done. -/
  stage : Nat
  /-- Messages whose acknowledgement the command waits for. -/
  waits : List Nat
  /-- Sectors read for it and not yet used: physical address and bytes (R182). -/
  fills : Tab (List Byte)
  /-- Sectors requested and not yet returned. -/
  asked : List Nat
  /-- The element waits in the replay queue for this page (R199). -/
  replay : Option Nat
  /-- Value a watch was satisfied with. -/
  watchVal : Option Word
  /-- Bump token a WATCH or FENCE waits for. -/
  token : Option Nat
  /-- Values that peers have answered, by twice the element index, one more for what its write returned (R301). -/
  answers : Tab Word
  /-- A fault code that a peer's answer, or its silence, has brought and that is not yet reported (R301, R303). -/
  remoteFault : Nat
  /-- Peers that hold, or may hold, something staged for it. -/
  peers : List Nat
  deriving DecidableEq, Repr

/-! ## Matrix engine (R226 to R248) -/

/-- Accumulator tags (R227). -/
inductive AccTag where
  | fp32 | fp64 | int32
  deriving DecidableEq, Repr

/-- An accumulator: its tag and its bytes. -/
structure Acc where
  tag : AccTag
  mem : Mem
  deriving DecidableEq, Repr

/-- A matrix operation as it was captured at issue. -/
inductive MatKind where
  /-- MMA steps: shape records, format-block words, steps, increments and the three suffixes. -/
  | mma (sa sb : Word) (fb : Option (List Word)) (steps : Nat) (incA incB : Int) (neg accd spa : Bool)
  | mzero
  | mlda (shape : Word)
  | msta (shape : Word) (round phase : Nat) (sat : Bool) (tag : AccTag)
  deriving DecidableEq, Repr

/-- A queued matrix operation. -/
structure MatOp where
  group : Nat
  acc : Nat
  /-- The tag the accumulator has when the operation runs. -/
  tag : AccTag
  kind : MatKind
  issued : Nat
  cycles : Nat
  deriving DecidableEq, Repr

/-- A doubleword of a core's scratchpad that the device has written: its physical offset, what it held before, and the first cycle whose
thread accesses see the new value (R140, R253). -/
structure Veil where
  off : Nat
  old : Word
  from_ : Nat
  deriving DecidableEq, Repr

/-- Use of the issue slots of R17 in one cycle. -/
structure SlotUse where
  cycle : Nat
  vector : Nat
  scalar : Nat
  localMem : Nat
  matrix : Nat
  control : Nat
  deriving DecidableEq, Repr

/-- A core (R16). -/
structure Core where
  teams : Tab Team
  groups : Tab Group
  scratch : Mem
  tile : Mem
  accs : Tab Acc
  locks : Tab Lock
  /-- Entries freed in this cycle, which the task unit still sees (R253). -/
  freed : List Lock
  /-- Arrivals of this cycle's completions, and the places of parked teams whose phase an update of this cycle has reached (R172, R378). -/
  arrivals : List Arrival
  met : List Nat
  /-- Words that the task unit and the engines have written and that thread accesses still see as before, oldest first. -/
  veil : List Veil
  /-- Copy-queue entries, entry `slot` of queue `q` under 64 q + slot. -/
  cmds : Tab Cmd
  nextOrder : Nat
  matQ : List MatOp
  /-- The operation in the engine and the cycle its occupancy ends. -/
  matRun : Option MatOp
  matEnd : Nat
  /-- Cycles occupied in the current microsecond, and whether an operation waited on the ramp limit (R321). -/
  occupied : Nat
  rampWait : Bool
  /-- Cycles until which the three vector datapaths are occupied. -/
  paths : List Nat
  dividerFree : Nat
  /-- First cycle in which the local memory unit is free of the bank phase of an access to its own core (R138, R140). -/
  localFree : Nat
  /-- The banks taken in this cycle, and those that the present local-memory instruction takes in the cycles to come (R140, R141). -/
  use : BankUse
  plan : List BankUse
  /-- Those that cluster-window accesses of other cores take, in this cycle and the ones to come (R140). -/
  guests : List BankUse
  /-- First cycle in which the task unit is free (R435). -/
  taskFree : Nat
  slots : SlotUse
  /-- Words with a double-bit error: physical word numbers in the scratchpad and in the tile store. -/
  badScratch : List Nat
  badTile : List Nat
  /-- Words whose errors an access has met and that are not yet reported to IOD-A: of the tile store or not, and the word (R142, R322). -/
  detected : List (Bool × Nat)
  /-- Persistently failed banks: 0 to 31 data banks, 32 to 35 parity banks (R143). -/
  failedBanks : List Nat
  /-- Scratchpad banks and tile-store banks out of service for a self-test (R322). -/
  testBanks : List Nat
  tileTests : List Nat
  /-- Taken out of placement (R143, R322). -/
  lost : Bool
  dbgPlace : Nat
  dbgCmd : Nat
  dbgGroup : Nat
  dbgSnap : Bool
  stopEng : Bool
  attach : Bool
  snapSlot : Nat
  deriving DecidableEq, Repr

/-! ## Grids and dispatch (R32 to R57) -/

/-- What a saved team keeps beside its galley: the registers that a parked TTAKE or LWAIT writes, where its
spilled entries lie (R60) and the clause its handler returns to (R277). The galley has no field for them. -/
structure TeamExtra where
  park : Option Park
  spilled : List Nat
  spillEnd : Nat
  trapClause : Option Word
  deriving DecidableEq, Repr

/-- A saved group in its grid's restore list. -/
structure SavedRef where
  extras : Tab TeamExtra
  live : List Nat
  /-- What its queue entries hold beside the group record, by key: the record's offset and the poster (R283 has no field for either). -/
  cmds : Tab Cmd
  idx : Nat
  slot : Nat
  die : Nat
  prio : Nat
  at_ : Nat
  deriving DecidableEq, Repr

/-- The parent of a child grid: the launching group and the offset of the launch record. -/
structure Parent where
  grid : Nat
  idx : Nat
  off : Nat
  deriving DecidableEq, Repr

/-- A live grid. -/
structure Grid where
  lrec : LaunchRec
  queue : Nat
  aspace : Nat
  depth : Nat
  parent : Option Parent
  /-- Priority of its launch; a child's is capped at its parent group's tag (R53). -/
  prio : Nat
  /-- Next group to hand out. -/
  next : Nat
  /-- Groups complete. -/
  complete : Nat
  saved : List SavedRef
  faulted : Bool
  faultPosted : Bool
  stallSince : Option Nat
  stallPosted : Bool
  /-- Dies that ran its groups. -/
  dies : List Nat
  /-- The launch of its queue that it must not overlap, while that one is live; whether its first group needs the acquire of R44, and the
  acquire's token once it is requested. -/
  after : Option Nat
  needAcq : Bool
  acquire : Option Nat
  deriving DecidableEq, Repr

/-- A group handed to a die and not yet placed. -/
structure Handed where
  grid : Nat
  idx : Nat
  prio : Nat
  deriving DecidableEq, Repr

/-- A notification waiting for room in its ring (R40, R295). -/
structure Note where
  w0 : Word
  w1 : Word
  deriving DecidableEq, Repr

/-- A launch queue's register set (R294) and what is dispatched from it. -/
structure LaunchQ where
  rbase : Word
  enable : Bool
  ownPort : Nat
  aspace : Nat
  prio : Nat
  log2 : Nat
  tail : Nat
  head : Nat
  nbase : Word
  nlog2 : Nat
  ntail : Nat
  nhead : Nat
  /-- The launch at the head of the queue that still has groups to hand out. -/
  current : Option Nat
  /-- The last launch that was not rejected (R44, R38). -/
  last : Option Nat
  /-- Some launch of the queue was not rejected. -/
  had : Bool
  notes : List Note
  deriving DecidableEq, Repr

/-- A captured LAUNCH on its way to the global dispatcher (R402, R403). -/
structure LaunchReq where
  core : Nat
  place : Nat
  group : Nat
  grid : Nat
  idx : Nat
  off : Nat
  words : List Word
  dst : Nat
  flag : Nat
  issued : Nat
  deriving DecidableEq, Repr

/-- A requested generation bump (R187) and the acquire that waits for it. `lwait` says that it is an LWAIT's, whose team goes on meanwhile: the
commands that are posted after it wait (R219, R408). -/
structure Bump where
  die : Nat
  cls : Nat
  at_ : Nat
  token : Nat
  lwait : Bool
  deriving DecidableEq, Repr

/-- A PLACEHOLDER: a group that only keeps its child counter (R49). -/
structure Placeholder where
  die : Nat
  grid : Nat
  idx : Nat
  children : Nat
  deriving DecidableEq, Repr

/-- A record for the device fault queue: four doublewords and the MSI-X vector its posting raises (R297, R296). -/
structure FaultRec where
  words : List Word
  vector : Nat
  deriving DecidableEq, Repr

/-- A collective as its group issued it (R305 to R312). -/
structure Coll where
  id : Nat
  core : Nat
  group : Nat
  team : Nat
  flag : Nat
  /-- OP and RED of the encoding. -/
  op : Nat
  red : Nat
  /-- Control register, shape record and window handle; for CXP, 0, 0 and the window. -/
  ctl : Word
  shape : Word
  window : Word
  /-- CXP record offset and captured record and layout words. -/
  off : Nat
  words : List Word
  lay : List Word
  issued : Nat
  accepted : Bool
  /-- Its context: (MKIND, window or TAG, member set), this member's rank there, and the sequence number it was accepted with. -/
  ctx : List Nat
  rank : Nat
  seq : Nat
  /-- The buffer or the rows as they stood at acceptance (R311). -/
  data : List Byte
  /-- Ended, but for its barrier: the state it ends with and NRES. -/
  done : Bool
  deriving DecidableEq, Repr

/-- Which team the next instruction word acts on. -/
structure Place where
  core : Nat
  place : Nat
  deriving DecidableEq, Repr

/-- What instruction words act on. -/
structure Mach where
  cores : Tab Core
  cur : Place
  /-- Cycles since reset. -/
  now : Nat
  /-- Core clock in units of 100 MHz (CAPS.FCUR, R30). -/
  fcur : Nat
  /-- The clock from the next cycle on: a change takes effect at a cycle boundary (R22, R31). -/
  fnext : Nat
  /-- Time since reset, in units of 1 ns / 144403552893600: every clock of R22 has a whole number of them per cycle. -/
  time : Nat
  grids : Tab Grid
  gridCount : Nat
  queues : Tab LaunchQ
  /-- Accepted child grids with groups still to hand out, in order. -/
  children : List Nat
  launches : List LaunchReq
  /-- Groups handed to each die. -/
  handed : Tab (List Handed)
  lastDie : Option Nat
  lastQueue : Option Nat
  /-- The first cycle in which another batch may be handed out: one per cycle (R494). -/
  batchFrom : Nat
  placeholders : List Placeholder
  bumps : List Bump
  nextToken : Nat
  faults : List FaultRec
  colls : List Coll
  nextColl : Nat
  /-- Microseconds whose boundary the ramp limiters have seen, and the last power measurement, in microseconds (R320, R321). -/
  rampUs : Nat
  powerUs : Nat
  /-- The first cycle of the present microsecond (R321). -/
  usStart : Nat
  deriving DecidableEq, Repr

/-! ## Die L2, translators and homes (R178 to R201, R271, R272) -/

/-- A die L2 line (R181), held under its line number; `data` lists its bytes by offset. -/
structure Line where
  cls : Nat
  gen : Nat
  sv : BitVec 4
  dirty : BitVec 128
  rd : Bool
  ret : Nat
  data : Tab Byte
  used : Nat
  deriving DecidableEq, Repr

/-- What is on its way from a die to a home. -/
inductive MsgKind where
  /-- Dirty bytes of a line: merged at the home when the message arrives (R185). -/
  | writeBack (line : Nat)
  /-- Bytes written through (R167). -/
  | writeThrough (pa : Nat) (bytes : List Byte)
  /-- An atomic on an element: operation, format, size and operand (R195). -/
  | atomic (pa op fmt size : Nat) (value : Word)
  /-- Already performed at the home; only the acknowledgement is outstanding. -/
  | performed
  deriving DecidableEq, Repr

/-- A message from a die to a home, not yet acknowledged. `rdup` holds it in the replay queue until the
other holders of the granule have dropped it (R201). -/
structure Msg where
  id : Nat
  line : Nat
  cls : Nat
  kind : MsgKind
  rdup : Bool
  deriving DecidableEq, Repr

/-- A fill requested by a command and not yet returned (R182): the sector's physical address, the class
and its generation at the request, and whether the page is read-duplicated. -/
structure Fill where
  pa : Nat
  cls : Nat
  gen : Nat
  rd : Bool
  ret : Nat
  core : Nat
  key : Nat
  deriving DecidableEq, Repr

/-- A translation kept by a die's translator (R271). -/
structure TlbEntry where
  aspace : Nat
  level : Nat
  /-- Virtual address divided by the size the level maps. -/
  tag : Nat
  leaf : Word
  deriving DecidableEq, Repr

/-- A die's L2, translator and registers. -/
structure Die where
  lines : Tab Line
  gens : Tab Nat
  bumpCount : Tab Nat
  /-- The classes whose bump is stalled, with the cycle in which the stall began (R187, R190). -/
  stalled : Tab Nat
  msgs : List Msg
  nextMsg : Nat
  fills : List Fill
  tlb : List TlbEntry
  /-- TLBINV as last written, whether it is done, and the invalidations that wait. -/
  inv0 : Word
  inv1 : Word
  invDone : Bool
  invQueue : List (Word × Word)
  replayReg : Word
  /-- Waiters of the replay queue, and those that wait outside it while it is full, in arrival order: core and queue-entry key (R199). -/
  replayQ : List (Nat × Nat)
  /-- Sweeper position of each slice. -/
  sweep : Tab Nat
  clock : Nat
  /-- Ways under test or disabled, and slices bypassed (R322). -/
  waysOff : List (Nat × Nat)
  bypassed : List Nat
  /-- Ramp level and the highest level allowed (R320, R321). -/
  ramp : Nat
  rampCap : Nat
  deriving DecidableEq, Repr

/-- Who waits for a watched word: a command of this device, or one of a peer. -/
inductive Waiter where
  | command (core key : Nat)
  | remote (src cmd : Nat)
  deriving DecidableEq, Repr

/-- A watch at a home (R163): who waits, the word, the comparison, and whether it is armed. -/
structure Watch where
  owner : Waiter
  pa : Nat
  size : Nat
  mask : Word
  cmp : Word
  rel : Nat
  armed : Bool
  deriving DecidableEq, Repr

/-- A home agent (R193 to R200). -/
structure Home where
  /-- Lines in the home cache, by line number, with the time of last use. -/
  cache : Tab Nat
  watches : List Watch
  /-- Holder directory, oldest first: granule number and die mask. -/
  holders : List (Nat × BitVec 4)
  period : Nat
  thresh : Nat
  enable : Bool
  level : Nat
  corr : Nat
  passes : Nat
  /-- Next sector of the stack the scrubber reads, and when the pass began. -/
  scrubPos : Nat
  passStart : Nat
  poisonFlag : Bool
  /-- Poisoned sectors, by sector number in the stack, and rows under test (R197, R322). -/
  poison : List Nat
  rowTests : List Nat
  /-- Sectors whose code holds an error that no read has met yet (R197). -/
  errors : Tab SectorError
  clock : Nat
  deriving DecidableEq, Repr

/-- The die L2s and the homes. -/
structure L2Side where
  dies : Tab Die
  homes : Tab Home
  deriving DecidableEq, Repr

/-! ## Fabric and collectives (R298 to R316) -/

/-- A Penuf port (R298, R299). -/
structure Port where
  up : Bool
  lanes : Nat
  txSeq : Nat
  rxSeq : Nat
  /-- Sent and not yet acknowledged flits: sequence number and bytes. -/
  replay : Tab (List Byte)
  /-- Payloads waiting to be sent, each with the hash that chose its port (R299). -/
  out : List (Nat × List Byte)
  /-- The flit that the last NAK named, and how many NAKs in a row have named it. -/
  nakSeq : Nat
  naks : Nat
  /-- Payloads received, in order. -/
  received : List (List Byte)
  /-- Flits put on the line, in order, those sent again among them. -/
  line : List (List Byte)
  deriving DecidableEq, Repr

/-- A remote element staged at this device (R302). -/
structure Staged where
  src : Nat
  cmd : Nat
  elem : Nat
  pa : Nat
  bytes : List Byte
  at_ : Nat
  deriving DecidableEq, Repr

/-- An entry of the recently-seen table (R303). -/
structure Seen where
  src : Nat
  cmd : Nat
  elem : Nat
  old : Word
  at_ : Nat
  deriving DecidableEq, Repr

/-- A sequence state of the connection-cached mode (R303). -/
structure SeqState where
  peer : Nat
  aspace : Nat
  /-- The next number expected of the peer, and the next of this device's own requests to it. -/
  expect : Nat
  next : Nat
  cached : Bool
  used : Nat
  deriving DecidableEq, Repr

/-- A request of this device to a peer: the command, twice the element index and one more for a write, the peer, the key index and the
access (R301). `kind` is 0 for a read, 1 for a write, 2 for an atomic, 3 for a WATCH, 4 for a commit. -/
structure Request where
  core : Nat
  key : Nat
  elem : Nat
  peer : Nat
  index : BitVec 32
  va : Nat
  kind : Nat
  op : Nat
  fmt : Nat
  size : Nat
  value : Word
  /-- Its number in the connection-cached mode. -/
  seq : Nat
  deriving DecidableEq, Repr

/-- What this device has sent to peers: requests, notices about its commands, and answers to their requests. -/
inductive Outgoing where
  | request (port : Nat) (r : Request)
  | notice (port peer core key : Nat) (what : RemoteNotice)
  | answer (port : Option Nat) (src cmd elem : Nat) (code : Nat) (value : Word)
  /-- A link-control NAK of a flit received on a port (R299). -/
  | nak (port seq : Nat)
  deriving DecidableEq, Repr

/-- A request of this device that its peer has not answered: the resends made, when the next one is due, and whether the peer was BUSY
(R303). `held` says that its peer has answered a WATCH with the word that it holds it. -/
structure Remote where
  req : Request
  tries : Nat
  due : Nat
  busy : Bool
  held : Bool
  deriving DecidableEq, Repr

/-- A multicast window's registers, rank table and the sequence number of the next collective (R304, R308). -/
structure Mcwin where
  w0 : Word
  w1 : Word
  ranks : List Nat
  deriving DecidableEq, Repr

/-- The fabric side. -/
structure Fabric where
  ports : Tab Port
  mcwins : Tab Mcwin
  /-- Sequence number of the next collective of each context. -/
  ctxSeq : List (List Nat × Nat)
  staged : List Staged
  /-- Commands of peers that this device has rejected an access of (R302). -/
  rejected : List (Nat × Nat)
  seen : List Seen
  seqs : List SeqState
  sent : List Outgoing
  remotes : List Remote
  deriving DecidableEq, Repr

/-! ## Registers and services of the I/O dies (R289 to R297, R317 to R326) -/

/-- A structure under the targeted self-test (R322). -/
structure SelfTest where
  site : ErrorSite
  count : Nat
  started : Nat
  deriving DecidableEq, Repr

/-- An attestation report (R325). -/
structure Report where
  nonce : BitVec 256
  firmware : BitVec 512
  identity : BitVec 512
  sec : Nat
  dbg : Nat
  rev : Nat
  signature : BitVec 512
  deriving DecidableEq, Repr

/-- What scan read-out gives: the state visible to programs and system software, each team as its galley shows it; key material, which reads as zero;
and, when debug is VENDOR-OPEN, internal scan state (R324). -/
structure Scan where
  teams : List (Nat × Nat × List Word)
  scratch : List (Nat × Mem)
  tile : List (Nat × Mem)
  accs : List (Nat × Tab Acc)
  lines : List (Nat × Tab Line)
  mem : Mem
  /-- The registers of memory window 0, by offset: those that are not zero. -/
  regs : List (Nat × Word)
  keys : Word
  internal : Option Word
  deriving DecidableEq, Repr

/-- What the device has returned to the outside. -/
inductive HostOut where
  /-- A read's completion: port, bytes and the poisoned-data bit (R290). -/
  | readData (port : Nat) (bytes : List Byte) (poisoned : Bool)
  /-- Completion with Unsupported Request (R290). -/
  | unsupported (port : Nat)
  /-- An MSI-X vector raised on a port's function (R296). -/
  | msix (port vector : Nat)
  | report (r : Report)
  /-- What scan read-out gives after a freeze (R324). -/
  | scan (r : Scan)
  deriving DecidableEq, Repr

/-- A bring-up under way: how its steps go, the step of R318 that it is in, and when that ends. -/
structure BringUp where
  boot : BootOutcome
  step : Nat
  until_ : Nat
  deriving DecidableEq, Repr

/-- The registers and services of IOD-A and IOD-B. -/
structure Sys where
  ctlPort : Nat
  devNum : Nat
  asroot : Tab Word
  /-- HANDOVER: its two doublewords, and whether it is done. -/
  ho0 : Word
  ho1 : Word
  hoDone : Bool
  /-- The two doublewords as they stood at the write that started the present, or the last, handover (R291). -/
  hoRun : Word × Word
  quantum : Nat
  nslot : Nat
  pool : Word
  preReq : BitVec 32
  usedSlots : List Nat
  fqBase : Word
  fqLog2 : Nat
  fqTail : Nat
  fqHead : Nat
  svc0 : Word
  svc1 : Word
  rto : Nat
  retries : Nat
  keyCnt : Nat
  keyBase : Word
  ccSpill : Word
  /-- SEC: 0 PROVISIONING, 1 LOCKED, 2 ATTESTED; DBG: 0 CLOSED, 1 OWNER-OPEN, 2 VENDOR-OPEN (R317). -/
  sec : Nat
  dbg : Nat
  pstate : Nat
  boot : Nat
  preq : Nat
  /-- A power-state request not yet acted on, and the time it was made. -/
  preqPending : Bool
  preqAt : Nat
  /-- The bring-up that a reset has started (R318). -/
  bringUp : Option BringUp
  frozen : Bool
  keys : Nat
  /-- Firmware updates so far, and how many of them the running firmware has: it is the image that the last bring-up has checked (R318, R325). -/
  firmware : Nat
  running : Nat
  tests : List SelfTest
  /-- Lasting failures of Penuf lanes and PCI Express lanes. -/
  degraded : List ErrorSite
  outputs : List HostOut
  deriving DecidableEq, Repr

/-! ## The whole state -/

/-- What moves next. -/
inductive Move where
  /-- The clock advances by one cycle. -/
  | tick
  /-- A team place issues its next word. -/
  | issue (core place : Nat)
  /-- An event happens. -/
  | event (e : Instr)
  /-- A host changes its own memory: physical address (R267) and bytes. -/
  | hostMem (pa : Nat) (bytes : List Byte)
  /-- A peer answers a request of a command for an element: 0 and a value, or a code; 255 is BUSY (R301, R303). -/
  | remoteAnswer (peer core key elem code : Nat) (value : Word)
  /-- A word of a core's scratchpad or tile store takes a double-bit error (R141, R142). -/
  | upset (core : Nat) (tile : Bool) (word : Nat)
  /-- A sector of a stack takes an error, which the next read of it meets (R197). -/
  | sectorUpset (home sector : Nat) (e : SectorError)
  /-- A host reads registers in memory window 0: byte offset, size and port (R291). -/
  | regRead (off size port : Nat)
  /-- Scan read-out through the debug port of a frozen device (R324). -/
  | scanRead
  deriving DecidableEq, Repr

/-- The state of the device. -/
structure State where
  m : Mach
  mem : Mem
  l2 : L2Side
  fab : Fabric
  sys : Sys
  /-- Moves still to be made, first one next; when empty the device makes a move of its own choosing. -/
  agenda : List Move
  /-- How far the present cycle has come: the place of the last move made in it (the model's own field, see Order.lean). -/
  turn : Nat
  /-- Counter of free values drawn (the model's own field). -/
  free : Nat
  deriving DecidableEq, Repr

/-- Why a step can stop. -/
inductive Fault where
  /-- The team's next word lies at an address that its page tables do not map, or does not let it read, as
  device memory: raised by the fetch in `step`. The specification names no fault for an instruction fetch.
  Safe: no effect is invented. -/
  | fetchUntranslated (pc : Word)
  /-- The next word is fetched from a sector marked poisoned: raised by the fetch in `step`. The
  specification gives no effect for it. Safe. -/
  | fetchPoisoned (pc : Word)
  deriving DecidableEq, Repr

/-- Why an instruction is refused. -/
inductive Refusal where
  /-- The instruction has no meaning in the model yet: raised by `exec`. Safe: nothing is claimed about it. -/
  | notModelled (mnemonic : String)
  deriving DecidableEq, Repr

/-! ## Reset (R318 and the Reset columns) -/

/-- A core with nothing resident. -/
def Core.empty : Core :=
  { teams := [], groups := [], scratch := [], tile := [], accs := [], locks := [], freed := [], arrivals := [], met := [], veil := [], cmds := [],
    nextOrder := 0, matQ := [], matRun := none, matEnd := 0, occupied := 0, rampWait := false,
    paths := [0, 0, 0], dividerFree := 0, localFree := 0, use := BankUse.idle, plan := [], guests := [], taskFree := 0,
    slots := { cycle := 0, vector := 0, scalar := 0, localMem := 0, matrix := 0, control := 0 },
    badScratch := [], badTile := [], detected := [], failedBanks := [], testBanks := [], tileTests := [], lost := false, dbgPlace := 0, dbgCmd := 0,
    dbgGroup := 0, dbgSnap := false, stopEng := false, attach := false, snapSlot := 0 }

/-- A launch queue's registers after reset (R294). -/
def LaunchQ.initial (q : Nat) : LaunchQ :=
  { rbase := 0, enable := false, ownPort := q / 32, aspace := 0, prio := 0, log2 := 4, tail := 0, head := 0,
    nbase := 0, nlog2 := 4, ntail := 0, nhead := 0, current := none, last := none, had := false, notes := [] }

/-- A die after bring-up. -/
def Die.initial : Die :=
  { lines := [], gens := [], bumpCount := [], stalled := [], msgs := [], nextMsg := 0, fills := [], tlb := [],
    inv0 := 0, inv1 := 0, invDone := true, invQueue := [], replayReg := 0, replayQ := [], sweep := [],
    clock := 0, waysOff := [], bypassed := [], ramp := 1, rampCap := 8 }

/-- A home after bring-up (R198's resets). -/
def Home.initial : Home :=
  { cache := [], watches := [], holders := [], period := 24, thresh := 4, enable := true, level := 0,
    corr := 0, passes := 0, scrubPos := 0, passStart := 0, poisonFlag := false, poison := [], rowTests := [], errors := [], clock := 0 }

/-- A Penuf port after reset. -/
def Port.initial : Port :=
  { up := true, lanes := 8, txSeq := 0, rxSeq := 0, replay := [], out := [], nakSeq := 0, naks := 0, received := [], line := [] }

/-- A multicast window after reset (R304). -/
def Mcwin.initial : Mcwin := { w0 := 0, w1 := 0, ranks := [] }

/-- A team place that nothing has been placed on reads as this. -/
def Team.blank : Team :=
  { group := 0, tid := 0, lanes := 32, nv := 8, s := [], v := [], m := [], mode := 0, status := 0,
    trapPc := 0, trapCause := 0, trapInfo := 0, trapVec := 0, trapClause := none, pc := 0, pos := 0, hdr := 0, repCnt := 0,
    repWord := none, immWord := none, prefixPc := 0, prefixPos := 0, flags := [], stack := [], spilled := [],
    spillEnd := 0, allot := 80, phase := .running, haltReq := false, stepping := false, age := 0,
    nextIssue := 0, yielding := none, pend := [], passes := [], holds := [], storeQ := [], flight := [], held := none }

/-- A launch record of one group of one 32-lane team that asks for nothing. -/
def LaunchRec.blank : LaunchRec :=
  { groups := 1, teams := 1, width := 0, prio := 0, coloc := 0, nacc := 0, vregs := 1, overlap := false,
    evictable := false, coop := false, entry := 0, arg := 0, scratch := 0, tile := 0, stalliv := 0, priv := 0,
    allot := 24, sigaddr := 0, sigval := 0, user := 0 }

/-- A group place that nothing has been placed on reads as this. -/
def Group.blank : Group :=
  { grid := 0, idx := 0, prio := 0, queue := 0, aspace := 0, depth := 0, lrec := LaunchRec.blank, spUnit := 0,
    spUnits := 0, tileUnit := 0, tileUnits := 0, accs := [], phase := .resident, children := 0, placedAt := 0,
    filling := none, acquire := none, stopping := false, stamps := [], live := [], faulted := false }

/-- The cores, dispatchers and clock after reset. MODEL'S CHOICE: CAPS.FCUR, for which R30 gives no reset value, is 36, the highest clock (log entry
130). -/
def Mach.initial : Mach :=
  { cores := [], cur := { core := 0, place := 0 }, now := 0, fcur := 36, fnext := 36, time := 0, grids := [], gridCount := 0,
    queues := [], children := [], launches := [], handed := [], lastDie := none, lastQueue := none,
    batchFrom := 0, placeholders := [], bumps := [], nextToken := 0, faults := [], colls := [], nextColl := 0,
    rampUs := 0, powerUs := 0, usStart := 0 }

/-- The registers of the I/O dies after reset, for a device that has not been provisioned yet. -/
def Sys.initial : Sys :=
  { ctlPort := 0, devNum := 0, asroot := [], ho0 := 0, ho1 := 0, hoDone := true, hoRun := (0, 0), quantum := 20,
    nslot := 0, pool := 0, preReq := 0, usedSlots := [], fqBase := 0, fqLog2 := 6, fqTail := 0, fqHead := 0,
    svc0 := 0, svc1 := 0, rto := 8, retries := 6, keyCnt := 0, keyBase := 0, ccSpill := 0, sec := 0, dbg := 0,
    pstate := 0, boot := 0, preq := 0, preqPending := false, preqAt := 0, bringUp := none, frozen := false, keys := 0, firmware := 0, running := 0, tests := [],
    degraded := [], outputs := [] }

/-- The device right after reset: bring-up has run (R318), device memory is zero, nothing is resident,
every register holds its reset value. -/
def State.reset : State :=
  { m := Mach.initial, mem := [], l2 := { dies := [], homes := [] },
    fab := { ports := [], mcwins := [], ctxSeq := [], staged := [], rejected := [], seen := [], seqs := [],
             sent := [], remotes := [] },
    sys := Sys.initial, agenda := [], turn := 0, free := 0 }

end Sys2Proof.Machine
end

