-- ==== Sys2Proof/Machine/Mem.lean ====
section
/-! DEFINITION. Bytes of memory. A byte that is not listed reads as zero: device memory is zero after
bring-up (R318) and partitions are filled with zeros at placement (R144). Every memory is little-endian (R2). -/

namespace Sys2Proof.Machine

/-- The byte at an address. -/
def Mem.read (m : Mem) (a : Nat) : Byte := Tab.get (0 : Byte) m a

/-- Memory with one byte written. A zero byte is not listed, so equal memories are equal lists. -/
def Mem.write (m : Mem) (a : Nat) (b : Byte) : Mem := if b = 0 then Tab.erase m a else Tab.set m a b

/-- Strictly rising addresses from `lo` on, and no zero byte. -/
def Mem.wfFrom : Nat → Mem → Bool
  | _, [] => true
  | lo, (a, b) :: t => decide (lo ≤ a) && decide (b ≠ 0) && Mem.wfFrom (a + 1) t

/-- The canonical form. -/
def Mem.wf (m : Mem) : Bool := Mem.wfFrom 0 m

/-- n bytes from an address up. -/
def Mem.readBytes (m : Mem) (a : Nat) : Nat → List Byte
  | 0 => []
  | n + 1 => m.read a :: Mem.readBytes m (a + 1) n

/-- Bytes written from an address up. -/
def Mem.writeBytes (m : Mem) (a : Nat) : List Byte → Mem
  | [] => m
  | b :: bs => Mem.writeBytes (m.write a b) (a + 1) bs

/-- Pairs of address and byte written in list order. -/
def Mem.writePairs (m : Mem) : List (Nat × Byte) → Mem
  | [] => m
  | (a, b) :: ps => Mem.writePairs (m.write a b) ps

/-- The number little-endian bytes stand for. -/
def leNat : List Byte → Nat
  | [] => 0
  | b :: bs => b.toNat + 256 * leNat bs

/-- A number's n low bytes, least significant first. -/
def leBytes : Nat → Nat → List Byte
  | _, 0 => []
  | x, n + 1 => BitVec.ofNat 8 x :: leBytes (x / 256) n

/-- The n-byte number at an address. -/
def Mem.readN (m : Mem) (a n : Nat) : Nat := leNat (m.readBytes a n)

/-- An n-byte number written at an address. -/
def Mem.writeN (m : Mem) (a n v : Nat) : Mem := m.writeBytes a (leBytes v n)

/-- The doubleword at an address. -/
def Mem.readD (m : Mem) (a : Nat) : Word := BitVec.ofNat 64 (m.readN a 8)

/-- A doubleword written at an address. -/
def Mem.writeD (m : Mem) (a : Nat) (v : Word) : Mem := m.writeN a 8 v.toNat

/-- n doublewords from an address up. -/
def Mem.readDs (m : Mem) (a : Nat) : Nat → List Word
  | 0 => []
  | n + 1 => m.readD a :: Mem.readDs m (a + 8) n

/-- The bytes of a memory in [lo, hi) removed: they read as zero. -/
def Mem.clear (m : Mem) (lo hi : Nat) : Mem := List.filter (fun c => decide (c.1 < lo) || decide (hi ≤ c.1)) m

/-- Bits hi to lo of a doubleword, as a number (R11). -/
def bits (w : Word) (hi lo : Nat) : Nat := w.toNat / 2 ^ lo % 2 ^ (hi + 1 - lo)

/-- Bit i of a doubleword. -/
def bitOf (w : Word) (i : Nat) : Bool := w.getLsbD i

/-- A doubleword with the number v in bits hi to lo and the other bits as they were. -/
def setBits (w : Word) (hi lo v : Nat) : Word :=
  BitVec.ofNat 64 (w.toNat / 2 ^ (hi + 1) * 2 ^ (hi + 1) + v % 2 ^ (hi + 1 - lo) * 2 ^ lo + w.toNat % 2 ^ lo)

/-- A doubleword from fields given as pairs of a low bit and a value. -/
def wordOf : List (Nat × Nat) → Word
  | [] => 0
  | (lo, v) :: fs => BitVec.ofNat 64 (v * 2 ^ lo) ||| wordOf fs

/-- A doubleword from fields given as triples of a high bit, a low bit and a value, of which a field takes as many low bits as it has. -/
def packed : List (Nat × Nat × Nat) → Word
  | [] => 0
  | (hi, lo, v) :: fs => BitVec.ofNat 64 (v % 2 ^ (hi + 1 - lo) * 2 ^ lo) ||| packed fs

/-- 1 for true and 0 for false. -/
def b2n (b : Bool) : Nat := if b then 1 else 0

/-- An n-bit field read as two's complement (R11). -/
def signed (x n : Nat) : Int := if x % 2 ^ n < 2 ^ (n - 1) then (x % 2 ^ n : Nat) else (x % 2 ^ n : Nat) - (2 ^ n : Nat)

/-- The doubleword that holds an integer modulo 2^64. -/
def wordOfInt (x : Int) : Word := BitVec.ofInt 64 x

end Sys2Proof.Machine
end

