-- ==== Sys2Proof/Machine/Ops.lean ====
section
/-! DEFINITION. The named operations that every meaning is made of: registers, masks, run slots, local
partitions, the advance from one word to the next, taking a trap, ending a team, and posting a fault record. -/

namespace Sys2Proof.Machine

/-! ## Scalar registers -/

/-- Scalar register r; s0 reads as zero (R415). -/
def Team.rs (t : Team) (r : Nat) : Word := if r = 0 then 0 else t.s.get 0 r

/-- Scalar register r written; a write to s0 is discarded (R415). -/
def Team.ws (t : Team) (r : Nat) (v : Word) : Team := if r = 0 then t else { t with s := t.s.set r v }

/-- Only some bits of a word. -/
def keepBits (w : Word) : List (Nat × Nat) → Word
  | [] => 0
  | (hi, lo) :: fs => wordOf [(lo, bits w hi lo)] ||| keepBits w fs

/-! ## Vector and mask registers -/

/-- A uniform 32-bit register (R94). -/
def VReg.uniform (v : Word) : VReg := { w := false, shape := .u v }

/-- Vector register r. At placement every declared register is U with value 0 (R35). -/
def Team.rv (t : Team) (r : Nat) : VReg := t.v.get (VReg.uniform 0) r

/-- Mask register k. At placement m0 is set on every lane and the others are clear (R35). -/
def Team.rm (t : Team) (k : Nat) : List MRun := t.m.get [{ bit := k = 0, stop := t.lanes }] k

/-- Slot cost of a vector register (R66). -/
def VReg.cost (v : VReg) : Nat :=
  (if v.w then 2 else 1) * (match v.shape with | .u _ => 1 | .a _ _ => 2 | .g rs => rs.length)

/-- Slot cost of a held stack entry (R66). -/
def StackEntry.cost (e : StackEntry) : Nat := e.saved.length + e.pending.length

/-- The sum of f over 0 to n - 1. -/
def sumTo (f : Nat → Nat) : Nat → Nat
  | 0 => 0
  | n + 1 => sumTo f n + f n

/-- A team's slots in use (R66). -/
def Team.inUse (t : Team) : Nat :=
  sumTo (fun r => (t.rv r).cost) t.nv + sumTo (fun k => (t.rm k).length) 16 + (t.stack.map StackEntry.cost).sum

/-- The free count (R70). -/
def Team.free (t : Team) : Nat := t.allot - t.inUse

/-! ## Traps as requests -/

/-- A trap that an instruction raises: its code (R274) and TRAPINFO. -/
structure TrapReq where
  cause : Nat
  info : Word
  deriving DecidableEq, Repr

/-- The codes of R274. -/
def cILLEGAL : Nat := 1
def cRESERVED : Nat := 2
def cCLAUSE_FRAME : Nat := 3
def cRUN_OVERFLOW : Nat := 4
def cRANGE_LOCK : Nat := 5
def cFOREIGN_SCRATCH : Nat := 6
def cWINDOW_FAULT : Nat := 7
def cSCRATCH_BOUNDS : Nat := 8
def cTILE_BOUNDS : Nat := 9
def cMISALIGNED : Nat := 10
def cDIV_ZERO : Nat := 11
def cFP_EXCEPTION : Nat := 12
def cSTACK_SPILL_FAULT : Nat := 13
def cNEST_DEPTH : Nat := 14
def cBREAKPOINT : Nat := 15
def cSYSCALL : Nat := 16
def cTASK_FAULT : Nat := 17
def cRECORD_INVALID : Nat := 18
def cPRIVILEGE : Nat := 19
def cECC : Nat := 20

/-- TRAPINFO of a trap that reports a word: the word in bits 31-0 (R274). -/
def infoWord (w : Inst) : Word := w.setWidth 64

/-- ILLEGAL_OPCODE on an instruction, with its word. -/
def illegal {α : Type} (i : Instr) : Except TrapReq α := .error ⟨cILLEGAL, infoWord ((encode i).getD 0)⟩

/-- RESERVED_FIELD on an instruction, with its word. -/
def reserved {α : Type} (i : Instr) : Except TrapReq α := .error ⟨cRESERVED, infoWord ((encode i).getD 0)⟩

/-- REPSTEP: the repeat counter under a REP, and 0 outside one (R89, R117). -/
def Team.repStep (t : Team) : Nat := if t.repWord.isSome then t.repCnt else 0

/-- A team between two steps of a REP that it is running (R337). In a handler the counter may still hold the step that trapped, and no REP runs. -/
def Team.betweenSteps (t : Team) : Bool := t.repWord.isSome && t.repCnt ≠ 0

/-- Where preemption and a debugger may stop a team: before a clause's header, or between REP steps (R282, R287). -/
def Team.atBoundary (t : Team) : Bool := t.pos = 0 || t.betweenSteps

/-- RUN_OVERFLOW's TRAPINFO (R89). -/
def overflowInfo (need avail repstep kind reg : Nat) : Word :=
  wordOf [(48, need % 65536), (32, avail % 65536), (10, repstep), (8, kind), (0, reg)]

/-- Write a vector register in the canonical form it is given in, if its slots are admitted (R71, R89). -/
def Team.putV (t : Team) (d : Nat) (v : VReg) : Except TrapReq Team :=
  let need := v.cost
  let avail := t.free + (t.rv d).cost
  if need ≤ avail then .ok { t with v := t.v.set d v }
  else .error ⟨cRUN_OVERFLOW, overflowInfo need avail t.repStep 0 d⟩

/-- Write a mask register, if its slots are admitted (R71, R89). -/
def Team.putM (t : Team) (d : Nat) (rs : List MRun) : Except TrapReq Team :=
  let need := rs.length
  let avail := t.free + (t.rm d).length
  if need ≤ avail then .ok { t with m := t.m.set d rs }
  else .error ⟨cRUN_OVERFLOW, overflowInfo need avail t.repStep 1 d⟩

/-! ## Position in the program -/

/-- LEN of the clause: instruction words minus one (R330). -/
def Team.len (t : Team) : Nat := t.hdr.toNat / 8 % 8

/-- The header flag that flag A or flag B selects (R330); 12 to 15 mean none, all counted under 12. -/
def Team.flagOf (t : Team) (fb : Bool) : Nat :=
  let f := if fb then t.hdr.toNat / 64 % 16 else t.hdr.toNat / 1024 % 16
  min f 12

/-- Outstanding operations of a flag. -/
def Team.flagCount (t : Team) (f : Nat) : Nat := t.flags.get 0 f

/-- One operation more against a flag (R333). -/
def Team.countUp (t : Team) (f : Nat) : Team := { t with flags := t.flags.set f (t.flagCount f + 1) }

/-- One operation less against a flag (R333). -/
def Team.countDown (t : Team) (f : Nat) : Team := { t with flags := t.flags.set f (t.flagCount f - 1) }

/-- No operation is outstanding, whether it named a flag or not (R333). -/
def Team.quiet (t : Team) : Bool := sumTo t.flagCount 13 = 0

/-- The clause flags are clear, whatever named none (R333). -/
def Team.flagsClear (t : Team) : Bool := sumTo t.flagCount 12 = 0

/-- Whether a prefix precedes the next word. -/
def Team.prefixed (t : Team) : Bool := t.repWord.isSome || t.immWord.isSome

/-- The address a trap of the next word reports: that of the first prefix of its pair (R338, R89). -/
def Team.wordAddr (t : Team) : Word := if t.prefixed then t.prefixPc else t.pc

/-- The position a trap of the next word reports. -/
def Team.wordPos (t : Team) : Nat := if t.prefixed then t.prefixPos else t.pos

/-- No prefix is pending any more. -/
def Team.dropPrefix (t : Team) : Team := { t with repWord := none, immWord := none }

/-- On to the word after the present one; after the clause's last word a header is expected (R331). -/
def Team.advance (t : Team) : Team :=
  { t with pc := t.pc + 4, pos := if t.pos = t.len + 1 then 0 else t.pos + 1 }

/-- CNT_M1 of a REP word. -/
def repLast (w : Inst) : Nat := (fld w 0 6).toNat

/-- An instruction word is done. Under a REP with steps left the same pair issues again with the counter one
higher; otherwise the counter returns to 0 and the next word follows (R337). -/
def Team.retire (t : Team) : Team :=
  match t.repWord with
  | some w =>
    if t.repCnt < repLast w then { t with repCnt := t.repCnt + 1 }
    else { t.dropPrefix.advance with repCnt := 0 }
  | none => t.dropPrefix.advance

/-- Control goes to a clause start. -/
def Team.jump (t : Team) (target : Word) : Team := { t.dropPrefix with pc := target, pos := 0 }

/-- The address of the clause that follows in program order; the present word is the clause's last (R332). -/
def Team.nextClause (t : Team) : Word := t.pc + 4

/-! ## Cores, groups and teams of the machine -/

def Mach.core (m : Mach) (c : Nat) : Core := m.cores.get Core.empty c

def Mach.setCore (m : Mach) (c : Nat) (x : Core) : Mach := { m with cores := m.cores.set c x }

def Core.team (x : Core) (p : Nat) : Team := x.teams.get Team.blank p

def Core.setTeam (x : Core) (p : Nat) (t : Team) : Core := { x with teams := x.teams.set p t }

def Core.group (x : Core) (g : Nat) : Group := x.groups.get Group.blank g

def Core.setGroup (x : Core) (g : Nat) (v : Group) : Core := { x with groups := x.groups.set g v }

/-- The team at a place of a core. -/
def Mach.teamAt (m : Mach) (c p : Nat) : Team := (m.core c).team p

def Mach.setTeamAt (m : Mach) (c p : Nat) (t : Team) : Mach := m.setCore c ((m.core c).setTeam p t)

/-- The core that the current team runs on. -/
def Mach.myCore (m : Mach) : Core := m.core m.cur.core

/-- The current team. -/
def Mach.team (m : Mach) : Team := m.teamAt m.cur.core m.cur.place

def Mach.setTeam (m : Mach) (t : Team) : Mach := m.setTeamAt m.cur.core m.cur.place t

/-- The current team's group. -/
def Mach.group (m : Mach) : Group := m.myCore.group m.team.group

def Mach.groupAt (m : Mach) (c g : Nat) : Group := (m.core c).group g

def Mach.setGroupAt (m : Mach) (c g : Nat) (v : Group) : Mach := m.setCore c ((m.core c).setGroup g v)

/-! ## Errors in local memory (R141 to R143) -/

/-- A list without repeats, in the order of first occurrence. -/
def distinct : List Nat → List Nat
  | [] => []
  | x :: xs => x :: (distinct xs).filter (· ≠ x)

/-- The eight-byte words that n bytes from an offset touch. -/
def wordsAt (off n : Nat) : List Nat := (List.range ((off + n + 7) / 8 - off / 8)).map (fun k => off / 8 + k)

/-- Whether a scratchpad word's data cannot be read directly: it holds a double-bit error, or its bank has failed. Data words are
numbered by physical offset div 8; the parity word of set s and row r is 65536 + 4 r + s. -/
def Core.lostWord (x : Core) (w : Nat) : Bool :=
  x.badScratch.contains w ||
    (x.failedBanks ++ x.testBanks).contains (if w < 65536 then w % 32 else 32 + w % 4)

/-- The words that a rebuild of a scratchpad word reads: the other seven of its set and row, and the parity word. -/
def rebuildSet (w : Nat) : List Nat :=
  let row := w / 32
  let set := w % 32 / 8
  ((List.range 8).map (fun k => 32 * row + 8 * set + k)).filter (· ≠ w) ++ [65536 + 4 * row + set]

/-- Whether a word's contents are lost: in the tile store by a double-bit error, in the scratchpad when the rebuild meets a second one. -/
def Core.uncorrectable (x : Core) (tile : Bool) (w : Nat) : Bool :=
  if tile then x.badTile.contains w else x.lostWord w && (rebuildSet w).any x.lostWord

/-- The core after a word has been read: a rebuilt word is written back (R142). MODEL'S CHOICE: a double-bit error in a parity word stays, since
R142 repairs data words only and says of no read or write that it rewrites a parity word's code (log entry 112). -/
def Core.scrubWord (x : Core) (tile : Bool) (w : Nat) : Core :=
  if tile then x else { x with badScratch := x.badScratch.filter (· ≠ w) }

/-- The words with a double-bit error that a read of a word meets: the word itself, and when it must be rebuilt, for an error or a failed
bank, those of the rebuild (R142, R143). -/
def Core.errorsMet (x : Core) (tile : Bool) (w : Nat) : List Nat :=
  if tile then [w].filter x.badTile.contains
  else if x.lostWord w then (w :: rebuildSet w).filter x.badScratch.contains else []

/-- The double-bit errors that accesses to words meet are noted, to be reported (R142, R322); `seen` is the core as they found it. -/
def Core.noteErrors (x seen : Core) (tile : Bool) (ws : List Nat) : Core :=
  let bad := distinct (ws.flatMap (seen.errorsMet tile))
  if bad.isEmpty then x else { x with detected := x.detected ++ bad.map (fun w => (tile, w)) }

/-- Scratchpad words read by an instruction or a unit that no error stops: what is rebuilt is written back, and what is met is noted (R142). -/
def Core.sense (x : Core) (ws : List Nat) : Core :=
  let bad := ws.filter x.lostWord
  if bad.isEmpty then x else (bad.foldl (fun (x : Core) w => x.scrubWord false w) x).noteErrors x false bad

/-- Words written: they hold no error any more (R142). A write to a word with an error meets it: in the scratchpad, where the parity is updated from
the old value, every such write; in the tile store one that leaves bytes of the word, which are those that `part` picks. MODEL'S CHOICE: an error
goes as well where the old value cannot be rebuilt, and where a store narrower than a tile-store word leaves bytes of it (log entries 111, 137). -/
def Core.rewrite (x : Core) (tile : Bool) (ws : List Nat) (part : Nat → Bool) : Core :=
  let ok (l : List Nat) : List Nat := l.filter (fun w => !ws.contains w)
  if tile then { x.noteErrors x true (ws.filter part) with badTile := ok x.badTile }
  else { x.noteErrors x false (ws.filter x.badScratch.contains) with badScratch := ok x.badScratch }

/-- ECC_UNCORRECTABLE's TRAPINFO (R274). -/
def eccInfo (tile : Bool) (rel : Nat) : Word := wordOf [(63, b2n tile), (0, rel % 2 ^ 20)]

/-! ## Partitions (R37, R129, R144) -/

/-- Bytes of a group's shared region, rounded to 256 (R37). -/
def LaunchRec.sharedBytes (r : LaunchRec) : Nat := (r.scratch + 255) / 256 * 256

/-- Scratchpad units of 4 KiB (R37). -/
def LaunchRec.spUnits (r : LaunchRec) : Nat := (r.sharedBytes + r.teams * r.priv * 256 + 4095) / 4096

/-- Tile-store units of 16 KiB (R37). -/
def LaunchRec.tileUnits (r : LaunchRec) : Nat := (r.tile + 16383) / 16384

/-- Lanes of a WIDTH code, 0 to 5: a record with a greater one is refused with its launch (R36). -/
def widthLanes (w : Nat) : Nat := 32 * 2 ^ min w 5

def Group.spBase (g : Group) : Nat := g.spUnit * 4096

def Group.spSize (g : Group) : Nat := g.spUnits * 4096

def Group.tileBase (g : Group) : Nat := g.tileUnit * 16384

def Group.tileSize (g : Group) : Nat := g.tileUnits * 16384

/-- Offset of a team's private area in its group's partition (R37, R129). -/
def Group.privBase (g : Group) (tid : Nat) : Nat := g.lrec.sharedBytes + tid * g.lrec.priv * 256

/-- Bytes of a team's private area. -/
def Group.privSize (g : Group) : Nat := g.lrec.priv * 256

/-- A doubleword of a group's scratchpad partition. -/
def Core.readSp (x : Core) (g : Group) (off : Nat) : Word := x.scratch.readD (g.spBase + off)

/-- A doubleword of a group's scratchpad partition written (R142). -/
def Core.writeSp (x : Core) (g : Group) (off : Nat) (v : Word) : Core :=
  { x with scratch := x.scratch.writeD (g.spBase + off) v }.rewrite false (wordsAt (g.spBase + off) 8) (fun _ => true)

/-- What a doubleword held before a write of the device, which thread accesses see until a cycle comes (R140, R253). -/
def Core.hide (x : Core) (off from_ : Nat) : Core := { x with veil := x.veil ++ [⟨off, x.scratch.readD off, from_⟩] }

/-- A byte of the scratchpad as a thread access of a cycle sees it: a word that the device has written since shows what it held before. -/
def Core.seenByte (x : Core) (now a : Nat) : Byte :=
  match x.veil.find? (fun v => decide (now < v.from_) && decide (v.off ≤ a) && decide (a < v.off + 8)) with
  | some v => BitVec.ofNat 8 (v.old.toNat / 2 ^ (8 * (a - v.off)))
  | none => x.scratch.read a

/-- The instruction reads words of a group's scratchpad, by their offsets: ECC_UNCORRECTABLE where one of them cannot be rebuilt, else the core after
the read (R142). MODEL'S CHOICE: the reads of records, barrier words, task control blocks and spill records by an instruction are thread loads in the
sense of R142 (log entry 138). -/
def Core.readWords (x : Core) (g : Group) (offs : List Nat) : Except TrapReq Core :=
  match offs.find? (fun o => x.uncorrectable false ((g.spBase + o) / 8)) with
  | some o => .error ⟨cECC, eccInfo false o⟩
  | none => .ok (x.sense (offs.map (fun o => (g.spBase + o) / 8)))

/-- The offsets of the doublewords of a record of n of them. -/
def recordOffs (off n : Nat) : List Nat := (List.range n).map (fun k => off + 8 * k)

/-! ## Barrier words (R171, R172, R377) -/

def bPHASE (w : Word) : Nat := bits w 63 48
def bEXPECT (w : Word) : Nat := bits w 31 16
def bCOUNT (w : Word) : Nat := bits w 15 0

/-- A barrier word with phase and count changed. -/
def setPhaseCount (b : Word) (phase count : Nat) : Word := setBits (setBits b 63 48 (phase % 65536)) 15 0 count

/-- Arrive (R172). -/
def arrive (b : Word) (n : Nat) : Word :=
  let cnt := bCOUNT b + n
  if bEXPECT b = 0 then setPhaseCount b (bPHASE b) (min cnt 65535)
  else setPhaseCount b (bPHASE b + cnt / bEXPECT b) (cnt % bEXPECT b)

/-- Reached (R377). -/
def reached (b : Word) (p : Nat) : Bool := (bPHASE b + 65536 - p % 65536) % 65536 < 32768

/-! ## Numbers of the organisation (R15) -/

def dieOf (core : Nat) : Nat := core / 80

def clusterOf (core : Nat) : Nat := core / 8

/-! ## Notifications and fault records (R40, R278) -/

def Mach.queue (m : Mach) (q : Nat) : LaunchQ := m.queues.get (LaunchQ.initial q) q

def Mach.setQueue (m : Mach) (q : Nat) (v : LaunchQ) : Mach := { m with queues := m.queues.set q v }

/-- A notification for a queue (R40). -/
def Mach.notify (m : Mach) (q code reason grid : Nat) (user : Word) : Mach :=
  let n : Note := { w0 := wordOf [(56, code), (48, reason), (40, q), (0, grid)], w1 := user }
  m.setQueue q { m.queue q with notes := (m.queue q).notes ++ [n] }

/-- The first termination in a grid posts one GRID_FAULT notification (R278). -/
def Mach.gridFault (m : Mach) (grid : Nat) : Mach :=
  match m.grids.find? grid with
  | none => m
  | some g =>
    let m := { m with grids := m.grids.set grid { g with faulted := true, faultPosted := true } }
    if g.faultPosted then m else m.notify g.queue 3 0 grid g.lrec.user

/-- A team fault record (R278). -/
def teamFault (code core group team cause : Nat) (pc : Word) (grid idx : Nat) (info : Word) : FaultRec :=
  { words := [wordOf [(56, code), (47, core), (43, group), (37, team), (29, cause)], pc,
              wordOf [(32, grid), (0, idx)], info], vector := 64 }

/-! ## A task held by a team (R263) -/

/-- Offset of a TCB in its group's partition (R249). -/
def tcbOff (i : Nat) : Nat := 64 * i

/-- Word 0 of a TCB. -/
def Core.tcb0 (x : Core) (g : Group) (i : Nat) : Word := x.readSp g (tcbOff i)

/-- STATE of a TCB's word 0: 3 RUNNING, 5 FAULTED (R249). -/
def tcbState (w : Word) : Nat := bits w 63 61

/-- Word 0 of a TCB written by the task unit: thread loads see it from a cycle on, the one after the operation (R253). -/
def Core.setTcb0 (x : Core) (g : Group) (i from_ : Nat) (w : Word) : Core :=
  (x.hide (g.spBase + tcbOff i) from_).writeSp g (tcbOff i) w

/-- The held task, if it is RUNNING, becomes FAULTED with the trap's code, in a cycle (R263). -/
def Core.faultTask (x : Core) (now p cause : Nat) : Core :=
  let t := x.team p
  match t.held with
  | none => x
  | some i =>
    let g := x.group t.group
    let w := x.tcb0 g i
    if tcbState w = 3 then x.setTcb0 g i (now + 1) (setBits (setBits w 63 61 5) 47 40 cause) else x

/-! ## Ending a team (R278, R394) -/

/-- The group of a team whose teams have all exited enters DRAINING (R48). -/
def Core.drain (x : Core) (g : Nat) : Core :=
  let v := x.group g
  if v.phase = .resident ∧ (x.teams.filter (fun _ t => t.group = g && t.phase != .exited)).isEmpty
  then x.setGroup g { v with phase := .draining } else x

/-- A team becomes EXITED: its held entries are discarded and its hold on a task ends (R394, R395). -/
def Core.exitTeam (x : Core) (p : Nat) : Core :=
  let t := x.team p
  (x.setTeam p { t with phase := .exited, stack := [], held := none }).drain t.group

/-- A terminated team has EXITED once its clause flags are clear (R278): an operation that names no flag keeps no team from it (R333). -/
def Core.settle (x : Core) (p : Nat) : Core :=
  let t := x.team p
  if t.phase = .ending ∧ t.flagsClear then x.exitTeam p else x

/-- End the current team because of a trap it cannot handle: team fault record, GRID_FAULT, and the held task
FAULTED (R276, R278, R263). The registers keep what the trap, or the handler's trap, has set. -/
def Mach.terminate (m : Mach) (cause : Nat) (info pc : Word) : Mach :=
  let c := m.cur.core
  let p := m.cur.place
  let x := (m.core c).faultTask m.now p cause
  let t := x.team p
  let g := x.group t.group
  let x := x.setGroup t.group { g with faulted := true }
  let x := (x.setTeam p { t.dropPrefix with phase := .ending, held := none }).settle p
  let m := (m.setCore c x).gridFault g.grid
  { m with faults := m.faults ++ [teamFault 16 c t.group p cause pc g.grid g.idx info] }

/-! ## Taking a trap (R276) -/

/-- TRAPCAUSE's fields. -/
def causeActive (w : Word) : Bool := bitOf w 63
def causePos (w : Word) : Nat := bits w 51 48
def causeHdr (w : Word) : BitVec 14 := BitVec.ofNat 14 (bits w 45 32)

/-- A TRAPCAUSE value. -/
def causeWord (active : Bool) (pos : Nat) (hdr : BitVec 14) (cause : Nat) : Word :=
  wordOf [(63, b2n active), (48, pos), (32, hdr.toNat), (0, cause)]

/-- CPOS as the device writes it: never 9 to 15 (R276). -/
def savedPos (pos : Nat) (addr : Word) : Nat := if pos ≤ 8 then pos else 1 + Config.framePos addr.toNat % 8

/-- The registers a trap saves: TRAPPC, TRAPCAUSE with ACTIVE still clear, TRAPINFO (R276). -/
def Team.saveTrap (t : Team) (cause : Nat) (info addr : Word) (pos : Nat) (hdr : BitVec 14) : Team :=
  let pos := savedPos pos addr
  { t with trapPc := addr, trapCause := causeWord false pos hdr cause, trapInfo := info,
           trapClause := some (addr - BitVec.ofNat 64 (4 * pos)) }

/-- The team goes to its handler, with ACTIVE set (R276). -/
def Team.vector (t : Team) : Team :=
  { t.jump t.trapVec with trapCause := t.trapCause ||| wordOf [(63, 1)] }

/-- TakeTrap of R276, on the current team. `record` is the address that a team fault record names: the word that
raised the trap. A held task becomes FAULTED unless the trap is BREAKPOINT or SYSCALL (R263). -/
def Mach.takeTrap (m : Mach) (cause : Nat) (info addr : Word) (pos : Nat) (hdr : BitVec 14) (record : Word) : Mach :=
  let m :=
    if cause = cBREAKPOINT ∨ cause = cSYSCALL then m
    else m.setCore m.cur.core (m.myCore.faultTask m.now m.cur.place cause)
  let t := m.team
  if causeActive t.trapCause then m.terminate cause info record
  else
    let t := t.saveTrap cause info addr pos hdr
    if t.trapVec = 0 then (m.setTeam t).terminate cause info record
    else m.setTeam t.vector

/-- A trap on the present word: precise, so TRAPPC names it, or the first prefix of its pair (R276). -/
def Mach.trap (m : Mach) (r : TrapReq) : Mach :=
  let t := m.team
  m.takeTrap r.cause r.info t.wordAddr t.wordPos t.hdr t.wordAddr

/-- The trap of an instruction that reads words of a group's partition: the errors that an uncorrectable one met are noted, to be reported (R142,
R322). -/
def Mach.trapWords (m : Mach) (core group : Nat) (r : TrapReq) : Mach :=
  let x := m.core core
  if r.cause = cECC then (m.setCore core (x.noteErrors x false [((x.group group).spBase + bits r.info 19 0) / 8])).trap r else m.trap r

/-- That of one that reads its own group's partition. -/
def Mach.trapRecord (m : Mach) (r : TrapReq) : Mach := m.trapWords m.cur.core m.team.group r

/-- SYSC, BKPT and TRAP 15 and 16 complete and then trap: TRAPPC names the word after them, CPOS its position, or 0
when that is a clause start; HDRLO is that of the header there, which `headerLo` reads (R276, R431). -/
def Mach.trapAfter (m : Mach) (r : TrapReq) (headerLo : Word → BitVec 14) : Mach :=
  let t := m.team
  let n := t.retire
  (m.setTeam n).takeTrap r.cause r.info n.pc n.pos (if n.pos = 0 then headerLo n.pc else t.hdr) t.pc

/-- Where a return from a handler resumes (R277): TRAPPC with CPOS 0; with another CPOS that word of the clause that
trapped, or, once software has written TRAPPC, the word it names. -/
def Team.resumePc (t : Team) : Word :=
  if causePos t.trapCause = 0 then t.trapPc
  else match t.trapClause with
    | some h => h + BitVec.ofNat 64 (4 * causePos t.trapCause)
    | none => t.trapPc

/-- Return from a trap handler (R277, R392): clear ACTIVE and resume under TRAPPC, CPOS and HDRLO. -/
def Team.returnTrap (t : Team) : Team :=
  { t.dropPrefix with
    pc := t.resumePc, pos := causePos t.trapCause, hdr := causeHdr t.trapCause,
    trapCause := setBits t.trapCause 63 63 0 }

/-! ## Running a meaning -/

/-- An instruction that acts on its team alone: it completes, or it traps and leaves no other effect. -/
def onTeam (f : Team → Except TrapReq Team) (m : Mach) : Mach :=
  match f m.team with
  | .ok t => m.setTeam t.retire
  | .error r => m.trap r

/-- An instruction that acts on its team and its core. The function answers the core with the team in it;
the team then goes on to its next word. -/
def onCore (f : Core → Except TrapReq Core) (m : Mach) : Mach :=
  match f m.myCore with
  | .ok x => m.setCore m.cur.core (x.setTeam m.cur.place (x.team m.cur.place).retire)
  | .error r => m.trap r

/-- The outcome of an instruction word: only the machine part of the state changes. No instruction word reaches
device memory, a die L2, the fabric or the I/O dies directly (R129). -/
def word (f : Mach → Mach) (s : State) : Host.Outcome State Fault Refusal := .next { s with m := f s.m }

/-- The outcome of an event: its effect when it can happen, and nothing otherwise. -/
def happen (f : State → Option State) (s : State) : Host.Outcome State Fault Refusal := .next ((f s).getD s)

end Sys2Proof.Machine
end

