-- ==== Sys2Proof/Machine/Runs.lean ====
section
/-! DEFINITION. Runs: the lanes of masks and vector registers, and the run lists that operations on them
give (R61 to R94). -/

namespace Sys2Proof.Machine

/-! ## Masks (R83, R84) -/

/-- The bit of a lane. -/
def maskAt : List MRun → Nat → Bool
  | [], _ => false
  | r :: rs, i => if i < r.stop then r.bit else maskAt rs i

/-- A run put in front of a fully merged list. -/
def pushM (bit : Bool) (stop : Nat) : List MRun → List MRun
  | [] => [⟨bit, stop⟩]
  | r :: rs => if r.bit = bit then r :: rs else ⟨bit, stop⟩ :: r :: rs

/-- The mask whose lanes are `f` of the lanes of two masks; `fuel` at least the runs of both. -/
def zipM (f : Bool → Bool → Bool) : Nat → List MRun → List MRun → List MRun
  | n + 1, x :: xs, y :: ys =>
    if x.stop < y.stop then pushM (f x.bit y.bit) x.stop (zipM f n xs (y :: ys))
    else if y.stop < x.stop then pushM (f x.bit y.bit) y.stop (zipM f n (x :: xs) ys)
    else pushM (f x.bit y.bit) x.stop (zipM f n xs ys)
  | _, _, _ => []

/-- The lane by lane combination of two masks. -/
def maskOp (f : Bool → Bool → Bool) (a b : List MRun) : List MRun := zipM f (a.length + b.length) a b

def maskAnd (a b : List MRun) : List MRun := maskOp and a b

def maskNot : List MRun → List MRun
  | [] => []
  | r :: rs => ⟨!r.bit, r.stop⟩ :: maskNot rs

/-- A mask with every lane alike. -/
def maskAll (b : Bool) (lanes : Nat) : List MRun := [⟨b, lanes⟩]

/-- Whether some lane is set. -/
def maskAny (a : List MRun) : Bool := a.any MRun.bit

/-- The number of set lanes; `lo` is the first lane of the list. -/
def maskCount : Nat → List MRun → Nat
  | _, [] => 0
  | lo, r :: rs => (if r.bit then r.stop - lo else 0) + maskCount r.stop rs

/-- The lowest set lane, or `dflt`. -/
def maskFirst (dflt : Nat) : Nat → List MRun → Nat
  | _, [] => dflt
  | lo, r :: rs => if r.bit then lo else maskFirst dflt r.stop rs

/-- The mask of the lanes in [first, stop). -/
def maskRange (lanes first stop : Nat) : List MRun :=
  let stop := min stop lanes
  if first < stop then
    (if 0 < first then [⟨false, first⟩] else []) ++ [⟨true, stop⟩] ++ (if stop < lanes then [⟨false, lanes⟩] else [])
  else maskAll false lanes

/-- Canonical under R83: END values rise strictly to LANES and adjacent runs differ. -/
def maskCanonical (lanes : Nat) : List MRun → Bool
  | [] => false
  | [r] => r.stop = lanes
  | r :: s :: rs => decide (0 < r.stop) && decide (r.stop < s.stop) && r.bit != s.bit && maskCanonical lanes (s :: rs)

/-- GuardMask of R341: all lanes when MODE.GMASK is 0, else m[GMASK] or its complement. -/
def Team.guardMask (t : Team) : List MRun :=
  let k := bits t.mode 11 8
  if k = 0 then maskAll true t.lanes
  else if bitOf t.mode 7 then maskNot (t.rm k) else t.rm k

/-- m0, the execution mask (R58). -/
def Team.em (t : Team) : List MRun := t.rm 0

/-- m0 AND GuardMask: the lanes of a guarded instruction (R76, R341). -/
def Team.emGuard (t : Team) : List MRun := maskAnd t.em t.guardMask

/-- The lanes set in a mask, in increasing order. -/
def maskLanes (a : List MRun) (lanes : Nat) : List Nat := (List.range lanes).filter (maskAt a)

/-! ## Vector registers (R62 to R69) -/

/-- The pattern of a register's lane, at the register's own width. -/
def Shape.at (w : Bool) : Shape → Nat → Word
  | .u v, _ => v
  | .a b s, i =>
    let x := b + s * BitVec.ofNat 64 i
    if w then x else x &&& 0xFFFFFFFF#64
  | .g rs, i => go rs i
where
  go : List Run → Nat → Word
  | [], _ => 0
  | r :: rs, i => if i < r.stop then r.val else go rs i

/-- A pattern cut to n bits. -/
def cut (n : Nat) (x : Word) : Word := BitVec.ofNat 64 (x.toNat % 2 ^ n)

/-- The pattern of lane i read at n bits (R63): a wider read zero-extends, a narrower one takes the low bits. -/
def VReg.lane (v : VReg) (n i : Nat) : Word := cut n (v.shape.at v.w i)

/-- The END values of a register's runs (R77): every lane boundary for an A register. -/
def VReg.ends (v : VReg) (lanes : Nat) : List Nat :=
  match v.shape with
  | .u _ => [lanes]
  | .a _ _ => (List.range lanes).map (· + 1)
  | .g rs => rs.map Run.stop

/-- A mask's END values. -/
def maskEnds (a : List MRun) : List Nat := a.map MRun.stop

/-- Two rising lists merged into one, without repeats; `fuel` at least the length of both. -/
def mergeEnds : Nat → List Nat → List Nat → List Nat
  | n + 1, x :: xs, y :: ys =>
    if x < y then x :: mergeEnds n xs (y :: ys)
    else if y < x then y :: mergeEnds n (x :: xs) ys
    else x :: mergeEnds n xs ys
  | _, [], ys => ys
  | _, xs, [] => xs
  | 0, xs, _ => xs

def unionEnds (a b : List Nat) : List Nat := mergeEnds (a.length + b.length) a b

/-- A run list in canonical form (R67): one run that covers every lane is U. -/
def canonical (w : Bool) (rs : List Run) : VReg :=
  match rs with
  | [r] => { w := w, shape := .u r.val }
  | _ => { w := w, shape := .g rs }

/-- The A form in canonical form (R67): a step of 0 is U. -/
def canonicalA (w : Bool) (b s : Word) : VReg :=
  let n := if w then 64 else 32
  if cut n s = 0 then { w := w, shape := .u (cut n b) } else { w := w, shape := .a (cut n b) (cut n s) }

/-- Adjacent runs with identical values merged (R93, R88). -/
def mergeRuns : List Run → List Run
  | [] => []
  | r :: rs =>
    match mergeRuns rs with
    | [] => [r]
    | s :: ss => if s.val = r.val then s :: ss else r :: s :: ss

/-- The number of runs that VINFO reports (R69). -/
def VReg.nruns (v : VReg) (lanes : Nat) : Nat :=
  match v.shape with | .u _ => 1 | .a _ _ => lanes | .g rs => rs.length

/-- A register's runs as pairs of value and end, an A register lane by lane (R77). -/
def VReg.runs (v : VReg) (lanes : Nat) : List Run :=
  match v.shape with
  | .u x => [⟨x, lanes⟩]
  | .a _ _ => (List.range lanes).map (fun i => ⟨v.shape.at v.w i, i + 1⟩)
  | .g rs => rs

/-- The register rewritten into fully merged form (R93). -/
def VReg.coalesce (v : VReg) : VReg :=
  match v.shape with
  | .g rs => canonical v.w (mergeRuns rs)
  | _ => v

/-- Canonical under R67: checked when a saved register is restored (R96). -/
def VReg.isCanonical (v : VReg) (lanes : Nat) : Bool :=
  match v.shape with
  | .u _ => true
  | .a _ s => decide (cut (if v.w then 64 else 32) s ≠ 0)
  | .g rs => decide (2 ≤ rs.length) && rising 0 (rs.map Run.stop) && (rs.map Run.stop).getLastD 0 == lanes
where
  rising : Nat → List Nat → Bool
  | _, [] => true
  | lo, e :: es => decide (lo < e) && rising e es

/-! ## Segments (R77) -/

/-- A segment of lanes on which every operand, the execution mask and the old destination are constant, with
whether it is computed (inside em). -/
structure Seg where
  lo : Nat
  hi : Nat
  on : Bool
  deriving DecidableEq, Repr

/-- The segments between rising bounds. -/
def segsOf (em : List MRun) : Nat → List Nat → List Seg
  | _, [] => []
  | lo, e :: es => ⟨lo, e, maskAt em lo⟩ :: segsOf em e es

/-- The segments of an instruction over operands with the given ends, old destination ends and em: an old edge
counts only on inactive lanes (R77). -/
def segments (em : List MRun) (ends : List (List Nat)) (old : List Nat) : List Seg :=
  let b := ends.foldl unionEnds (maskEnds em)
  let b := unionEnds b (old.filter (fun e => !maskAt em (e - 1)))
  segsOf em 0 b

/-- The number of computed segments. -/
def computed (ss : List Seg) : Nat := (ss.filter Seg.on).length

/-- Passes of an instruction with n computed segments, K at a time (R81). -/
def passCount (n k : Nat) : Nat := max 1 ((n + k - 1) / k)

/-- The run list over segments: computed segments take `val`, others keep `old`; a segment that opens a new pass never
merges with the run before it, every other equal neighbour does (R77, R78). `n` counts the computed segments so far;
`out` holds the runs in reverse. -/
def buildRuns (k : Nat) (val old : Nat → Word) : List Seg → Nat → List Run → List Run
  | [], _, out => out.reverse
  | s :: ss, n, out =>
    let split := s.on && decide (0 < n) && decide (n % k = 0)
    let v := if s.on then val s.lo else old s.lo
    let n' := if s.on then n + 1 else n
    match out with
    | r :: rs =>
      if r.val = v ∧ split = false then buildRuns k val old ss n' (⟨v, s.hi⟩ :: rs)
      else buildRuns k val old ss n' (⟨v, s.hi⟩ :: r :: rs)
    | [] => buildRuns k val old ss n' [⟨v, s.hi⟩]

/-- A mask over segments, fully merged: computed segments take `val`, others keep `old` (R84). -/
def buildMask (val old : Nat → Bool) : List Seg → List MRun
  | [] => []
  | s :: ss => pushM (if s.on then val s.lo else old s.lo) s.hi (buildMask val old ss)

end Sys2Proof.Machine
end

