-- ==== Sys2Proof/Machine/Operands.lean ====
section
/-! DEFINITION. Operand forms: immediates with and without an IMM prefix, branch targets, generic pointers and
their windows, the offsets of local accesses. -/

namespace Sys2Proof.Machine

/-! ## Immediates (R329, R365) -/

/-- IMMV of a prefix word. -/
def immv (w : Inst) : BitVec 26 := fld w 0 26

/-- An n-bit immediate, extended by the pending IMM prefix if there is one: SignExtend(IMMV : x) (R329). -/
def Team.imm {n : Nat} (t : Team) (x : BitVec n) : Word :=
  match t.immWord with
  | some w => (immv w ++ x).signExtend 64
  | none => x.signExtend 64

/-- The offset of a local access (R365): OFF is field B when VO is 0, and no bits at all when VO is 1. -/
def Team.localOff (t : Team) (vo : Bool) (b : BitVec 6) : Int :=
  if vo then (match t.immWord with | some w => (immv w).toInt | none => 0)
  else (match t.immWord with | some w => (immv w ++ b).toInt | none => b.toInt)

/-- The low 55 bits: a device virtual address (R265). -/
def va55 (x : Word) : Word := x &&& 0x7FFFFFFFFFFFFF#64

/-- A branch target: the address of the branch word plus 4 times the offset, bits 54-0 (R380). -/
def Team.target (t : Team) (i : BitVec 20) : Word := va55 (t.pc + t.imm i * 4)

/-- Whether a register holds a clause address: bits 63-55 and 1-0 zero (R400, R421, R457). -/
def clauseAddr (x : Word) : Bool := bits x 63 55 = 0 && bits x 1 0 = 0

/-! ## Generic pointers (R129 to R134) -/

/-- Window code of a pointer. -/
def ptrWin (p : Word) : Nat := bits p 63 60

/-- The offset field of a local pointer: 20 bits for the tile store, 19 for the others (R132). -/
def ptrOff (p : Word) : Nat := if ptrWin p = 0xB then bits p 19 0 else bits p 18 0

/-- Owner core of a scratchpad pointer. -/
def ptrOwner (p : Word) : Nat := bits p 59 51

/-- Target core-in-cluster of a cluster pointer. -/
def ptrTarget (p : Word) : Nat := bits p 50 48

/-- Well formed under R132. -/
def ptrOk (p : Word) : Bool :=
  match ptrWin p with
  | 0x0 => bits p 59 55 = 0
  | 0x8 => bits p 59 19 = 0
  | 0x9 => bits p 50 19 = 0 && ptrOwner p ≤ 319
  | 0xA => bits p 59 51 = 0 && bits p 47 19 = 0
  | 0xB => bits p 59 20 = 0
  | _ => false

/-- What SPACE answers (R133). -/
def spaceOf (p : Word) : Nat := if ptrOk p then ptrWin p else 0xF

/-- The invalid pointer (R134). -/
def badPtr : Word := 0xF000000000000000#64

/-- A pointer into a window with a 19-bit offset, or the invalid pointer when the offset does not fit (R134). -/
def mkPtr (win owner target off : Nat) : Word :=
  if off < 2 ^ 19 then wordOf [(60, win), (51, owner), (48, target), (0, off)] else badPtr

/-- CAST (R134): P is the team's private base, `size` its private bytes and C its core. -/
def castPtr (P size C : Nat) (target : Nat) (p : Word) : Word :=
  let o := ptrOff p
  let own := ptrOwner p
  let k := ptrTarget p
  let k0 := C % 8
  let priv (g : Nat) : Word := if P ≤ g ∧ g < P + size then mkPtr 0x8 0 0 (g - P) else badPtr
  if !ptrOk p then badPtr
  else match ptrWin p, target with
    | 0x8, 0x8 => p
    | 0x8, 0x9 => mkPtr 0x9 C 0 (P + o)
    | 0x8, 0xA => mkPtr 0xA 0 k0 (P + o)
    | 0x9, 0x8 => if own = C then priv o else badPtr
    | 0x9, 0x9 => mkPtr 0x9 C 0 o
    | 0x9, 0xA => if own / 8 = C / 8 then mkPtr 0xA 0 (own % 8) o else badPtr
    | 0xA, 0x8 => if k = k0 then priv o else badPtr
    | 0xA, 0x9 => if k = k0 then mkPtr 0x9 C 0 o else badPtr
    | 0xA, 0xA => p
    | 0x0, 0x0 => p
    | 0xB, 0xB => p
    | _, _ => badPtr

/-! ## Sets of co-resident groups (R43, R130) -/

/-- COLOC's factor (R36). -/
def LaunchRec.factor (r : LaunchRec) : Nat := if r.coloc = 0 then 1 else 2 ^ r.coloc

/-- Whether two groups belong to one co-resident set. -/
def sameSet (a b : Group) : Bool :=
  a.grid = b.grid && a.idx / a.lrec.factor = b.idx / b.lrec.factor && a.lrec.coloc ≠ 0

/-- The group place of the member of g's set on core `c`, if that core holds one (R130). -/
def Mach.member (m : Mach) (g : Group) (c : Nat) : Option Nat :=
  ((m.core c).groups.filter (fun _ h => sameSet g h && h.phase != .waitingPlaceholder && h.phase != .gone)).keys.head?

/-- The partition a local access reaches: core and group place, and whether it is a tile store. -/
structure Reach where
  core : Nat
  group : Nat
  tile : Bool
  /-- Added to the offset to get a group-relative offset. -/
  base : Nat
  /-- Limit of the offset (R136). -/
  limit : Nat
  cluster : Bool
  deriving DecidableEq, Repr

/-- TRAPINFO of WINDOW_FAULT (R136). -/
def winInfo (win reason : Nat) : Word := wordOf [(60, win), (0, reason)]

/-- A core of the cluster that core c belongs to. -/
def coreInCluster (c k : Nat) : Nat := c / 8 * 8 + k

/-- The partition that a scratchpad offset of the current team's group reaches. -/
def Mach.reachSp (m : Mach) : Reach :=
  { core := m.cur.core, group := m.team.group, tile := false, base := 0, limit := m.group.spSize, cluster := false }

def Mach.reachTile (m : Mach) : Reach :=
  { core := m.cur.core, group := m.team.group, tile := true, base := 0, limit := m.group.tileSize, cluster := false }

def Mach.reachPriv (m : Mach) : Reach :=
  { core := m.cur.core, group := m.team.group, tile := false, base := m.group.privBase m.team.tid,
    limit := m.group.privSize, cluster := false }

/-- The partition of the co-resident group on core-in-cluster k, or NOPEER (R130). -/
def Mach.reachCluster (m : Mach) (k : Nat) : Except TrapReq Reach :=
  let c := coreInCluster m.cur.core k
  match m.member m.group c with
  | some g => .ok { core := c, group := g, tile := false, base := 0, limit := (m.groupAt c g).spSize, cluster := true }
  | none => .error ⟨cWINDOW_FAULT, winInfo 0xA 4⟩

/-- The window checks of R136 on a generic pointer, in their order, and the partition it reaches. -/
def Mach.reachPtr (m : Mach) (p : Word) : Except TrapReq Reach :=
  let w := ptrWin p
  if w = 0x0 then .error ⟨cWINDOW_FAULT, winInfo w 1⟩
  else if ¬ (w = 0x8 ∨ w = 0x9 ∨ w = 0xA ∨ w = 0xB) then .error ⟨cWINDOW_FAULT, winInfo w 2⟩
  else if ptrOk p = false then .error ⟨cWINDOW_FAULT, winInfo w 3⟩
  else if w = 0xA then m.reachCluster (ptrTarget p)
  else if w = 0x9 ∧ ptrOwner p ≠ m.cur.core then
    .error ⟨cFOREIGN_SCRATCH, wordOf [(41, ptrOwner p), (32, m.cur.core), (0, bits p 18 0)]⟩
  else if w = 0x8 then .ok m.reachPriv
  else if w = 0x9 then .ok m.reachSp
  else .ok m.reachTile

/-! ## Element widths (R97) -/

/-- Bits of a format. -/
def fmtBits : Nat → Nat
  | 0 | 4 | 19 | 20 | 21 => 8
  | 1 | 5 | 8 | 9 => 16
  | 2 | 6 | 10 => 32
  | 3 | 7 | 11 => 64
  | 16 | 17 | 18 => 4
  | _ => 0

/-- MODE's fields (R339). -/
def Team.etype (t : Team) : Nat := bits t.mode 18 15
def Team.round (t : Team) : Nat := bits t.mode 14 12
def Team.sat (t : Team) : Bool := bitOf t.mode 6
def Team.flush (t : Team) : Bool := bitOf t.mode 5
def Team.trapEn (t : Team) : Nat := bits t.mode 4 0

/-- Whether a format is one of the integer arithmetic types. -/
def fmtInt (f : Nat) : Bool := f ≤ 7

/-- Whether an integer format is signed. -/
def fmtSigned (f : Nat) : Bool := f ≤ 3 || f = 16 || f = 17

/-- Whether a format is one of FP16, BF16, FP32, FP64. -/
def fmtFloat (f : Nat) : Bool := 8 ≤ f && f ≤ 11

/-- A scalar register as a uniform operand of a vector instruction (R357): its 64-bit pattern, read at the element width. -/
def scalarOperand (x : Word) : VReg := { w := true, shape := .u x }

/-- A vector register number at or above the declared count is refused (R64). -/
def Team.vecOk (t : Team) (rs : List Nat) : Bool := rs.all (· < t.nv)

end Sys2Proof.Machine
end

