-- ==== Sys2Proof/Machine/Scalar.lean ====
section
/-! DEFINITION. Scalar instructions, majors 0x04 to 0x07 (R415 to R429). -/

namespace Sys2Proof.Machine

/-! ## Functions (R423, R425, R426, R428) -/

/-- Bits 127-64 of the signed product. -/
def mulHigh (a b : Word) : Word := (a.signExtend 128 * b.signExtend 128).extractLsb' 64 64

/-- Bits 127-64 of the unsigned product. -/
def mulHighU (a b : Word) : Word := (a.setWidth 128 * b.setWidth 128).extractLsb' 64 64

/-- Shift left by the whole of b; 0 from 64 places on. -/
def shl (a b : Word) : Word := if 64 ≤ b.toNat then 0 else a <<< b.toNat

/-- Shift right by the whole of b; 0 from 64 places on. -/
def shr (a b : Word) : Word := if 64 ≤ b.toNat then 0 else a >>> b.toNat

/-- Arithmetic shift right; from 63 places on only the sign is left. -/
def sra (a b : Word) : Word := a.sshiftRight (min b.toNat 63)

/-- The lesser of a and b, unsigned when u. -/
def lesser (u : Bool) (a b : Word) : Word := if (if u then a.ult b else a.slt b) then a else b

/-- The greater of a and b, unsigned when u. -/
def greater (u : Bool) (a b : Word) : Word := if (if u then b.ult a else b.slt a) then a else b

/-- Leading zero bits of an n-bit number. -/
def clzNat (n x : Nat) : Nat := if x = 0 then n else n - 1 - Nat.log2 x

/-- Set bits among the n low bits of a number. -/
def popNat (n x : Nat) : Nat := sumTo (fun i => x / 2 ^ i % 2) n

def clz (a : Word) : Word := BitVec.ofNat 64 (clzNat 64 a.toNat)

def pop (a : Word) : Word := BitVec.ofNat 64 (popNat 64 a.toNat)

/-- POS and length of a bit-field control (R425). -/
def fieldPos (c : Word) : Nat := bits c 5 0
def fieldLen (c : Word) : Nat := bits c 11 6 + 1

/-- Extract a field; bits above 63 are zero, or copies of bit 63 (R425). -/
def bfx (u : Bool) (a c : Word) : Word :=
  let len := fieldLen c
  if u then BitVec.ofNat 64 (a.toNat / 2 ^ fieldPos c % 2 ^ len)
  else
    let x := (a.sshiftRight (fieldPos c)).toNat % 2 ^ len
    wordOfInt (signed x len)

/-- Insert a field of a into d (R425). -/
def bfi (d a c : Word) : Word :=
  let mask : Nat := 2 ^ fieldLen c - 1
  let f := BitVec.ofNat 64 (a.toNat % 2 ^ fieldLen c * 2 ^ fieldPos c)
  let m := BitVec.ofNat 64 (mask * 2 ^ fieldPos c)
  (d &&& ~~~m) ||| f

/-- Whether a REL b holds (R426): eq, ne, lt, le, gt, ge. -/
def relHolds (u : Bool) (r : Nat) (a b : Word) : Bool :=
  let lt := if u then a.ult b else a.slt b
  let gt := if u then b.ult a else b.slt a
  match r with
  | 0 => a == b
  | 1 => a != b
  | 2 => lt
  | 3 => !gt
  | 4 => gt
  | _ => !lt

/-! ## Shapes of instruction -/

/-- A result that becomes readable later than the next cycle (R416). -/
def Team.awaitS (t : Team) (d due : Nat) (k : PendKind) : Team :=
  { t with pend := ⟨.scalar, d, due, k, none⟩ :: t.pend }

/-- sD becomes a function of two scalar registers. -/
def scalar2 (f : Word → Word → Word) (d a b : Reg) (s : State) : Host.Outcome State Fault Refusal :=
  word (onTeam fun t => .ok (t.ws d.toNat (f (t.rs a.toNat) (t.rs b.toNat)))) s

/-- As `scalar2`, readable after 4 cycles. -/
def scalarMul (f : Word → Word → Word) (d a b : Reg) (s : State) : Host.Outcome State Fault Refusal :=
  word (fun m => onTeam (fun t =>
    .ok ((t.ws d.toNat (f (t.rs a.toNat) (t.rs b.toNat))).awaitS d.toNat (m.now + 4) .other)) m) s

/-- sD becomes a function of one scalar register. -/
def scalar1 (f : Word → Word) (d a : Reg) (s : State) : Host.Outcome State Fault Refusal :=
  word (onTeam fun t => .ok (t.ws d.toNat (f (t.rs a.toNat)))) s

/-- sD becomes a function of itself and the immediate (R354). -/
def scalarImm (f : Word → Word → Word) (d : Reg) (i : BitVec 14) (s : State) : Host.Outcome State Fault Refusal :=
  word (onTeam fun t => .ok (t.ws d.toNat (f (t.rs d.toNat) (t.imm i)))) s

/-- A division: DIV_ZERO on a zero divisor, else the divider is occupied for 24 cycles and sD is readable after
them (R416, R428). -/
def division (f : Word → Word → Word) (d a b : Reg) (s : State) : Host.Outcome State Fault Refusal :=
  word (fun m =>
    let t := m.team
    if t.rs b.toNat = 0 then m.trap ⟨cDIV_ZERO, 0⟩
    else
      let x := m.myCore
      let t := (t.ws d.toNat (f (t.rs a.toNat) (t.rs b.toNat))).awaitS d.toNat (m.now + 24) .divider
      m.setCore m.cur.core ({ x with dividerFree := m.now + 24 }.setTeam m.cur.place t.retire)) s

/-! ## Meanings -/

def execSadd (d a b : Reg) (s : State) := scalar2 (· + ·) d a b s
def execSsub (d a b : Reg) (s : State) := scalar2 (· - ·) d a b s
def execSmul (d a b : Reg) (s : State) := scalarMul (· * ·) d a b s
def execSmulh (d a b : Reg) (s : State) := scalarMul mulHigh d a b s
def execSmulhu (d a b : Reg) (s : State) := scalarMul mulHighU d a b s
/-- SDIV (R428): toward zero; −2^63 / −1 gives −2^63 (R120). -/
def execSdiv (d a b : Reg) (u : Bool) (s : State) := division (fun x y => if u then x / y else x.sdiv y) d a b s
/-- SREM (R428): the sign of the dividend. -/
def execSrem (d a b : Reg) (u : Bool) (s : State) := division (fun x y => if u then x % y else x.srem y) d a b s
def execSand (d a b : Reg) (s : State) := scalar2 (· &&& ·) d a b s
def execSor (d a b : Reg) (s : State) := scalar2 (· ||| ·) d a b s
def execSxor (d a b : Reg) (s : State) := scalar2 (· ^^^ ·) d a b s
def execSshl (d a b : Reg) (s : State) := scalar2 shl d a b s
def execSshr (d a b : Reg) (s : State) := scalar2 shr d a b s
def execSsra (d a b : Reg) (s : State) := scalar2 sra d a b s
def execSmin (d a b : Reg) (u : Bool) (s : State) := scalar2 (lesser u) d a b s
def execSmax (d a b : Reg) (u : Bool) (s : State) := scalar2 (greater u) d a b s
def execSmov (d a : Reg) (s : State) := scalar1 (fun x => x) d a s
def execSbfx (d a b : Reg) (u : Bool) (s : State) := scalar2 (bfx u) d a b s
/-- SBFI reads sD as a source (R425). -/
def execSbfi (d a b : Reg) (s : State) : Host.Outcome State Fault Refusal :=
  word (onTeam fun t => .ok (t.ws d.toNat (bfi (t.rs d.toNat) (t.rs a.toNat) (t.rs b.toNat)))) s
def execSclz (d a : Reg) (s : State) := scalar1 clz d a s
def execSpop (d a : Reg) (s : State) := scalar1 pop d a s

def execSaddImm (d : Reg) (i : BitVec 14) (s : State) := scalarImm (· + ·) d i s
def execSsubImm (d : Reg) (i : BitVec 14) (s : State) := scalarImm (· - ·) d i s
def execSmulImm (d : Reg) (i : BitVec 14) (s : State) : Host.Outcome State Fault Refusal :=
  word (fun m => onTeam (fun t =>
    .ok ((t.ws d.toNat (t.rs d.toNat * t.imm i)).awaitS d.toNat (m.now + 4) .other)) m) s
def execSandImm (d : Reg) (i : BitVec 14) (s : State) := scalarImm (· &&& ·) d i s
def execSorImm (d : Reg) (i : BitVec 14) (s : State) := scalarImm (· ||| ·) d i s
def execSxorImm (d : Reg) (i : BitVec 14) (s : State) := scalarImm (· ^^^ ·) d i s
def execSshlImm (d : Reg) (i : BitVec 14) (s : State) := scalarImm shl d i s
def execSshrImm (d : Reg) (i : BitVec 14) (s : State) := scalarImm shr d i s
def execSsraImm (d : Reg) (i : BitVec 14) (s : State) := scalarImm sra d i s
def execSminImm (d : Reg) (u : Bool) (i : BitVec 14) (s : State) := scalarImm (lesser u) d i s
def execSmaxImm (d : Reg) (u : Bool) (i : BitVec 14) (s : State) := scalarImm (greater u) d i s
/-- SMOV's immediate form does not read sD (R423). -/
def execSmovImm (d : Reg) (i : BitVec 14) (s : State) := scalarImm (fun _ x => x) d i s

/-- SLI (R429). -/
def execSli (d : Reg) (i : BitVec 20) (s : State) : Host.Outcome State Fault Refusal :=
  word (onTeam fun t => .ok (t.ws d.toNat (t.imm i))) s

/-- SCMP (R426); REL 6 and 7 are unassigned. -/
def execScmp (d a b : Reg) (u : Bool) (r : BitVec 3) (s : State) : Host.Outcome State Fault Refusal :=
  word (onTeam fun t =>
    if 6 ≤ r.toNat then illegal (.scmp d a b u r)
    else .ok (t.ws d.toNat (BitVec.ofNat 64 (b2n (relHolds u r.toNat (t.rs a.toNat) (t.rs b.toNat)))))) s

/-- SSEL (R427). -/
def execSsel (d a b c : Reg) (s : State) : Host.Outcome State Fault Refusal :=
  word (onTeam fun t => .ok (t.ws d.toNat (if t.rs c.toNat ≠ 0 then t.rs a.toNat else t.rs b.toNat))) s

end Sys2Proof.Machine
end

