-- ==== Sys2Proof/Machine/Xlat.lean ====
section
/-! DEFINITION. Physical addresses, page tables and translation (R265 to R271). -/

namespace Sys2Proof.Machine

/-! ## The physical address map (R267) -/

/-- What a physical address reaches. -/
inductive Target where
  | device
  /-- Host memory through a PCI Express port. -/
  | host (port : Nat)
  /-- The register page, at an offset. -/
  | registers (off : Nat)
  | reserved
  deriving DecidableEq, Repr

def hostBase (port : Nat) : Nat := 0x4000000000000 * (port + 1)

/-- First address of the register page. -/
def registerPage : Nat := 0x2000000000000

/-- The target of a physical address. -/
def targetOf (pa : Nat) : Target :=
  if pa < 0x8000000000 then .device
  else if registerPage ≤ pa ∧ pa < registerPage + 0x10000 then .registers (pa - registerPage)
  else if hostBase 0 ≤ pa ∧ pa < hostBase 1 then .host 0
  else if hostBase 1 ≤ pa ∧ pa < hostBase 2 then .host 1
  else .reserved

/-- Whether a physical address is in device memory (R178). -/
def inDevice (pa : Nat) : Bool := targetOf pa = .device

/-! ## The stack and the home of an address (R178) -/

/-- Exclusive or of the k lowest n-bit groups of a number. -/
def xorGroups (n x : Nat) : Nat → Nat
  | 0 => 0
  | k + 1 => xorGroups n x k ^^^ (x / 2 ^ (n * k) % 2 ^ n)

/-- StackOf (R178). -/
def stackOf (pa : Nat) : Nat := xorGroups 3 (pa / 4096 % 2 ^ 27) 9

/-- StackAddr (R178). -/
def stackAddr (pa : Nat) : Nat := pa / 2 ^ 15 % 2 ^ 24 * 4096 + pa % 4096

/-- The physical address of a byte of a stack: the inverse of StackOf and StackAddr. -/
def unstack (stack sa : Nat) : Nat :=
  let up := sa / 4096 * 8
  let low := xorGroups 3 up 9 ^^^ stack
  (up + low) * 4096 + sa % 4096

/-- The slice of a line in a die L2 (R180). -/
def sliceOf (pa : Nat) : Nat := xorGroups 5 (pa / 128 % 2 ^ 32) 7

/-! ## Page table entries (R268, R269) -/

/-- A leaf entry, decoded. -/
structure Leaf where
  mig : Bool
  rdup : Bool
  own : Bool
  mcast : Bool
  remote : Bool
  wt : Bool
  cls : Nat
  atomic : Bool
  write : Bool
  read : Bool
  /-- Bits 51-16. -/
  oa : Nat
  peer : Nat
  /-- Level that it stands at: 1, 2 or 3. -/
  level : Nat
  deriving DecidableEq, Repr

/-- Log2 of the bytes that a leaf at a level maps (R265). -/
def levelBits (level : Nat) : Nat := if level = 1 then 42 else if level = 2 then 29 else 16

/-- A leaf word's fields. -/
def leafFields (level : Nat) (w : Word) : Leaf :=
  { mig := bitOf w 63, rdup := bitOf w 62, own := bitOf w 61, mcast := bitOf w 60, remote := bitOf w 59,
    wt := bitOf w 58, cls := bits w 57 54, atomic := bitOf w 53, write := bitOf w 52, read := bitOf w 2,
    oa := bits w 51 16, peer := bits w 15 7, level := level }

/-- Whether a leaf stands for a valid translation (R269). -/
def leafValid (w : Word) (l : Leaf) : Bool :=
  let pa := l.oa * 65536
  bits w 6 3 = 0 &&
  (if l.remote then
    decide (l.oa % 16 = 0) && (if l.mcast then decide (l.peer < 256) else decide (l.peer < 288)) && !l.rdup
  else
    !l.mcast && l.peer = 0 && pa % 2 ^ levelBits l.level = 0 && targetOf pa != .reserved &&
      (!l.rdup || inDevice pa))

/-- A leaf entry read at a level, if its type is allowed there and it is valid. -/
def decodeLeaf (level : Nat) (w : Word) : Option Leaf :=
  let ty := bits w 1 0
  let l := leafFields level w
  if ((ty = 2 ∧ level < 3) ∨ (ty = 3 ∧ level = 3)) ∧ leafValid w l then some l else none

/-- The next table of a table entry at a level, if it is one. -/
def decodeTable (level : Nat) (w : Word) : Option Nat :=
  if bits w 1 0 = 1 ∧ level < 3 ∧ bits w 63 52 = 0 ∧ bits w 15 2 = 0 ∧ inDevice (bits w 51 16 * 65536)
  then some (bits w 51 16 * 65536) else none

/-- The index into a table of a level (R265). -/
def tableIndex (level va : Nat) : Nat := va / 2 ^ levelBits level % 8192

/-- The walk from a table at a level, `fuel` levels deep: the leaf word and its level (R265, R269). -/
def walkFrom (mem : Mem) (va : Nat) : (fuel level table : Nat) → Option (Nat × Word)
  | 0, _, _ => none
  | fuel + 1, level, table =>
    let w := mem.readD (table + 8 * tableIndex level va)
    match decodeTable level w with
    | some next => walkFrom mem va fuel (level + 1) next
    | none => if (decodeLeaf level w).isSome then some (level, w) else none

/-- The walk of an address space (R266, R269); each entry is read at its home (R267). -/
def walk (mem : Mem) (asroot : Tab Word) (aspace va : Nat) : Option (Nat × Word) :=
  let r := asroot.get 0 aspace
  if bitOf r 0 && inDevice (bits r 51 16 * 65536) then walkFrom mem va 3 1 (bits r 51 16 * 65536) else none

/-- The addresses of the entries that a walk from a table reads. -/
def walkFromPath (mem : Mem) (va : Nat) : (fuel level table : Nat) → List Nat
  | 0, _, _ => []
  | fuel + 1, level, table =>
    let a := table + 8 * tableIndex level va
    a :: (match decodeTable level (mem.readD a) with
      | some next => walkFromPath mem va fuel (level + 1) next
      | none => [])

/-- The addresses of the entries that the walk of an address space reads (R266, R267). -/
def walkPath (mem : Mem) (asroot : Tab Word) (aspace va : Nat) : List Nat :=
  let r := asroot.get 0 aspace
  if bitOf r 0 && inDevice (bits r 51 16 * 65536) then walkFromPath mem va 3 1 (bits r 51 16 * 65536) else []

/-- The physical address under a leaf. -/
def Leaf.pa (l : Leaf) (va : Nat) : Nat := l.oa * 65536 + va % 2 ^ levelBits l.level

/-- The key index of a remote leaf (R268). -/
def Leaf.key (l : Leaf) : BitVec 32 := BitVec.ofNat 32 (l.oa / 16)

/-! ## The TLB of a die (R271) -/

/-- The TLB entry that covers an address. -/
def tlbFind (tlb : List TlbEntry) (aspace va : Nat) : Option TlbEntry :=
  tlb.find? (fun e => e.aspace = aspace && e.tag = va / 2 ^ levelBits e.level)

/-- The TLB with an entry added; the oldest of 16,384 makes room. -/
def tlbAdd (tlb : List TlbEntry) (e : TlbEntry) : List TlbEntry := (e :: tlb).take 16384

/-- Translate on a die: the TLB entry if one covers the address, else a walk, whose result is kept when valid. A leaf with the migrating bit is not
kept: what waits for it translates anew (R199). -/
def xlat (mem : Mem) (asroot : Tab Word) (d : Die) (aspace va : Nat) : Die × Option Leaf :=
  match tlbFind d.tlb aspace va with
  | some e => (d, decodeLeaf e.level e.leaf)
  | none =>
    match walk mem asroot aspace va with
    | some (level, w) =>
      let l := decodeLeaf level w
      if (l.map Leaf.mig).getD false then (d, l) else ({ d with tlb := tlbAdd d.tlb ⟨aspace, level, va / 2 ^ levelBits level, w⟩ }, l)
    | none => (d, none)

/-! ## Checks of an element access (R270) -/

/-- The right that an access needs. -/
inductive Right where
  | read | write | atomic
  deriving DecidableEq, Repr

/-- What the checks decide; `stall` is a walk that reads a row under test (R322), which no check of a leaf answers. -/
inductive Access where
  | page
  | stall
  | wait
  | ownership
  | protection
  | ok (l : Leaf)
  deriving DecidableEq, Repr

/-- The checks of R270 on a translation, in order. An access that would fall outside the map after translation has no valid one. -/
def checkAccess (l : Option Leaf) (va : Nat) (r : Right) : Access :=
  match l with
  | none => .page
  | some l =>
    if !l.remote && targetOf (l.pa va) = .reserved then .page
    else if l.mig then .wait
    else if l.own then .ownership
    else if (match r with | .read => l.read | .write => l.write | .atomic => l.atomic) then .ok l
    else .protection

/-! ## Fetch -/

/-- The word at a device virtual address of an address space: translated by the page tables, read at its home as device memory. -/
def fetchWord (s : State) (aspace : Nat) (va : Word) : Except Fault Inst :=
  match walk s.mem s.sys.asroot aspace va.toNat with
  | none => .error (.fetchUntranslated va)
  | some (level, w) =>
    let l := leafFields level w
    let pa := l.pa va.toNat
    if l.remote || !l.read || l.own || !inDevice pa then .error (.fetchUntranslated va)
    else if ((s.l2.homes.get Home.initial (stackOf pa)).poison).contains (stackAddr pa / 32) then .error (.fetchPoisoned va)
    else .ok (BitVec.ofNat 32 (s.mem.readN pa 4))

/-- HDRLO for a trap whose TRAPPC is a clause start (R276): the low bits of the header there, and 0 where no header stands (R331). What
stands at an address that cannot be read is not known. -/
def State.headerAt (s : State) (aspace : Nat) (va : Word) : BitVec 14 :=
  match fetchWord s aspace va with
  | .ok w => if major w = 0x3F then w.setWidth 14 else 0
  | .error _ => (Config.noData s.free va.toNat).setWidth 14

/-- The same in the current team's address space. -/
def State.headerLo (s : State) (va : Word) : BitVec 14 := s.headerAt (s.m.myCore.group s.m.team.group).aspace va

end Sys2Proof.Machine
end

