-- ==== Sys2Proof/Machine/Control.lean ====
section
/-! DEFINITION. Control instructions, prefixes, MODE and the clause header (majors 0x00 to 0x03 and 0x3F):
R58 to R60, R327 to R341, R379 to R382, R392 to R401, R421, R431, R437, R458. -/

namespace Sys2Proof.Machine

/-! ## Branches -/

/-- NOP (R417). -/
def execNop (s : State) := word (onTeam fun t => .ok t) s

/-- A clause-ending instruction that only moves control: the team goes to a clause start. -/
def jumpTo (f : Team → Except TrapReq Team) (m : Mach) : Mach :=
  match f m.team with
  | .ok t => m.setTeam t
  | .error r => m.trap r

/-- Whether a BRA is taken: the guard is off, or some lane of m0 holds the guard (R380). -/
def Team.braTaken (t : Team) : Bool := bits t.mode 11 8 = 0 || maskAny t.emGuard

/-- BRA (R380). -/
def execBra (i : BitVec 20) (s : State) :=
  word (jumpTo fun t => .ok (t.jump (if t.braTaken then t.target i else t.nextClause))) s

/-- CALL (R382): the link, the next clause's header, goes to s62. -/
def execCall (i : BitVec 20) (s : State) :=
  word (jumpTo fun t => .ok ((t.ws 62 t.nextClause).jump (t.target i))) s

/-- JMPI (R400). -/
def execJmpi (a : Reg) (s : State) :=
  word (jumpTo fun t => if clauseAddr (t.rs a.toNat) then .ok (t.jump (t.rs a.toNat)) else reserved (.jmpi a)) s

/-- RET (R421). -/
def execRet (s : State) :=
  word (jumpTo fun t => if clauseAddr (t.rs 62) then .ok (t.jump (t.rs 62)) else reserved .ret) s

/-! ## The reconvergence stack (R58 to R60, R381, R401) -/

/-- The offset where the private area ends for spilling: the offset in s63 when it is a private pointer within the area,
else the whole area (R60). -/
def spillLimit (g : Group) (t : Team) : Nat :=
  let p := t.rs 63
  if ptrOk p && ptrWin p = 0x8 && ptrOff p ≤ g.privSize then ptrOff p else g.privSize

/-- A mask run as the slot it is stored in (R61, R83). -/
def maskSlot (r : MRun) : Word := packed [(16, 16, b2n r.bit), (15, 0, r.stop)]

/-- A stored slot read as a mask run; bits above 16 must be zero. -/
def slotMask (w : Word) : Option MRun := if bits w 63 17 = 0 then some ⟨bitOf w 16, bits w 15 0⟩ else none

/-- A spill record (R60). -/
def spillRecord (e : StackEntry) : List Word :=
  [packed [(63, 63, b2n e.reconv), (54, 0, e.resume.toNat)], packed [(63, 32, e.saved.length), (31, 0, e.pending.length)]] ++
    (e.saved ++ e.pending).map maskSlot

/-- Bytes of a spill record. -/
def spillSize (e : StackEntry) : Nat := 16 + 8 * e.cost

/-- Doublewords written one after another. -/
def Mem.writeDs (m : Mem) (a : Nat) : List Word → Mem
  | [] => m
  | w :: ws => Mem.writeDs (m.writeD a w) (a + 8) ws

/-- Every item of a list read by f, or none. -/
def allSome {α β : Type} (f : α → Option β) : List α → Option (List β)
  | [] => some []
  | a :: as => match f a, allSome f as with
    | some b, some bs => some (b :: bs)
    | _, _ => none

/-- The stack entry that a spill record holds, read by a function from record words to doublewords; none when it is malformed:
reserved bits, a mask that is not canonical, or runs beyond `room` bytes (R401). -/
def parseEntry (read : Nat → Word) (lanes room : Nat) : Option StackEntry :=
  let w0 := read 0
  let ns := bits (read 1) 63 32
  let np := bits (read 1) 31 0
  if bits w0 62 55 ≠ 0 ∨ 16 + 8 * (ns + np) > room then none
  else
    match allSome slotMask ((List.range (ns + np)).map (fun k => read (2 + k))) with
    | none => none
    | some rs =>
      let sv := rs.take ns
      let pd := rs.drop ns
      if maskCanonical lanes sv && maskCanonical lanes pd then
        some { reconv := bitOf w0 63, saved := sv, pending := pd, resume := BitVec.ofNat 64 (bits w0 54 0) }
      else none

/-- The entry that a BRD pushes, the m0 that it leaves and where control goes (R58). -/
def brdEntry (t : Team) (k : Nat) (target : Word) : StackEntry × List MRun × Word :=
  let taken := maskAnd (maskAnd t.em (t.rm k)) t.guardMask
  let rest := maskAnd t.em (maskNot taken)
  let e : StackEntry := { reconv := false, saved := t.em, pending := rest, resume := t.nextClause }
  if !maskAny taken then ({ e with reconv := true }, rest, t.nextClause)
  else if !maskAny rest then ({ e with reconv := true }, taken, target)
  else (e, taken, target)

/-- BRD on a core, team p (R381). The entry moved to the spill area is the oldest of 32 held ones, and its slots count as
free. -/
def brdOn (k : Nat) (i : BitVec 20) (p : Nat) (x : Core) : Except TrapReq Core :=
  let t := x.team p
  let g := x.group t.group
  let (e, m0, pc) := brdEntry t k (t.target i)
  let spill := if 32 ≤ t.stack.length then t.stack.getLast? else none
  let need := e.cost + m0.length
  let avail := t.free + (t.rm 0).length + (match spill with | some o => o.cost | none => 0)
  let fault := match spill with
    | some o => decide (t.spillEnd + spillSize o > spillLimit g t)
    | none => false
  if fault then
    .error ⟨cSTACK_SPILL_FAULT, BitVec.ofNat 64 (t.spillEnd + (match spill with | some o => spillSize o | none => 0))⟩
  else if avail < need then .error ⟨cRUN_OVERFLOW, overflowInfo need avail t.repStep 2 0⟩
  else
    let x := match spill with
      | some o =>
        let a := g.spBase + g.privBase t.tid + t.spillEnd
        { x with scratch := x.scratch.writeDs a (spillRecord o) }.rewrite false (wordsAt a (spillSize o)) (fun _ => true)
      | none => x
    let t := match spill with
      | some o => { t with stack := t.stack.dropLast, spilled := t.spillEnd :: t.spilled, spillEnd := t.spillEnd + spillSize o }
      | none => t
    .ok (x.setTeam p ({ t with stack := e :: t.stack, m := t.m.set 0 m0 }.jump pc))

/-- BRD (R381). -/
def execBrd (k : BitVec 4) (i : BitVec 20) (s : State) : Host.Outcome State Fault Refusal :=
  word (fun m => match brdOn k.toNat i m.cur.place m.myCore with
    | .ok x => m.setCore m.cur.core x
    | .error r => m.trap r) s

/-- The doublewords of the spill record at an offset that a reload reads: its first two, and as many runs as they name, if they lie in the private area
(R401). -/
def spillWords (x : Core) (g : Group) (at_ room : Nat) : Nat :=
  let n := bits (x.readSp g (at_ + 8)) 63 32 + bits (x.readSp g (at_ + 8)) 31 0
  if 16 + 8 * n > room then 2 else 2 + n

/-- The core with the team's most recent spilled entry held again, if none is held (R60, R401, R72). -/
def reload (x : Core) (p : Nat) : Except TrapReq Core :=
  let t := x.team p
  let g := x.group t.group
  match t.stack, t.spilled with
  | [], [] => .error ⟨cSTACK_SPILL_FAULT, 0⟩
  | [], off :: older =>
    let at_ := g.privBase t.tid + off
    match x.readWords g (recordOffs at_ (spillWords x g at_ (g.privSize - off))) with
    | .error r => .error r
    | .ok x =>
      match parseEntry (fun k => x.readSp g (at_ + 8 * k)) t.lanes (g.privSize - off) with
      | none => .error ⟨cSTACK_SPILL_FAULT, wordOf [(63, 1), (0, at_)]⟩
      | some e =>
        if e.cost ≤ t.free then .ok (x.setTeam p { t with stack := [e], spilled := older, spillEnd := off })
        else .error ⟨cRUN_OVERFLOW, overflowInfo e.cost t.free t.repStep 3 0⟩
  | _ :: _, _ => .ok x

/-- JOIN on a core, team p (R58, R401). -/
def joinOn (p : Nat) (x : Core) : Except TrapReq Core :=
  match reload x p with
  | .error r => .error r
  | .ok x =>
    let t := x.team p
    match t.stack with
    | [] => .error ⟨cSTACK_SPILL_FAULT, 0⟩
    | e :: es =>
      if e.reconv then .ok (x.setTeam p ({ t with stack := es, m := t.m.set 0 e.saved }.jump t.nextClause))
      else
        let avail := t.free + (t.rm 0).length
        if avail < e.pending.length then .error ⟨cRUN_OVERFLOW, overflowInfo e.pending.length avail t.repStep 1 0⟩
        else .ok (x.setTeam p ({ t with stack := { e with reconv := true } :: es, m := t.m.set 0 e.pending }.jump e.resume))

/-- JOIN (R401). -/
def execJoin (s : State) : Host.Outcome State Fault Refusal :=
  word (fun m => match joinOn m.cur.place m.myCore with
    | .ok x => m.setCore m.cur.core x
    | .error r => m.trapRecord r) s

/-! ## Ending and waiting -/

/-- TRAPINFO of TASK_FAULT (R257). -/
def taskInfo (state index reason : Nat) : Word := wordOf [(32, state), (16, index % 65536), (0, reason)]

/-- EXIT on the machine (R394, R395): TASK_FAULT HELD while the team holds a RUNNING task, else the team is EXITED. -/
def Mach.exit (m : Mach) : Mach :=
  let x := m.myCore
  let t := m.team
  let running : Bool := match t.held with
    | some i => decide (tcbState (x.tcb0 m.group i) = 3)
    | none => false
  if running then m.trap ⟨cTASK_FAULT, taskInfo 3 (t.held.getD 0) 5⟩
  else m.setCore m.cur.core ((x.setTeam m.cur.place t.dropPrefix).exitTeam m.cur.place)

/-- EXIT (R394). -/
def execExit (s : State) := word Mach.exit s

/-- YIELD (R458): the team waits for 64 cycles and goes on at the next clause. -/
def execYield (s : State) : Host.Outcome State Fault Refusal :=
  word (fun m => m.setTeam { m.team.jump m.team.nextClause with yielding := some (m.now + 65) }) s

/-- HALT (R397): HALTED at the next clause when a debugger is attached, else as EXIT. ATTACH can only be set while debug is open, and
debug closes at reset alone (R287, R326). -/
def execHalt (s : State) : Host.Outcome State Fault Refusal :=
  word (fun m =>
    if m.myCore.attach then m.setTeam { m.team.jump m.team.nextClause with phase := .halted none }
    else m.exit) s

/-! ## Traps by instruction -/

/-- ERET (R392): PRIVILEGE unless ACTIVE is set. -/
def execEret (s : State) : Host.Outcome State Fault Refusal :=
  word (jumpTo fun t => if causeActive t.trapCause then .ok t.returnTrap else .error ⟨cPRIVILEGE, 0⟩) s

/-- BREAKPOINT by BKPT or TRAP 15 (R379, R276): the word completes, and then the team halts when a debugger is attached, else
traps. -/
def Mach.breakpoint (m : Mach) (info : Word) (headerLo : Word → BitVec 14) : Mach :=
  if m.myCore.attach then m.setTeam { m.team.retire with phase := .halted none }
  else m.trapAfter ⟨cBREAKPOINT, info⟩ headerLo

/-- BKPT (R379). -/
def execBkpt (c : BitVec 16) (s : State) := word (fun m => m.breakpoint (c.setWidth 64) s.headerLo) s

/-- SYSC (R431). -/
def execSysc (c : BitVec 16) (s : State) := word (fun m => m.trapAfter ⟨cSYSCALL, c.setWidth 64⟩ s.headerLo) s

/-- TRAP (R437): the thread trap whose code it names, with sA in TRAPINFO. -/
def execTrap (a : Reg) (c : BitVec 8) (s : State) : Host.Outcome State Fault Refusal :=
  word (fun m =>
    let info := m.team.rs a.toNat
    if c.toNat = 0 ∨ 20 < c.toNat then m.trap ⟨cRESERVED, infoWord ((encode (.trap a c)).getD 0)⟩
    else if c.toNat = cBREAKPOINT then m.breakpoint info s.headerLo
    else if c.toNat = cSYSCALL then m.trapAfter ⟨cSYSCALL, info⟩ s.headerLo
    else m.trap ⟨c.toNat, info⟩) s

/-! ## MODE (R339, R340) -/

/-- The bits that the write enables select (R340). -/
def modeMask (e : BitVec 6) : Word :=
  (if e.getLsbD 5 then 0x78000#64 else 0) ||| (if e.getLsbD 4 then 0x7000#64 else 0) |||
  (if e.getLsbD 3 then 0xF80#64 else 0) ||| (if e.getLsbD 2 then 0x40#64 else 0) |||
  (if e.getLsbD 1 then 0x20#64 else 0) ||| (if e.getLsbD 0 then 0x1F#64 else 0)

/-- MODE after a write of the selected groups. -/
def modeWrite (mode : Word) (e : BitVec 6) (v : Word) : Word := (mode &&& ~~~(modeMask e)) ||| (v &&& modeMask e)

/-- A MODE value with an element type and a rounding that exist (R98, R99). -/
def modeOk (mode : Word) : Bool := bits mode 18 15 < 12 && bits mode 14 12 < 6

/-- Write MODE, or RESERVED_FIELD on a reserved element type or rounding. -/
def setMode (i : Instr) (e : BitVec 6) (v : Word) (t : Team) : Except TrapReq Team :=
  let new := modeWrite t.mode e v
  if modeOk new then .ok { t with mode := new } else reserved i

/-- MODE with an immediate value (R340). -/
def execMode (e : BitVec 6) (v : BitVec 19) (s : State) :=
  word (onTeam fun t => setMode (.mode e v) e (v.setWidth 64) t) s

/-- MODE with the value of a scalar register (R340). -/
def execModeReg (e : BitVec 6) (r : Reg) (s : State) :=
  word (onTeam fun t => setMode (.modeReg e r) e (t.rs r.toNat &&& 0x7FFFF#64) t) s

/-! ## Prefixes and headers -/

/-- The first prefix of a pair: its address and position are what a trap of the pair reports. -/
def Team.markPrefix (t : Team) : Team :=
  if t.prefixed then t else { t with prefixPc := t.pc, prefixPos := t.pos }

/-- REP (R335): the prefix is kept for the word that follows, with which it issues. The repeat counter is kept too: a nonzero one
resumes there (R337). -/
def execRep (p d a b : Bool) (n : BitVec 6) (s : State) : Host.Outcome State Fault Refusal :=
  word (fun m =>
    let t := m.team.markPrefix
    m.setTeam { t.advance with repWord := encode (.rep p d a b n) }) s

/-- IMM (R338): the prefix is kept for the word that follows, with which it issues. -/
def execImm (v : BitVec 26) (s : State) : Host.Outcome State Fault Refusal :=
  word (fun m =>
    let t := m.team.markPrefix
    m.setTeam { t.advance with immWord := encode (.imm v) }) s

/-- Bits 13-0 of a header. -/
def hdrLow (a b l : BitVec 4) : BitVec 14 := a ++ b ++ l ++ 0#2

/-- HDR (R330, R398): the clause starts, unless a reserved bit is set. -/
def execHdr (w : BitVec 12) (a b l : BitVec 4) (s : State) : Host.Outcome State Fault Refusal :=
  word (fun m =>
    let t := m.team
    if l.getLsbD 0 then
      m.takeTrap cRESERVED (infoWord ((encode (.hdr w a b l)).getD 0)) t.pc 0 (hdrLow a b l) t.pc
    else m.setTeam { t with hdr := hdrLow a b l, pos := 1, pc := t.pc + 4 }) s

end Sys2Proof.Machine
end

