-- ==== Sys2Proof/Machine/Flags.lean ====
section
/-! DEFINITION. STATUS flags: their order, how an instruction raises them, and FP_EXCEPTION (R115 to R118). -/

namespace Sys2Proof.Machine

/-- The five flags, as a number in STATUS bit order (R115). -/
def fINEXACT : Nat := 1
def fUNDERFLOW : Nat := 2
def fOVERFLOW : Nat := 4
def fDIVZERO : Nat := 8
def fINVALID : Nat := 16

/-- The flags in the list, each once. -/
def orFlags : List Nat → Nat
  | [] => 0
  | f :: fs => f ||| orFlags fs

/-- STATUS with flags raised: sticky (R115). -/
def raise (status : Word) (flags : Nat) : Word := status ||| BitVec.ofNat 64 (flags % 32)

/-- STATUS after XWR: every set bit of 4-0 clears its flag (R457). -/
def clearFlags (status x : Word) : Word := status &&& ~~~(x &&& 31#64)

/-- TRAPINFO of FP_EXCEPTION (R117). -/
def fpInfo (lane repstep flags : Nat) : Word := wordOf [(16, lane), (6, repstep), (0, flags)]

/-- FP_EXCEPTION for computed segments given as pairs of first lane and flags: raised when a segment raises a flag whose trap
enable is set; it names the first lane of the lowest such segment and every enabled flag that any segment raised (R117). -/
def fpTrap (en repstep : Nat) (segs : List (Nat × Nat)) : Option TrapReq :=
  match segs.find? (fun s => s.2 &&& en ≠ 0) with
  | none => none
  | some s => some ⟨cFP_EXCEPTION, fpInfo s.1 repstep (orFlags (segs.map Prod.snd) &&& en)⟩

end Sys2Proof.Machine
end

