-- ==== Sys2Proof/Machine/Float.lean ====
section
/-! DEFINITION. Number formats and exact arithmetic (R97 to R128). A floating operand is decoded to an exact
value, the operation is carried out exactly, or to enough bits with the rest recorded as sticky, and the result
is rounded once. -/

namespace Sys2Proof.Machine

/-! ## Formats (R97, R102) -/

/-- Layout of a floating format: exponent bits, fraction bits and bias. -/
structure FloatFmt where
  e : Nat
  f : Nat
  bias : Nat
  deriving DecidableEq, Repr

/-- The floating formats by code. -/
def floatFmt : Nat → FloatFmt
  | 8 => ⟨5, 10, 15⟩
  | 9 => ⟨8, 7, 127⟩
  | 10 => ⟨8, 23, 127⟩
  | 11 => ⟨11, 52, 1023⟩
  | 18 => ⟨2, 1, 1⟩
  | 19 => ⟨4, 3, 7⟩
  | 20 => ⟨5, 2, 15⟩
  | _ => ⟨8, 23, 127⟩

/-- Whether a code is a floating format with sign, exponent and fraction. -/
def isFloat (c : Nat) : Bool := (8 ≤ c && c ≤ 11) || (18 ≤ c && c ≤ 20)

/-- An operand: NaN, infinity, or the exact value (−1)^neg × m × 2^e; zero has m = 0 and keeps its sign. -/
inductive FVal where
  | nan (signalling : Bool)
  | inf (neg : Bool)
  | fin (neg : Bool) (m : Nat) (e : Int)
  deriving DecidableEq, Repr

/-- The value of an integer. -/
def FVal.ofInt (x : Int) : FVal := .fin (decide (x < 0)) x.natAbs 0

/-- The integer that a pattern of an integer format stands for (R100). -/
def intOf (fmt x : Nat) : Int :=
  let n := fmtBits fmt
  if fmtSigned fmt then signed x n else (x % 2 ^ n : Nat)

/-- A pattern's value in its format (R102 to R105). O4 codes are decoded in pairs elsewhere. -/
def decodeF (fmt x : Nat) : FVal :=
  if isFloat fmt then
    let p := floatFmt fmt
    let neg := decide (x / 2 ^ (p.e + p.f) % 2 = 1)
    let E := x / 2 ^ p.f % 2 ^ p.e
    let F := x % 2 ^ p.f
    let ieee := fmt ≠ 18 ∧ fmt ≠ 19
    if ieee ∧ E = 2 ^ p.e - 1 then
      if F = 0 then .inf neg else .nan (decide (F < 2 ^ (p.f - 1)))
    else if fmt = 19 ∧ E = 15 ∧ F = 7 then .nan false
    else if E = 0 then .fin neg F (1 - (p.bias : Int) - p.f)
    else .fin neg (2 ^ p.f + F) ((E : Int) - p.bias - p.f)
  else if fmt = 21 then
    if x % 256 = 255 then .nan false else .fin false 1 ((x % 256 : Nat) - 127)
  else .ofInt (intOf fmt x)

/-- The canonical NaN of a format (R102); E8M0's NaN. -/
def canonNaN : Nat → Nat
  | 8 => 0x7E00
  | 9 => 0x7FC0
  | 10 => 0x7FC00000
  | 11 => 0x7FF8000000000000
  | 19 => 0x7F
  | 20 => 0x7E
  | 21 => 0xFF
  | _ => 0

/-- The sign bit of a format, set when neg. -/
def signBit (fmt : Nat) (neg : Bool) : Nat := if neg then 2 ^ (fmtBits fmt - 1) else 0

/-- Infinity of a format; for E4M3 and E2M1, which have none, the greatest finite value (R122). -/
def infBits (fmt : Nat) (neg : Bool) : Nat :=
  let p := floatFmt fmt
  signBit fmt neg + (if fmt = 19 then 0x7E else if fmt = 18 then 7 else (2 ^ p.e - 1) * 2 ^ p.f)

/-- The greatest finite value of a format. -/
def maxBits (fmt : Nat) (neg : Bool) : Nat :=
  let p := floatFmt fmt
  signBit fmt neg + (if fmt = 19 then 0x7E else if fmt = 18 then 7 else (2 ^ p.e - 1) * 2 ^ p.f - 1)

/-! ## Rounding (R109, R110) -/

/-- The rounding modes of R99; DITH carries the threshold t of R110. -/
inductive RMode where
  | rne | rtz | rup | rdn | rna
  | dith (t : Nat)
  deriving DecidableEq, Repr

/-- The dither matrix D (R110). -/
def ditherD : List (List Nat) := [
  [0, 32, 8, 40, 2, 34, 10, 42],
  [48, 16, 56, 24, 50, 18, 58, 26],
  [12, 44, 4, 36, 14, 46, 6, 38],
  [60, 28, 52, 20, 62, 30, 54, 22],
  [3, 35, 11, 43, 1, 33, 9, 41],
  [51, 19, 59, 27, 49, 17, 57, 25],
  [15, 47, 7, 39, 13, 45, 5, 37],
  [63, 31, 55, 23, 61, 29, 53, 21]]

/-- The threshold at a position with phase p (R110). -/
def ditherT (row col p : Nat) : Nat := (((ditherD.getD (row % 8) []).getD (col % 8) 0) + p) % 64

/-- The mode of a code of R99 at a position: row, column and phase matter under DITH only. -/
def rmode (code row col p : Nat) : RMode :=
  match code with
  | 1 => .rtz
  | 2 => .rup
  | 3 => .rdn
  | 4 => .rna
  | 5 => .dith (ditherT row col p)
  | _ => .rne

/-- The mode of element n of a vector register or of a copy's destination (R111). -/
def rmodeAt (code n : Nat) : RMode := rmode code (n / 8) (n % 8) 0

/-- Whether a discarded fraction rem / 2^s, plus something if sticky, rounds the magnitude up; `odd` is the last kept bit. -/
def roundsUp (md : RMode) (neg odd sticky : Bool) (rem s : Nat) : Bool :=
  let inexact := decide (rem ≠ 0) || sticky
  match md with
  | .rne => decide (2 ^ s < 2 * rem) || (decide (2 ^ s = 2 * rem) && (sticky || odd))
  | .rna => decide (0 < s) && decide (2 ^ s ≤ 2 * rem)
  | .rtz => false
  | .rup => inexact && !neg
  | .rdn => inexact && neg
  | .dith t => inexact && decide (t < 64 * rem / 2 ^ s)

/-- m × 2^e, plus something if sticky, rounded to a multiple of 2^q: the multiple, and whether it is inexact. -/
def roundAt (md : RMode) (neg : Bool) (m : Nat) (e q : Int) (sticky : Bool) : Nat × Bool :=
  if q ≤ e then
    let x := m * 2 ^ (e - q).toNat
    (if roundsUp md neg (decide (x % 2 = 1)) sticky 0 0 then x + 1 else x, sticky)
  else
    let s := (q - e).toNat
    let x := m / 2 ^ s
    let rem := m % 2 ^ s
    (if roundsUp md neg (decide (x % 2 = 1)) sticky rem s then x + 1 else x, decide (rem ≠ 0) || sticky)

/-- Whether mant × 2^q is above a format's greatest finite magnitude. -/
def tooLarge (fmt mant : Nat) (q : Int) : Bool :=
  let p := floatFmt fmt
  let (mm, mq) : Nat × Int :=
    if fmt = 19 then (7, 6) else if fmt = 18 then (3, 1)
    else (2 ^ (p.f + 1) - 1, (2 ^ p.e : Nat) - 2 - (p.bias : Int) - p.f)
  if q ≤ mq then decide (mm * 2 ^ (mq - q).toNat < mant) else decide (mm < mant * 2 ^ (q - mq).toNat)

/-- The pattern of mant × 2^q, mant at most 2^(f+1), in a format that represents it. -/
def packF (fmt : Nat) (neg : Bool) (mant : Nat) (q : Int) : Nat :=
  let p := floatFmt fmt
  let (mant, q) := if mant = 2 ^ (p.f + 1) then (2 ^ p.f, q + 1) else (mant, q)
  signBit fmt neg +
    (if mant < 2 ^ p.f then mant else (q + p.bias + p.f).toNat * 2 ^ p.f + (mant - 2 ^ p.f))

/-- The overflow result of R122 and R109. -/
def overflowBits (fmt : Nat) (md : RMode) (neg : Bool) : Nat :=
  match md with
  | .rtz => maxBits fmt neg
  | .rup => if neg then maxBits fmt neg else infBits fmt neg
  | .rdn => if neg then infBits fmt neg else maxBits fmt neg
  | _ => infBits fmt neg

/-- A nonzero magnitude m × 2^e, plus something below its last bit if sticky, rounded to a floating format: pattern and flags.
Tininess is judged after rounding with the exponent taken as unbounded. Under `flush` a subnormal result becomes zero (R114).
Beyond the greatest finite value DITH acts as RNE (R110). -/
def roundFin (fmt : Nat) (md : RMode) (flush neg : Bool) (m : Nat) (e : Int) (sticky : Bool) : Nat × Nat :=
  let p := floatFmt fmt
  let top : Int := e + Nat.log2 m
  let emin : Int := 1 - (p.bias : Int) - p.f
  let q0 : Int := top - p.f
  let q := max q0 emin
  let md := match md with
    | .dith t =>
      let r := roundAt .rtz neg m e q sticky
      if tooLarge fmt r.1 q || tooLarge fmt (r.1 + 1) q then .rne else .dith t
    | md => md
  let r := roundAt md neg m e q sticky
  if tooLarge fmt r.1 q then (overflowBits fmt md neg, fOVERFLOW ||| fINEXACT)
  else
    let u := roundAt md neg m e q0 sticky
    let tiny := decide (q0 < emin) && decide (u.1 * 2 < 2 ^ (p.f + 1) * 2 ^ (emin - q0).toNat)
    let subnormal := decide (r.1 < 2 ^ p.f)
    if flush && subnormal then (signBit fmt neg, fUNDERFLOW ||| fINEXACT)
    else (packF fmt neg r.1 q,
      (if r.2 then fINEXACT else 0) ||| (if tiny && r.2 then fUNDERFLOW else 0))

/-! ## Exact results -/

/-- What an operation gives before rounding: a NaN, an infinity, or a magnitude with a sticky remainder; the flags are those the operation
raises by itself. -/
inductive FRes where
  | nan (flags : Nat)
  | inf (neg : Bool) (flags : Nat)
  | val (neg : Bool) (m : Nat) (e : Int) (sticky : Bool) (flags : Nat)
  deriving DecidableEq, Repr

/-- Round a result to a floating arithmetic format (R113, R114). -/
def finishF (fmt : Nat) (md : RMode) (flush : Bool) : FRes → Nat × Nat
  | .nan fl => (canonNaN fmt, fl)
  | .inf neg fl => (infBits fmt neg, fl)
  | .val neg m e sticky fl =>
    if m = 0 then (signBit fmt neg, fl)
    else let r := roundFin fmt md flush neg m e sticky; (r.1, r.2 ||| fl)

/-- An operand of a vector instruction: under FLUSH a subnormal of FP16, BF16, FP32 or FP64 is a zero of its sign (R114). -/
def operandF (fmt : Nat) (flush : Bool) (x : Nat) : FVal :=
  match decodeF fmt x with
  | .fin neg m e =>
    if flush && fmtFloat fmt && decide (m < 2 ^ (floatFmt fmt).f) then .fin neg 0 e else .fin neg m e
  | v => v

/-- The flags of a NaN among operands: invalid for a signalling one (R113). -/
def nanFlags (vs : List FVal) : Nat := if vs.any (fun v => v == .nan true) then fINVALID else 0

def FVal.isNaN : FVal → Bool
  | .nan _ => true
  | _ => false

/-- The exact signed sum of two finite values, as a magnitude; an exact zero is +0, or −0 under RDN, and two zeros of one sign keep it. -/
def addFin (md : RMode) (n1 : Bool) (m1 : Nat) (e1 : Int) (n2 : Bool) (m2 : Nat) (e2 : Int) (fl : Nat) : FRes :=
  let e := min e1 e2
  let x1 : Int := m1 * 2 ^ (e1 - e).toNat
  let x2 : Int := m2 * 2 ^ (e2 - e).toNat
  let x := (if n1 then -x1 else x1) + (if n2 then -x2 else x2)
  if x = 0 then
    .val (if m1 = 0 ∧ m2 = 0 ∧ n1 = n2 then n1 else decide (md = .rdn)) 0 0 false fl
  else .val (decide (x < 0)) x.natAbs e false fl

/-- a + b. -/
def addF (md : RMode) (a b : FVal) : FRes :=
  match a, b with
  | .nan _, _ => .nan (nanFlags [a, b])
  | _, .nan _ => .nan (nanFlags [a, b])
  | .inf n1, .inf n2 => if n1 = n2 then .inf n1 0 else .nan fINVALID
  | .inf n, _ => .inf n 0
  | _, .inf n => .inf n 0
  | .fin n1 m1 e1, .fin n2 m2 e2 => addFin md n1 m1 e1 n2 m2 e2 0

/-- The value with its sign changed. -/
def FVal.neg : FVal → FVal
  | .fin n m e => .fin (!n) m e
  | .inf n => .inf (!n)
  | v => v

/-- a × b. -/
def mulF (a b : FVal) : FRes :=
  match a, b with
  | .nan _, _ => .nan (nanFlags [a, b])
  | _, .nan _ => .nan (nanFlags [a, b])
  | .inf n1, .inf n2 => .inf (n1 != n2) 0
  | .inf n1, .fin n2 m _ => if m = 0 then .nan fINVALID else .inf (n1 != n2) 0
  | .fin n1 m _, .inf n2 => if m = 0 then .nan fINVALID else .inf (n1 != n2) 0
  | .fin n1 m1 e1, .fin n2 m2 e2 => .val (n1 != n2) (m1 * m2) (e1 + e2) false 0

/-- Whether a product is 0 × ∞. -/
def zeroTimesInf (a b : FVal) : Bool :=
  match a, b with
  | .inf _, .fin _ m _ => m = 0
  | .fin _ m _, .inf _ => m = 0
  | _, _ => false

/-- a × b + c in one rounding; `negP` negates the product. 0 × ∞ raises invalid whatever the addend holds (R116). -/
def fmaF (md : RMode) (negP : Bool) (a b c : FVal) : FRes :=
  if zeroTimesInf a b then .nan fINVALID
  else match mulF a b, c with
  | .nan _, _ => .nan (nanFlags [a, b, c])
  | _, .nan _ => .nan (nanFlags [a, b, c])
  | .inf n _, .inf n2 => if (n != negP) = n2 then .inf n2 0 else .nan fINVALID
  | .inf n _, _ => .inf (n != negP) 0
  | .val _ _ _ _ _, .inf n2 => .inf n2 0
  | .val n m e _ _, .fin n2 m2 e2 => addFin md (n != negP) m e n2 m2 e2 0

/-- a / b, to at least 64 bits beyond the operands' with the remainder sticky (R127). -/
def divF (a b : FVal) : FRes :=
  match a, b with
  | .nan _, _ => .nan (nanFlags [a, b])
  | _, .nan _ => .nan (nanFlags [a, b])
  | .inf _, .inf _ => .nan fINVALID
  | .inf n1, .fin n2 _ _ => .inf (n1 != n2) 0
  | .fin n1 _ _, .inf n2 => .val (n1 != n2) 0 0 false 0
  | .fin n1 m1 e1, .fin n2 m2 e2 =>
    if m2 = 0 then (if m1 = 0 then .nan fINVALID else .inf (n1 != n2) fDIVZERO)
    else if m1 = 0 then .val (n1 != n2) 0 0 false 0
    else
      let x := m1 * 2 ^ 128
      .val (n1 != n2) (x / m2) (e1 - e2 - 128) (decide (x % m2 ≠ 0)) 0

/-! ## Square roots -/

/-- The integer square root, one binary digit at a time from 2^(k−1) down. -/
def isqrtFrom (n : Nat) : (k r : Nat) → Nat
  | 0, r => r
  | k + 1, r => if (r + 2 ^ k) * (r + 2 ^ k) ≤ n then isqrtFrom n k (r + 2 ^ k) else isqrtFrom n k r

/-- ⌊√n⌋. -/
def isqrt (n : Nat) : Nat := isqrtFrom n (Nat.log2 n / 2 + 1) 0

/-- √a (R127). -/
def sqrtF (a : FVal) : FRes :=
  match a with
  | .nan _ => .nan (nanFlags [a])
  | .inf neg => if neg then .nan fINVALID else .inf false 0
  | .fin neg m e =>
    if m = 0 then .val neg 0 0 false 0
    else if neg then .nan fINVALID
    else
      let odd := e % 2 ≠ 0
      let x := (if odd then 2 * m else m) * 2 ^ 160
      let e' := (if odd then e - 1 else e) - 160
      let r := isqrt x
      .val false r (e' / 2) (decide (r * r ≠ x)) 0

/-- 1 / √a (R127). -/
def rsqrtF (a : FVal) : FRes :=
  match a with
  | .nan _ => .nan (nanFlags [a])
  | .inf neg => if neg then .nan fINVALID else .val false 0 0 false 0
  | .fin neg m e =>
    if m = 0 then .inf neg fDIVZERO
    else if neg then .nan fINVALID
    else
      let odd := e % 2 ≠ 0
      let d := if odd then 2 * m else m
      let e' := if odd then e - 1 else e
      let x := 2 ^ 320 / d
      let r := isqrt x
      .val false r (-(e' / 2) - 160) (decide (r * r * d ≠ 2 ^ 320)) 0

/-- 1 / a (R127). -/
def rcpF (a : FVal) : FRes :=
  match a with
  | .fin neg m _ => if m = 0 then .inf neg fDIVZERO else divF (.fin false 1 0) a
  | _ => divF (.fin false 1 0) a

/-! ## Minimum, maximum, comparison (R121) -/

/-- The order of two values that are not NaN, −0 below +0: a < b. -/
def ltTotal (a b : FVal) : Bool :=
  match a, b with
  | .inf n1, .inf n2 => n1 && !n2
  | .inf n, _ => n
  | _, .inf n => !n
  | .fin n1 m1 e1, .fin n2 m2 e2 =>
    if m1 = 0 ∧ m2 = 0 then n1 && !n2
    else
      let e := min e1 e2
      let x1 : Int := m1 * 2 ^ (e1 - e).toNat
      let x2 : Int := m2 * 2 ^ (e2 - e).toNat
      decide ((if n1 then -x1 else x1) < (if n2 then -x2 else x2))
  | _, _ => false

/-- Zeros compare equal. -/
def bothZero (a b : FVal) : Bool :=
  match a, b with
  | .fin _ m1 _, .fin _ m2 _ => m1 = 0 && m2 = 0
  | _, _ => false

/-- The lesser (or greater) of two floating patterns, with its flags: the other operand when one is NaN, the canonical NaN when both are. -/
def minmaxF (fmt : Nat) (flush wantMax : Bool) (x y : Nat) : Nat × Nat :=
  let a := operandF fmt flush x
  let b := operandF fmt flush y
  let fl := nanFlags [a, b]
  let pat (v : FVal) (z : Nat) : Nat := match v with | .fin n 0 _ => signBit fmt n | _ => z
  if a.isNaN && b.isNaN then (canonNaN fmt, fl)
  else if a.isNaN then (pat b y, fl)
  else if b.isNaN then (pat a x, fl)
  else if (if wantMax then ltTotal a b else ltTotal b a) then (pat b y, fl) else (pat a x, fl)

/-- Whether a REL b holds for floating values (R121): false for every relation with a NaN, except ne. -/
def relF (r : Nat) (a b : FVal) : Bool :=
  if a.isNaN || b.isNaN then r = 1
  else
    let z := bothZero a b
    let lt := !z && ltTotal a b
    let gt := !z && ltTotal b a
    match r with
    | 0 => !lt && !gt
    | 1 => lt || gt
    | 2 => lt
    | 3 => !gt
    | 4 => gt
    | _ => !lt

/-! ## Integers (R100, R119) -/

/-- The least and greatest integers of a format. -/
def intMin (fmt : Nat) : Int := if fmtSigned fmt then -(2 ^ (fmtBits fmt - 1) : Nat) else 0
def intMax (fmt : Nat) : Int := if fmtSigned fmt then (2 ^ (fmtBits fmt - 1) : Nat) - 1 else (2 ^ fmtBits fmt : Nat) - 1

/-- The pattern of an integer: wrapped, or saturated to the format's range. -/
def intBits (fmt : Nat) (sat : Bool) (x : Int) : Nat :=
  let x := if sat then max (intMin fmt) (min (intMax fmt) x) else x
  (x % (2 ^ fmtBits fmt : Nat)).toNat

/-- A finite value rounded to an integer, and whether it changed. -/
def roundInt (md : RMode) (neg : Bool) (m : Nat) (e : Int) : Int × Bool :=
  let r := roundAt md neg m e 0 false
  (if neg then -(r.1 : Int) else r.1, r.2)

/-! ## Conversion to one element (R122) -/

/-- The mode that rounds a value whose neighbour away from zero does not exist in the target: RNE in place of DITH (R110). -/
def RMode.atTop (md : RMode) (noNeighbour : Bool) : RMode :=
  match md with
  | .dith t => if noNeighbour then .rne else .dith t
  | md => md

/-- A positive value rounded to a power of two (R122's E8M0 row). -/
def toE8M0 (md : RMode) (m : Nat) (e : Int) : Nat × Nat :=
  let k := Nat.log2 m
  let E : Int := e + k
  let md := md.atTop (decide (127 ≤ E))
  let rem := m % 2 ^ k
  let odd := decide ((E + 127) % 2 ≠ 0)
  let up := roundsUp md false odd false rem k
  let E' := if up then E + 1 else E
  if 127 < E' then (0xFE, fOVERFLOW ||| fINEXACT)
  else if E' < -127 then (0, fUNDERFLOW ||| fINEXACT)
  else ((E' + 127).toNat, if rem ≠ 0 then fINEXACT else 0)

/-- A value converted to a target format other than O4. `srcInt` says that the source is an integer format, `sat` that integer
conversions saturate, `quietE8` that the source is E8M0 (R105). -/
def convertF (dst : Nat) (md : RMode) (sat flush srcInt quietE8 : Bool) (v : FVal) : Nat × Nat :=
  if isFloat dst then
    match v with
    | .nan sg =>
      if dst = 18 then (0, fINVALID) else (canonNaN dst, if sg then fINVALID else 0)
    | .inf neg => (infBits dst neg, if dst = 18 ∨ dst = 19 then fINVALID else 0)
    | .fin neg m e => finishF dst md (flush && fmtFloat dst) (.val neg m e false 0)
  else if dst = 21 then
    match v with
    | .nan _ => (0xFF, if quietE8 then 0 else fINVALID)
    | .inf neg => if neg then (0xFF, fINVALID) else (0xFE, fOVERFLOW ||| fINEXACT)
    | .fin neg m e => if m = 0 ∨ neg then (0xFF, fINVALID) else toE8M0 md m e
  else
    match v with
    | .nan _ => (0, fINVALID)
    | .inf neg => (intBits dst true (if neg then intMin dst else intMax dst), fINVALID)
    | .fin neg m e =>
      let low := (roundInt .rtz neg m e).1
      let high := if neg then low - 1 else low + 1
      let r := roundInt (md.atTop (decide (high < intMin dst) || decide (intMax dst < high))) neg m e
      if srcInt then (intBits dst sat r.1, 0)
      else if r.1 < intMin dst ∨ intMax dst < r.1 then (intBits dst true r.1, fINVALID)
      else (intBits dst false r.1, if r.2 then fINEXACT else 0)

/-- Whether a format code is an integer format (R97). -/
def isInt (c : Nat) : Bool := c ≤ 7 || c = 16 || c = 17

/-! ## O4 pairs (R106, R107) -/

/-- The value of an outlier code's low four bits seem. -/
def outlierVal (seem : Nat) : Int :=
  let mag : Int := (2 + seem % 2) * 2 ^ (seem / 2 % 4 + 2)
  if seem / 8 % 2 = 1 then -mag else mag

/-- The two values of an O4 pair. An odd code 0b1000 in an ordinary pair reads as 0. -/
def fromO4 (c0 c1 : Nat) : Int × Int :=
  if c0 % 16 = 8 then (0, outlierVal (c1 % 16))
  else (signed c0 4, if c1 % 16 = 8 then 0 else signed c1 4)

/-- The outlier magnitudes, least first; entry k has code em = k. -/
def outlierMags : List Nat := [8, 12, 16, 24, 32, 48, 64, 96]

/-- The index of the outlier magnitude that |x| = m × 2^e rounds to: below 8 rounds to 8, above 96 saturates to 96. -/
def outlierIndex (md : RMode) (neg : Bool) (m : Nat) (e : Int) : Nat :=
  let ge (v : Nat) : Bool := if 0 ≤ e then decide (v ≤ m * 2 ^ e.toNat) else decide (v * 2 ^ (-e).toNat ≤ m)
  let lo := (outlierMags.filter ge).length - 1
  if !ge 8 then 0
  else if lo = 7 then 7
  else
    let a := outlierMags.getD lo 0
    let b := outlierMags.getD (lo + 1) 0
    let k := (-e).toNat
    let x := if 0 ≤ e then m * 2 ^ e.toNat else m
    -- |x| − a over b − a, as a fraction of a power of two: b − a is one
    let rem := x - a * 2 ^ k
    let s := k + Nat.log2 (b - a)
    if roundsUp md neg (decide (lo % 2 = 1)) false rem s then lo + 1 else lo

/-- One element on its way into an O4 pair: NaN and infinities are invalid; an infinity acts as a value beyond every magnitude. -/
def o4In : FVal → FVal × Nat
  | .nan _ => (.fin false 0 0, fINVALID)
  | .inf neg => (.fin neg 1 20, fINVALID)
  | v => (v, 0)

/-- Whether an exact value equals an integer. -/
def valEq (v : FVal) (x : Int) : Bool :=
  match v with
  | .fin neg m e =>
    let y : Int := m * 2 ^ e.toNat
    let z : Int := x.natAbs * 2 ^ (-e).toNat
    decide (y = z) && (decide (m = 0) || decide (neg = decide (x < 0)))
  | _ => false

/-- Conversion of an aligned pair to O4 (R107): the two codes and the flags. Each element has its own rounding position. -/
def toO4 (r0 r1 : RMode) (x0 x1 : FVal) : Nat × Nat × Nat :=
  let (v0, f0) := o4In x0
  let (v1, f1) := o4In x1
  match v0, v1 with
  | .fin n0 m0 e0, .fin n1 m1 e1 =>
    let q1 := (roundInt r1 n1 m1 e1).1
    if q1.natAbs ≤ 7 then
      let q0 := (roundInt r0 n0 m0 e0).1
      let k0 := max (-7) (min 7 q0)
      let ovf := decide (k0 ≠ q0)
      let inx := !(valEq v0 k0 && valEq v1 q1)
      (intBits 16 false k0, intBits 16 false q1,
        f0 ||| f1 ||| (if ovf then fOVERFLOW ||| fINEXACT else if inx then fINEXACT else 0))
    else
      let k := outlierIndex r1 n1 m1 e1
      let mag := outlierMags.getD k 0
      let lost := decide (m0 ≠ 0)
      let big := if 0 ≤ e1 then decide (96 < m1 * 2 ^ e1.toNat) else decide (96 * 2 ^ (-e1).toNat < m1)
      let inx := !valEq (.fin false m1 e1) mag
      (8, b2n n1 * 8 + k,
        f0 ||| f1 ||| (if lost || big then fOVERFLOW ||| fINEXACT else if inx then fINEXACT else 0))
  | _, _ => (0, 0, f0 ||| f1)

end Sys2Proof.Machine
end

