-- ==== Sys2Proof/Machine/Special.lean ====
section
/-! DEFINITION. The special functions VEXP2, VLOG2, VSIN and VCOS, correctly rounded (R126, R127). The exact value is
bracketed between two fixed-point numbers; when both ends round alike, that is the result, and otherwise the
bracket is computed again with more bits. -/

namespace Sys2Proof.Machine

/-! ## Fixed-point series: numbers scaled by 2^P, truncated downwards. Each loop keeps within the error that `slack` allows. -/

/-- An error bound, in units of the last place, for every series below at precision P. -/
def slack (P : Nat) : Nat := 16 * P + 1024

/-- Σ y^k / k! from the k-th term on, for y below 2^P. -/
def expLoop (P y : Nat) : (fuel k term : Nat) → Nat
  | 0, _, _ => 0
  | n + 1, k, term => term + expLoop P y n (k + 1) (term * y / 2 ^ P / (k + 1))

/-- Σ z^(2k+1) / (2k+1) for z² = num2 / den2, from the term that starts with t on. -/
def atanhLoop (num2 den2 : Nat) : (fuel k t : Nat) → Nat
  | 0, _, _ => 0
  | n + 1, k, t => t / (2 * k + 1) + atanhLoop num2 den2 n (k + 1) (t * num2 / den2)

/-- 2 atanh(num / den) scaled by 2^P. -/
def twoAtanh (P num den : Nat) : Nat := 2 * atanhLoop (num * num) (den * den) P 0 (2 ^ P * num / den)

/-- ln 2 scaled by 2^P. -/
def ln2 (P : Nat) : Nat := twoAtanh P 1 3

/-- arctan(1 / n): the positive and the negative terms. -/
def atanInv (n : Nat) : (fuel k t : Nat) → Int
  | 0, _, _ => 0
  | f + 1, k, t => (if k % 2 = 0 then ((t / (2 * k + 1) : Nat) : Int) else -((t / (2 * k + 1) : Nat) : Int)) +
      atanInv n f (k + 1) (t / (n * n))

/-- π / 2 scaled by 2^P, from below and within 2 of the exact value. -/
def halfPi (P : Nat) : Nat :=
  let Q := P + 24
  let pi := 16 * atanInv 5 Q 0 (2 ^ Q / 5) - 4 * atanInv 239 Q 0 (2 ^ Q / 239)
  ((pi.toNat - 256 * Q) / 2 ^ 25)

/-- The alternating series of sine (first = r, k = 1) or cosine (first = 1, k = 0) at r. -/
def trigLoop (P r2 : Nat) : (fuel k term : Nat) → (plus : Bool) → Int
  | 0, _, _, _ => 0
  | n + 1, k, term, plus =>
    (if plus then (term : Int) else -(term : Int)) +
      trigLoop P r2 n (k + 2) (term * r2 / 2 ^ P / ((k + 1) * (k + 2))) (!plus)

/-- sin r and cos r scaled by 2^P, for r scaled by 2^P. -/
def sinFix (P r : Nat) : Nat := (trigLoop P (r * r / 2 ^ P) P 1 r true).toNat
def cosFix (P r : Nat) : Nat := (trigLoop P (r * r / 2 ^ P) P 0 (2 ^ P) true).toNat

/-! ## Brackets: the exact value lies strictly between lo × 2^e and hi × 2^e -/

structure Bracket where
  neg : Bool
  lo : Nat
  hi : Nat
  e : Int
  deriving DecidableEq, Repr

/-- A computed value with its error on both sides. -/
def around (P : Nat) (neg : Bool) (x : Nat) (e : Int) : Bracket := ⟨neg, x - slack P, x + slack P, e⟩

/-- The rounded result when both ends of a bracket agree. -/
def Bracket.decide? (b : Bracket) (fmt : Nat) (md : RMode) (flush : Bool) : Option (Nat × Nat) :=
  if b.lo = 0 then none
  else
    let x := finishF fmt md flush (.val b.neg b.lo b.e true 0)
    let y := finishF fmt md flush (.val b.neg (b.hi - 1) b.e true 0)
    if x = y then some x else none

/-- The first precision at which the bracket decides. Beyond the last one the rounding direction is left open. -/
def refine (fmt : Nat) (md : RMode) (flush : Bool) (tag : Nat) (f : Nat → Bracket) : List Nat → Nat × Nat
  | [] => (canonNaN fmt, fINEXACT)
  | [P] =>
    let b := f P
    match b.decide? fmt md flush with
    | some r => r
    | none =>
      if Config.undecided tag b.lo then finishF fmt md flush (.val b.neg b.lo b.e true 0)
      else finishF fmt md flush (.val b.neg b.hi b.e true 0)
  | P :: Ps =>
    match (f P).decide? fmt md flush with
    | some r => r
    | none => refine fmt md flush tag f Ps

/-- The precisions tried. -/
def precisions : List Nat := [192, 320, 640, 1280]

/-! ## The functions -/

/-- Whether |m × 2^e| is below 2^(−k). -/
def below (m : Nat) (e : Int) (k : Nat) : Bool := decide (e + Nat.log2 m < -(k : Int))

/-- The bracket of 2^x for x = k + F / 2^P. -/
def exp2Bracket (k : Int) (num : Nat) (sh : Nat) (P : Nat) : Bracket :=
  let F := num * 2 ^ (P - sh)
  let y := F * ln2 P / 2 ^ P
  around P false (expLoop P y P 0 (2 ^ P)) (k - P)

/-- 2^x (R126, R127). -/
def exp2F (fmt : Nat) (flush : Bool) (a : FVal) : Nat × Nat :=
  match a with
  | .nan _ => (canonNaN fmt, nanFlags [a])
  | .inf neg => if neg then (0, 0) else (infBits fmt false, 0)
  | .fin neg m e =>
    if m = 0 then finishF fmt .rne flush (.val false 1 0 false 0)
    else if 15 ≤ e + Nat.log2 m then finishF fmt .rne flush (.val false 1 (if neg then -32768 else 32768) true 0)
    else if below m e 60 then
      finishF fmt .rne flush (.val false (if neg then 2 ^ 200 - 1 else 2 ^ 200) (-200) true 0)
    else if 0 ≤ e then
      let x : Int := m * 2 ^ e.toNat
      finishF fmt .rne flush (.val false 1 (if neg then -x else x) false 0)
    else
      let sh := (-e).toNat
      let x : Int := if neg then -(m : Int) else m
      let k := x / (2 ^ sh : Nat)
      let num := (x % (2 ^ sh : Nat)).toNat
      if num = 0 then finishF fmt .rne flush (.val false 1 k false 0)
      else refine fmt .rne flush 4 (exp2Bracket k num sh) precisions

/-- The bracket of log₂ of m × 2^e, m not a power of two. -/
def log2Bracket (m : Nat) (e : Int) (P : Nat) : Bracket :=
  let k := Nat.log2 m
  let E : Int := e + k
  let num := m - 2 ^ k
  let den := m + 2 ^ k
  let ln := twoAtanh P num den
  let l2 := ln2 P
  let q := ln * 2 ^ P / l2
  let x : Int := E * (2 ^ P : Nat) + q
  { neg := decide (x < 0), lo := x.natAbs - 8 * slack P, hi := x.natAbs + 8 * slack P, e := -(P : Int) }

/-- log₂ x (R126, R127). -/
def log2F (fmt : Nat) (flush : Bool) (a : FVal) : Nat × Nat :=
  match a with
  | .nan _ => (canonNaN fmt, nanFlags [a])
  | .inf neg => if neg then (canonNaN fmt, fINVALID) else (infBits fmt false, 0)
  | .fin neg m e =>
    if m = 0 then (infBits fmt true, fDIVZERO)
    else if neg then (canonNaN fmt, fINVALID)
    else if m = 2 ^ Nat.log2 m then
      let E : Int := e + Nat.log2 m
      finishF fmt .rne flush (.val (decide (E < 0)) E.natAbs 0 false 0)
    else refine fmt .rne flush 5 (log2Bracket m e) precisions

/-- The bracket of sin (cosine when `cos`) of ±m × 2^e after reduction by multiples of π / 2. -/
def trigBracket (cos neg : Bool) (m : Nat) (e : Int) (P : Nat) : Bracket :=
  let E := (e + Nat.log2 m + 2).toNat
  let Q := P + E
  let X := if 0 ≤ e + Q then m * 2 ^ (e + Q).toNat else m / 2 ^ (-(e + Q)).toNat
  let H := halfPi Q
  let q := X / H
  let rest := X - q * H
  if rest < 2 * q + 2 then ⟨neg, 0, 1, 0⟩
  else
    let r := rest / 2 ^ E
    let quad := (q + (if cos then 1 else 0)) % 4
    let v := if quad % 2 = 0 then sinFix P r else cosFix P r
    let s := decide (2 ≤ quad) != (neg && !cos)
    { neg := s, lo := v - slack P - 8, hi := v + slack P + 8, e := -(P : Int) }

/-- sin x, or cos x (R126, R127). -/
def trigF (fmt : Nat) (flush cos : Bool) (a : FVal) : Nat × Nat :=
  match a with
  | .nan _ => (canonNaN fmt, nanFlags [a])
  | .inf _ => (canonNaN fmt, fINVALID)
  | .fin neg m e =>
    if m = 0 then (if cos then finishF fmt .rne flush (.val false 1 0 false 0) else (signBit fmt neg, 0))
    else if below m e 30 then
      if cos then finishF fmt .rne flush (.val false (2 ^ 200 - 1) (-200) true 0)
      else finishF fmt .rne flush (.val neg (m * 2 ^ 64 - 1) (e - 64) true 0)
    else refine fmt .rne flush (if cos then 7 else 6) (trigBracket cos neg m e) precisions

end Sys2Proof.Machine
end

