-- ==== Sys2Proof/Machine/Vector.lean ====
section
/-! DEFINITION. Element-wise vector instructions, majors 0x08 to 0x0B and 0x0F (R76 to R84, R112 to R122, R438 to R454). -/

namespace Sys2Proof.Machine

/-! ## What every vector instruction does -/

/-- What a vector instruction leaves: its team with the result written, its passes, the flags that its segments raised, its destination,
and how long after its final pass the destination is readable (R81). -/
structure VOut where
  team : Team
  passes : Nat
  flags : Nat
  cls : RegClass
  num : Nat
  latency : Nat := 6
  /-- FB of a special function. -/
  fb : Option Bool := none
  deriving DecidableEq, Repr

/-- The first idle datapath is occupied until a cycle (R52, R81). -/
def occupyPath (now until_ : Nat) : List Nat → List Nat
  | [] => []
  | p :: ps => if p ≤ now then until_ :: ps else p :: occupyPath now until_ ps

/-- The team after a vector instruction's issue: its final pass is awaited by STATUS (R118), its result by its readers (R81), and a special
function counts against its flag (R333). -/
def VOut.after (o : VOut) (now : Nat) : Team :=
  let last := now + o.passes - 1
  let t := { o.team with passes := ⟨last, o.flags⟩ :: o.team.passes }
  match o.fb with
  | none => { t with pend := ⟨o.cls, o.num, last + o.latency, .other, none⟩ :: t.pend }
  | some fb =>
    let f := t.flagOf fb
    { t.countUp f with pend := ⟨o.cls, o.num, last + o.latency, .special, some f⟩ :: t.pend }

/-- A vector instruction: it traps and leaves no effect, or it writes its result and occupies a datapath for its passes. -/
def onVectorM (f : Mach → Except TrapReq VOut) (m : Mach) : Mach :=
  match f m with
  | .error r => m.trap r
  | .ok o =>
    let x := m.myCore
    m.setCore m.cur.core
      ({ x with paths := occupyPath m.now (m.now + o.passes) x.paths }.setTeam m.cur.place (o.after m.now).retire)

/-- A vector instruction that reads its team alone. -/
def onVector (f : Team → Except TrapReq VOut) (m : Mach) : Mach := onVectorM (fun m => f m.team) m

/-! ## The general path (R77) -/

/-- Bits of MODE's element type. -/
def Team.width (t : Team) : Nat := fmtBits t.etype

/-- K: segments per pass (R77). -/
def segsPerPass (wide : Bool) : Nat := if wide then 16 else 32

/-- Every lane boundary, when `on`. -/
def everyLane (on : Bool) (lanes : Nat) : List (List Nat) := if on then [(List.range lanes).map (· + 1)] else []

/-- An element-wise result on the general path, and its admission. `f` gives the pattern and flags of a lane. -/
def elementWise (t : Team) (d : Nat) (em : List MRun) (ends : List (List Nat)) (k : Nat) (w : Bool)
    (f : Nat → Nat × Nat) : Except TrapReq VOut :=
  let old := t.rv d
  let n := if w then 64 else 32
  let segs := segments em ends (old.ends t.lanes)
  let on := (segs.filter Seg.on).map (fun s => (s.lo, (f s.lo).2))
  match fpTrap t.trapEn t.repStep on with
  | some r => .error r
  | none =>
    let v := canonical w (buildRuns k (fun i => BitVec.ofNat 64 (f i).1) (old.lane n) segs 0 [])
    match t.putV d v with
    | .error r => .error r
    | .ok t => .ok { team := t, passes := passCount on.length k, flags := orFlags (on.map Prod.snd), cls := .vector, num := d }

/-- A result on the affine path: one pass, no flags (R80). -/
def affine (t : Team) (d : Nat) (w : Bool) (b s : Word) : Except TrapReq VOut :=
  match t.putV d (canonicalA w b s) with
  | .error r => .error r
  | .ok t => .ok { team := t, passes := 1, flags := 0, cls := .vector, num := d }

/-- Whether em is one set run over every lane. -/
def fullMask (em : List MRun) : Bool := match em with | [r] => r.bit | _ => false

/-- Whether the element type has an affine form (R68). -/
def affineType (e : Nat) : Bool := e = 2 || e = 3 || e = 6 || e = 7

/-- An operand as the affine path sees it: base and step, with step 0 for U; none when it is G, or A at another width (R80). -/
def VReg.line (v : VReg) (wide : Bool) : Option (Bool × Word × Word) :=
  match v.shape with
  | .u x => some (false, cut (if wide then 64 else 32) (if v.w then x else cut 32 x), 0)
  | .a b s => if v.w = wide then some (true, b, s) else none
  | .g _ => none

/-! ## Binary instructions (R442) -/

/-- The binary functions. -/
inductive VBin where
  | add | sub | mul | mulh | min | max | and | or | xor | shl | shr
  deriving DecidableEq, Repr

/-- Whether a function is refused on floating types. -/
def VBin.intOnly : VBin → Bool
  | .mulh | .shl | .shr => true
  | _ => false

/-- Whether a function rounds on floating types. -/
def VBin.rounds : VBin → Bool
  | .add | .sub | .mul => true
  | _ => false

/-- Base and step of an affine result, if the operand tags have an affine row (R80). -/
def VBin.line (op : VBin) (a b : Bool × Word × Word) : Option (Word × Word) :=
  match op, a, b with
  | .add, (fa, x, s), (fb, y, r) => if fa || fb then some (x + y, s + r) else none
  | .sub, (fa, x, s), (fb, y, r) => if fa || fb then some (x - y, s - r) else none
  | .mul, (true, x, s), (false, y, _) => some (x * y, s * y)
  | .mul, (false, x, _), (true, y, r) => some (x * y, x * r)
  | _, _, _ => none

/-- VSHL of an n-bit pattern by an unsigned amount (R442). -/
def shlN (n x u : Nat) : Nat := if n ≤ u then 0 else x * 2 ^ u % 2 ^ n

/-- One lane of a binary instruction on an integer type. -/
def VBin.int (op : VBin) (e : Nat) (sat : Bool) (a b : Nat) : Nat :=
  let n := fmtBits e
  let x := intOf e a
  let y := intOf e b
  match op with
  | .add => intBits e sat (x + y)
  | .sub => intBits e sat (x - y)
  | .mul => intBits e sat (x * y)
  | .mulh => (x * y / (2 ^ n : Nat) % (2 ^ n : Nat)).toNat
  | .min => if x ≤ y then a else b
  | .max => if y ≤ x then a else b
  | .and => a &&& b
  | .or => a ||| b
  | .xor => a ^^^ b
  | .shl => shlN n a b
  | .shr => if n ≤ b then (if x < 0 then 2 ^ n - 1 else 0) else (x / (2 ^ b : Nat) % (2 ^ n : Nat)).toNat

/-- One lane of a binary instruction on a floating type: pattern and flags. -/
def VBin.float (op : VBin) (e : Nat) (md : RMode) (flush : Bool) (a b : Nat) : Nat × Nat :=
  let x := operandF e flush a
  let y := operandF e flush b
  match op with
  | .add => finishF e md flush (addF md x y)
  | .sub => finishF e md flush (addF md x y.neg)
  | .mul => finishF e md flush (mulF x y)
  | .min => minmaxF e flush false a b
  | .max => minmaxF e flush true a b
  | .and => (a &&& b, 0)
  | .or => (a ||| b, 0)
  | .xor => (a ^^^ b, 0)
  | _ => (0, 0)

/-- One lane of a binary instruction. -/
def VBin.lane (op : VBin) (t : Team) (i a b : Nat) : Nat × Nat :=
  if fmtInt t.etype then (op.int t.etype t.sat a b, 0)
  else op.float t.etype (rmodeAt t.round i) t.flush a b

/-- Whether every lane is a segment of its own: an instruction that rounds, under DITH (R112). -/
def Team.dithers (t : Team) (rounds : Bool) : Bool := rounds && t.round = 5 && !fmtInt t.etype

/-- The affine result of a binary instruction, if it takes that path (R80, R119). -/
def VBin.affine? (op : VBin) (t : Team) (a b : VReg) : Option (Word × Word) :=
  let wide := t.width = 64
  if fullMask t.em && affineType t.etype && !(t.sat && op.rounds) then
    match a.line wide, b.line wide with
    | some la, some lb =>
      match op with
      | .shl => if la.1 && !lb.1 then
          let u := lb.2.1.toNat
          some (BitVec.ofNat 64 (shlN t.width la.2.1.toNat u), BitVec.ofNat 64 (shlN t.width la.2.2.toNat u)) else none
      | _ => op.line la lb
    | _, _ => none
  else none

/-- A binary instruction on two operands. -/
def VBin.run (op : VBin) (i : Instr) (d : Nat) (a b : VReg) (regs : List Nat) (t : Team) : Except TrapReq VOut :=
  if !t.vecOk regs || (op.intOnly && !fmtInt t.etype) then reserved i
  else
    let n := t.width
    match op.affine? t a b with
    | some (x, s) => affine t d (n = 64) x s
    | none =>
      elementWise t d t.em ([a.ends t.lanes, b.ends t.lanes] ++ everyLane (t.dithers op.rounds) t.lanes)
        (segsPerPass (n = 64)) (n = 64) (fun i => op.lane t i (a.lane n i).toNat (b.lane n i).toNat)

/-- The form with a vector register B. -/
def VBin.vec (op : VBin) (i : Instr) (d a b : Reg) (s : State) : Host.Outcome State Fault Refusal :=
  word (onVector fun t => op.run i d.toNat (t.rv a.toNat) (t.rv b.toNat) [d.toNat, a.toNat, b.toNat] t) s

/-- The form with a scalar register B (R440). -/
def VBin.scl (op : VBin) (i : Instr) (d a b : Reg) (s : State) : Host.Outcome State Fault Refusal :=
  word (onVector fun t =>
    op.run i d.toNat (t.rv a.toNat) (scalarOperand (t.rs b.toNat)) [d.toNat, a.toNat] t) s

def execVadd (d a b : Reg) (s : State) := VBin.add.vec (.vadd d a b) d a b s
def execVsub (d a b : Reg) (s : State) := VBin.sub.vec (.vsub d a b) d a b s
def execVmul (d a b : Reg) (s : State) := VBin.mul.vec (.vmul d a b) d a b s
def execVmulh (d a b : Reg) (s : State) := VBin.mulh.vec (.vmulh d a b) d a b s
def execVmin (d a b : Reg) (s : State) := VBin.min.vec (.vmin d a b) d a b s
def execVmax (d a b : Reg) (s : State) := VBin.max.vec (.vmax d a b) d a b s
def execVand (d a b : Reg) (s : State) := VBin.and.vec (.vand d a b) d a b s
def execVor (d a b : Reg) (s : State) := VBin.or.vec (.vor d a b) d a b s
def execVxor (d a b : Reg) (s : State) := VBin.xor.vec (.vxor d a b) d a b s
def execVshl (d a b : Reg) (s : State) := VBin.shl.vec (.vshl d a b) d a b s
def execVshr (d a b : Reg) (s : State) := VBin.shr.vec (.vshr d a b) d a b s
def execVaddScalar (d a b : Reg) (s : State) := VBin.add.scl (.vaddScalar d a b) d a b s
def execVsubScalar (d a b : Reg) (s : State) := VBin.sub.scl (.vsubScalar d a b) d a b s
def execVmulScalar (d a b : Reg) (s : State) := VBin.mul.scl (.vmulScalar d a b) d a b s
def execVmulhScalar (d a b : Reg) (s : State) := VBin.mulh.scl (.vmulhScalar d a b) d a b s
def execVminScalar (d a b : Reg) (s : State) := VBin.min.scl (.vminScalar d a b) d a b s
def execVmaxScalar (d a b : Reg) (s : State) := VBin.max.scl (.vmaxScalar d a b) d a b s
def execVandScalar (d a b : Reg) (s : State) := VBin.and.scl (.vandScalar d a b) d a b s
def execVorScalar (d a b : Reg) (s : State) := VBin.or.scl (.vorScalar d a b) d a b s
def execVxorScalar (d a b : Reg) (s : State) := VBin.xor.scl (.vxorScalar d a b) d a b s
def execVshlScalar (d a b : Reg) (s : State) := VBin.shl.scl (.vshlScalar d a b) d a b s
def execVshrScalar (d a b : Reg) (s : State) := VBin.shr.scl (.vshrScalar d a b) d a b s

/-! ## Unary instructions (R441) -/

/-- The unary functions. -/
inductive VUn where
  | abs | neg | not | mov | clz | pop
  deriving DecidableEq, Repr

/-- A floating pattern with its sign cleared or flipped; a NaN gives the canonical NaN, and FLUSH makes a subnormal a zero. -/
def signOp (e : Nat) (flush flip : Bool) (a : Nat) : Nat × Nat :=
  let s := 2 ^ (fmtBits e - 1)
  match operandF e flush a with
  | .nan sg => (canonNaN e, if sg then fINVALID else 0)
  | v =>
    let mag := match v with | .fin _ 0 _ => 0 | _ => a % s
    (mag + (if flip && a / s = 0 then s else 0), 0)

/-- One lane of a unary instruction: pattern and flags. -/
def VUn.lane (op : VUn) (t : Team) (a : Nat) : Nat × Nat :=
  let e := t.etype
  let n := fmtBits e
  match op with
  | .not => (2 ^ n - 1 - a, 0)
  | .mov => (a, 0)
  | .clz => (clzNat n a, 0)
  | .pop => (popNat n a, 0)
  | .abs => if fmtInt e then (intBits e t.sat (intOf e a).natAbs, 0) else signOp e t.flush false a
  | .neg => if fmtInt e then (intBits e t.sat (-(intOf e a)), 0) else signOp e t.flush true a

/-- A unary instruction; VMOV alone has an affine path (R80). -/
def VUn.run (op : VUn) (i : Instr) (d : Nat) (a : VReg) (regs : List Nat) (t : Team) : Except TrapReq VOut :=
  if !t.vecOk regs || ((op = .clz || op = .pop) && !fmtInt t.etype) then reserved i
  else
    let n := t.width
    match (if op = .mov && fullMask t.em && affineType t.etype then a.line (n = 64) else none) with
    | some (true, x, s) => affine t d (n = 64) x s
    | _ => elementWise t d t.em [a.ends t.lanes] (segsPerPass (n = 64)) (n = 64)
        (fun i => op.lane t (a.lane n i).toNat)

def VUn.vec (op : VUn) (i : Instr) (d a : Reg) (s : State) : Host.Outcome State Fault Refusal :=
  word (onVector fun t => op.run i d.toNat (t.rv a.toNat) [d.toNat, a.toNat] t) s

def execVabs (d a : Reg) (s : State) := VUn.abs.vec (.vabs d a) d a s
def execVneg (d a : Reg) (s : State) := VUn.neg.vec (.vneg d a) d a s
def execVnot (d a : Reg) (s : State) := VUn.not.vec (.vnot d a) d a s
def execVmov (d a : Reg) (s : State) := VUn.mov.vec (.vmov d a) d a s
def execVclz (d a : Reg) (s : State) := VUn.clz.vec (.vclz d a) d a s
def execVpop (d a : Reg) (s : State) := VUn.pop.vec (.vpop d a) d a s
/-- VMOV of a scalar register (R441). -/
def execVmovScalar (d a : Reg) (s : State) : Host.Outcome State Fault Refusal :=
  word (onVector fun t =>
    VUn.mov.run (.vmovScalar d a) d.toNat (scalarOperand (t.rs a.toNat)) [d.toNat] t) s

/-- VIOTA (R451). -/
def execViota (d : Reg) (s : State) : Host.Outcome State Fault Refusal :=
  word (onVector fun t =>
    if !t.vecOk [d.toNat] || !fmtInt t.etype then reserved (.viota d)
    else
      let n := t.width
      if fullMask t.em && affineType t.etype then affine t d.toNat (n = 64) 0 1
      else elementWise t d.toNat t.em (everyLane true t.lanes) (segsPerPass (n = 64)) (n = 64)
        (fun i => (i % 2 ^ n, 0))) s

/-- VBCAST (R443): one pass for every 32 computed segments. -/
def execVbcast (d a b : Reg) (s : State) : Host.Outcome State Fault Refusal :=
  word (onVector fun t =>
    if !t.vecOk [d.toNat, a.toNat] then reserved (.vbcast d a b)
    else
      let n := t.width
      let x := ((t.rv a.toNat).lane n ((t.rs b.toNat).toNat % t.lanes)).toNat
      elementWise t d.toNat t.em [] 32 (n = 64) (fun _ => (x, 0))) s

/-! ## VSEL and VFMA (R454, R450) -/

/-- VSEL on two operands: its execution mask takes the guard. -/
def vselRun (i : Instr) (d : Nat) (a b : VReg) (k : Nat) (regs : List Nat) (t : Team) : Except TrapReq VOut :=
  if !t.vecOk regs then reserved i
  else
    let n := t.width
    let sel := t.rm k
    elementWise t d t.emGuard [a.ends t.lanes, b.ends t.lanes, maskEnds sel] (segsPerPass (n = 64)) (n = 64)
      (fun i => (((if maskAt sel i then a else b).lane n i).toNat, 0))

def execVsel (d a b : Reg) (k : BitVec 4) (s : State) : Host.Outcome State Fault Refusal :=
  word (onVector fun t => vselRun (.vsel d a b k) d.toNat (t.rv a.toNat) (t.rv b.toNat) k.toNat
    [d.toNat, a.toNat, b.toNat] t) s

def execVselScalar (d a b : Reg) (k : BitVec 4) (s : State) : Host.Outcome State Fault Refusal :=
  word (onVector fun t => vselRun (.vselScalar d a b k) d.toNat (t.rv a.toNat) (scalarOperand (t.rs b.toNat)) k.toNat
    [d.toNat, a.toNat] t) s

/-- One lane of VFMA (R450). -/
def fmaLane (t : Team) (p n : Bool) (i a b c : Nat) : Nat × Nat :=
  let e := t.etype
  if fmtInt e then
    let x := intOf e a * intOf e b
    let y := intOf e c
    (intBits e t.sat ((if p then -x else x) + (if n then -y else y)), 0)
  else
    let md := rmodeAt t.round i
    let z := operandF e t.flush c
    finishF e md t.flush (fmaF md p (operandF e t.flush a) (operandF e t.flush b) (if n then z.neg else z))

def execVfma (d a b c : Reg) (p n : Bool) (s : State) : Host.Outcome State Fault Refusal :=
  word (onVector fun t =>
    if !t.vecOk [d.toNat, a.toNat, b.toNat, c.toNat] then reserved (.vfma d a b c p n)
    else
      let w := t.width
      let x := t.rv a.toNat
      let y := t.rv b.toNat
      let z := t.rv c.toNat
      elementWise t d.toNat t.em
        ([x.ends t.lanes, y.ends t.lanes, z.ends t.lanes] ++ everyLane (t.dithers true) t.lanes)
        (segsPerPass (w = 64)) (w = 64)
        (fun i => fmaLane t p n i (x.lane w i).toNat (y.lane w i).toNat (z.lane w i).toNat)) s

/-! ## Special functions (R447) -/

/-- A special function over its operand registers; `lane` gives a lane's pattern and flags from the patterns of A and B. -/
def specialRun (i : Instr) (d : Nat) (a b : Nat) (regs : List Nat) (rounds : Bool) (fb : Bool)
    (lane : Team → Nat → Nat → Nat → Nat × Nat) (t : Team) : Except TrapReq VOut :=
  if !t.vecOk regs || !fmtFloat t.etype then reserved i
  else
    let n := t.width
    let x := t.rv a
    let y := t.rv b
    match elementWise t d t.em
      ([x.ends t.lanes] ++ (if regs.length = 3 then [y.ends t.lanes] else []) ++ everyLane (t.dithers rounds) t.lanes)
      (segsPerPass (n = 64)) (n = 64) (fun i => lane t i (x.lane n i).toNat (y.lane n i).toNat) with
    | .error r => .error r
    | .ok o => .ok { o with latency := 16, fb := some fb }

/-- A special function of one operand, rounded to nearest. -/
def special1 (f : Nat → Bool → FVal → Nat × Nat) (i : Instr) (d a : Reg) (fb : Bool) (s : State) :
    Host.Outcome State Fault Refusal :=
  word (onVector (specialRun i d.toNat a.toNat a.toNat [d.toNat, a.toNat] false fb
    (fun t _ x _ => f t.etype t.flush (operandF t.etype t.flush x)))) s

def execVrcp (d a : Reg) (f : Bool) (s : State) :=
  special1 (fun e fl x => finishF e .rne fl (rcpF x)) (.vrcp d a f) d a f s
def execVrsq (d a : Reg) (f : Bool) (s : State) :=
  special1 (fun e fl x => finishF e .rne fl (rsqrtF x)) (.vrsq d a f) d a f s
def execVexp2 (d a : Reg) (f : Bool) (s : State) := special1 exp2F (.vexp2 d a f) d a f s
def execVlog2 (d a : Reg) (f : Bool) (s : State) := special1 log2F (.vlog2 d a f) d a f s
def execVsin (d a : Reg) (f : Bool) (s : State) :=
  special1 (fun e fl x => trigF e fl false x) (.vsin d a f) d a f s
def execVcos (d a : Reg) (f : Bool) (s : State) :=
  special1 (fun e fl x => trigF e fl true x) (.vcos d a f) d a f s
/-- VSQRT rounds under MODE.ROUND (R447). -/
def execVsqrt (d a : Reg) (f : Bool) (s : State) : Host.Outcome State Fault Refusal :=
  word (onVector (specialRun (.vsqrt d a f) d.toNat a.toNat a.toNat [d.toNat, a.toNat] true f
    (fun t i x _ => finishF t.etype (rmodeAt t.round i) t.flush (sqrtF (operandF t.etype t.flush x))))) s
/-- VDIV rounds under MODE.ROUND (R447). -/
def execVdiv (d a b : Reg) (f : Bool) (s : State) : Host.Outcome State Fault Refusal :=
  word (onVector (specialRun (.vdiv d a b f) d.toNat a.toNat b.toNat [d.toNat, a.toNat, b.toNat] true f
    (fun t i x y => finishF t.etype (rmodeAt t.round i) t.flush
      (divF (operandF t.etype t.flush x) (operandF t.etype t.flush y))))) s

/-! ## VCVT (R448, R449) -/

/-- The value that lane i of a source register stands for in a source format; an O4 code is read with its partner. -/
def cvtValue (src : Nat) (flush : Bool) (x : VReg) (i : Nat) : FVal :=
  let n := if fmtBits src = 64 then 64 else 32
  let pat (j : Nat) : Nat := (x.lane n j).toNat % 2 ^ fmtBits src
  if src = 17 then
    let p := fromO4 (pat (i / 2 * 2)) (pat (i / 2 * 2 + 1))
    .ofInt (if i % 2 = 0 then p.1 else p.2)
  else operandF src flush (pat i)

/-- One lane of VCVT: pattern and flags. The flags of an O4 pair go to its odd lane's segment, or to the even one's when the odd lane is
outside em. -/
def cvtLane (t : Team) (src dst : Nat) (x : VReg) (i : Nat) : Nat × Nat :=
  let val := cvtValue src t.flush x
  if src = dst then ((x.lane (if fmtBits src = 64 then 64 else 32) i).toNat % 2 ^ fmtBits src, 0)
  else if dst = 17 then
    let e := i / 2 * 2
    let (c0, c1, fl) := toO4 (rmodeAt t.round e) (rmodeAt t.round (e + 1)) (val e) (val (e + 1))
    if i % 2 = 1 then (c1, fl) else (c0, if maskAt t.em (i + 1) then 0 else fl)
  else convertF dst (rmodeAt t.round i) t.sat t.flush (isInt src) (src = 21) (val i)

/-- VCVT (R448). -/
def execVcvt (d a : Reg) (t' s' : BitVec 5) (s : State) : Host.Outcome State Fault Refusal :=
  word (onVector fun t =>
    let src := s'.toNat
    let dst := t'.toNat
    if !t.vecOk [d.toNat, a.toNat] || fmtBits src = 0 || fmtBits dst = 0 then reserved (.vcvt d a t' s')
    else
      let x := t.rv a.toNat
      elementWise t d.toNat t.em
        ([x.ends t.lanes] ++ everyLane (src = 17 || dst = 17 || t.round = 5) t.lanes)
        (segsPerPass (fmtBits src = 64 || fmtBits dst = 64)) (fmtBits dst = 64) (cvtLane t src dst x)) s

/-! ## VCMP (R446) -/

/-- A mask destination, admitted; K is 32 (R84). -/
def maskOut (t : Team) (d : Nat) (rs : List MRun) (segs flags : Nat) : Except TrapReq VOut :=
  match t.putM d rs with
  | .error r => .error r
  | .ok t => .ok { team := t, passes := passCount segs 32, flags := flags, cls := .mask, num := d }

/-- One lane of VCMP: the relation and the flags. -/
def cmpLane (t : Team) (r a b : Nat) : Bool × Nat :=
  let e := t.etype
  if fmtInt e then
    let x := intOf e a
    let y := intOf e b
    (match r with
      | 0 => decide (x = y) | 1 => decide (x ≠ y) | 2 => decide (x < y) | 3 => decide (x ≤ y)
      | 4 => decide (y < x) | _ => decide (y ≤ x), 0)
  else
    let x := operandF e t.flush a
    let y := operandF e t.flush b
    (relF r x y, nanFlags [x, y])

/-- VCMP; REL 6 and 7 are unassigned. -/
def execVcmp (d a b : Reg) (sc : Bool) (r : BitVec 3) (s : State) : Host.Outcome State Fault Refusal :=
  word (onVector fun t =>
    let i : Instr := .vcmp d a b sc r
    if 6 ≤ r.toNat then illegal i
    else if 16 ≤ d.toNat || !t.vecOk ([a.toNat] ++ if sc then [] else [b.toNat]) then reserved i
    else
      let n := t.width
      let x := t.rv a.toNat
      let y := if sc then scalarOperand (t.rs b.toNat) else t.rv b.toNat
      let f (i : Nat) := cmpLane t r.toNat (x.lane n i).toNat (y.lane n i).toNat
      let old := t.rm d.toNat
      let segs := segments t.em [x.ends t.lanes, y.ends t.lanes] (maskEnds old)
      let on := (segs.filter Seg.on).map (fun g => (g.lo, (f g.lo).2))
      match fpTrap t.trapEn t.repStep on with
      | some q => .error q
      | none => maskOut t d.toNat (buildMask (fun i => (f i).1) (maskAt old) segs) on.length (orFlags (on.map Prod.snd))) s

end Sys2Proof.Machine
end

