-- ==== Sys2Proof/Machine/Local.lean ====
section
/-! DEFINITION. Local memory: the checks of a local access, loads, stores and the store queue, SPACE, CAST and FENCE
(majors 0x10 to 0x13 and 0x15; R129 to R147, R207 to R211, R250, R364 to R366, R383, R404 to R407, R430). -/

namespace Sys2Proof.Machine

/-! ## Checks (R136, R146, R250) -/

/-- Group-relative offset of a window offset that has passed its bounds check. -/
def Reach.rel (r : Reach) (off : Int) : Nat := r.base + off.toNat

/-- The entries that an access of this cycle is tested against: the table as it stood before the cycle, so far as entries are added (R147,
R375); what has been freed is free at once. -/
def Core.seenLocks (x : Core) (now : Nat) : Tab Lock := x.locks.filter (fun _ l => decide (l.from_ ≤ now))

/-- The first entry of a range-lock table that an access to [lo, lo + n) of a group hits (R146). An entry of an empty range locks no byte. -/
def lockHit (locks : Tab Lock) (tile : Bool) (group lo n : Nat) (write : Bool) : Option (Nat × Lock) :=
  List.find? (fun p : Nat × Lock => p.2.tile = tile && p.2.group = group && decide (lo < p.2.stop) && decide (p.2.start < lo + n) &&
    decide (p.2.start < p.2.stop) && (write || p.2.rw)) locks

/-- TRAPINFO of RANGE_LOCK (R146). -/
def lockInfo (e : Nat × Lock) (lo : Nat) (write : Bool) : Word :=
  wordOf [(52, e.1), (51, b2n e.2.tile), (50, b2n write), (48, e.2.queue), (42, e.2.slot), (0, max lo e.2.start)]

/-- The index of the live TCB whose word 0 an access to group-relative bytes [lo, lo + n) touches (R250). -/
def tcbHit (g : Group) (lo n : Nat) : Option Nat :=
  let i := lo / 64
  let j := (lo + n - 1) / 64
  if g.live.contains i && decide (lo < 64 * i + 8) then some i
  else if i ≠ j && g.live.contains j && decide (64 * j < lo + n) then some j else none

/-- The first lane offset that fails a check. -/
def firstBad (offs : List Int) (bad : Int → Option TrapReq) : Option TrapReq :=
  match offs with
  | [] => none
  | o :: os => match bad o with | some r => some r | none => firstBad os bad

/-- The checks of R136 from MISALIGNED onward, over the lanes' offsets in lane order. -/
def Mach.checkLocal (m : Mach) (r : Reach) (offs : List Int) (n : Nat) (write : Bool) : Except TrapReq Unit :=
  let x := m.core r.core
  let g := x.group r.group
  match firstBad offs (fun o => if o % (n : Int) ≠ 0 then some ⟨cMISALIGNED, wordOfInt o⟩ else none) with
  | some t => .error t
  | none =>
  match firstBad offs (fun o => if o < 0 ∨ (r.limit : Int) < o + n then
      some ⟨if r.tile then cTILE_BOUNDS else cSCRATCH_BOUNDS, wordOfInt o⟩ else none) with
  | some t => .error t
  | none =>
  match firstBad offs (fun o => (lockHit (x.seenLocks m.now) r.tile r.group (r.rel o) n write).map
      (fun e => ⟨cRANGE_LOCK, lockInfo e (r.rel o) write⟩)) with
  | some t => .error t
  | none =>
  match firstBad offs (fun o => if write && !r.tile then (tcbHit g (r.rel o) n).map
      (fun i => ⟨cTASK_FAULT, taskInfo (tcbState (x.tcb0 g i)) i 7⟩) else none) with
  | some t => .error t
  | none => .ok ()

/-! ## Reaching a partition's bytes -/

/-- Physical offset of a window offset in its core's memory. -/
def Mach.phys (m : Mach) (r : Reach) (off : Int) : Nat :=
  let g := m.groupAt r.core r.group
  (if r.tile then g.tileBase else g.spBase) + r.rel off

/-- A core's scratchpad or tile store. -/
def Core.bytes (x : Core) (tile : Bool) : Mem := if tile then x.tile else x.scratch

/-- Whether bytes from an offset of a tile store lie in a bank under test, whose accesses wait (R141, R322). -/
def Core.testing (x : Core) (off n : Nat) : Bool :=
  !x.tileTests.isEmpty && (List.range (min 32 ((off + n + 7) / 8 - off / 8))).any (fun k => x.tileTests.contains ((off / 8 + k) % 32))

/-- What thread accesses still see of a word, with the bytes of a thread's store put in. -/
def Veil.put (v : Veil) (ps : List (Nat × Byte)) : Veil :=
  { v with old := ps.foldl (fun (w : Word) p => if v.off ≤ p.1 ∧ p.1 < v.off + 8 then setBits w (8 * (p.1 - v.off) + 7) (8 * (p.1 - v.off)) p.2.toNat else w) v.old }

/-- A core's memory with bytes written (R142). -/
def Core.store (x : Core) (tile : Bool) (ps : List (Nat × Byte)) : Core :=
  let ws := distinct (ps.map (fun p => p.1 / 8))
  let part (w : Nat) : Bool := (List.range 8).any (fun k => !ps.any (fun p => p.1 = 8 * w + k))
  (if tile then { x with tile := x.tile.writePairs ps }
   else { x with scratch := x.scratch.writePairs ps }).rewrite tile ws part

/-- A byte as the team sees it: the newest of its own queued stores that writes it, else the memory (R207). -/
def Mach.peek (m : Mach) (t : Team) (core : Nat) (tile : Bool) (a : Nat) : Byte :=
  (t.flight ++ t.storeQ).foldl (fun b q => if q.core = core ∧ q.tile = tile then
    (match (q.bytes.reverse.find? (fun p => p.1 = a)) with | some p => p.2 | none => b) else b)
    (if tile then (m.core core).tile.read a else (m.core core).seenByte m.now a)

/-- An n-byte number as the team sees it. -/
def Mach.peekN (m : Mach) (t : Team) (core : Nat) (tile : Bool) (a n : Nat) : Nat :=
  leNat ((List.range n).map (fun k => m.peek t core tile (a + k)))

/-! ## Errors (R141 to R143) -/

/-- A read of physical offsets notes the double-bit errors it meets; `seen` is the machine as the read found it. -/
def Mach.noteErrors (m seen : Mach) (core : Nat) (tile : Bool) (phys : List Nat) : Mach :=
  m.setCore core ((m.core core).noteErrors (seen.core core) tile (phys.map (· / 8)))

/-! ## Bank cycles (R137 to R141) -/

/-- A bank's bit in a set of busy banks; banks 32 to 35 hold parity. -/
def bankBit (b : Nat) : Nat := 2 ^ b

/-- The banks of a rebuild: all of the set but the word's own, and the parity bank. -/
def rebuildBanks (b : Nat) : Nat :=
  let s := b / 8
  (255 * 2 ^ (8 * s) + bankBit (32 + s)) - bankBit b

/-- Whether a set of banks is free of another. -/
def apart (a b : Nat) : Bool := a &&& b = 0

/-- One cycle of reads in order: the words left over, and the banks taken. In the scratchpad a read to a busy or failed bank is rebuilt, if the
rest of its set and the parity bank are free (R140, R143); the tile store makes no rebuild (R141). -/
def readCycle (tile : Bool) (failed : Nat) : List Nat → BankUse → List Nat × BankUse
  | [], u => ([], u)
  | w :: ws, u =>
    let b := bankBit (w % 32)
    let r := rebuildBanks (w % 32)
    if tile then
      if apart u.tile b then readCycle tile failed ws { u with tile := u.tile ||| b }
      else let q := readCycle tile failed ws u; (w :: q.1, q.2)
    else if apart u.banks b && apart failed b then readCycle tile failed ws { u with banks := u.banks ||| b }
    else if apart u.banks r && apart failed r then readCycle tile failed ws { u with banks := u.banks ||| r }
    else let q := readCycle tile failed ws u; (w :: q.1, q.2)

/-- The banks that reads take, cycle by cycle, beside those that `busy` names as taken already in this cycle and the next ones. -/
def readPlan (tile : Bool) (failed : Nat) : (fuel : Nat) → (busy : List BankUse) → List Nat → List BankUse
  | 0, _, _ => []
  | _, _, [] => []
  | n + 1, busy, ws =>
    let q := readCycle tile failed ws (busy.headD BankUse.idle)
    q.2 :: readPlan tile failed n busy.tail q.1

/-- The banks taken by either of two. -/
def BankUse.both (a b : BankUse) : BankUse :=
  { banks := a.banks ||| b.banks, rows := List.foldl (fun (t : Tab Nat) p => t.set p.1 p.2) a.rows b.rows, tile := a.tile ||| b.tile }

/-- Those of two plans, cycle by cycle. -/
def bothPlans : List BankUse → List BankUse → List BankUse
  | [], bs => bs
  | as, [] => as
  | a :: as, b :: bs => a.both b :: bothPlans as bs

/-- The banks that an access from another core finds taken, in this cycle and the ones to come: by the core's own instruction and its leaving stores,
and by the accesses of other cores that came first (R140). -/
def Core.busy (x : Core) : List BankUse := bothPlans (x.use :: x.plan) x.guests

/-- One cycle of writes in order: a write takes its bank and, in the scratchpad, its set's parity bank for one row (R140); a block is served
at 256 bytes per cycle whatever rows it crosses (R137). A failed bank is not written (R143). -/
def writeCycle (tile block : Bool) (failed : Nat) : List Nat → BankUse → List Nat × BankUse
  | [], u => ([], u)
  | w :: ws, u =>
    let b := bankBit (w % 32)
    let s := w % 32 / 8
    let row := w / 32
    let p := bankBit (32 + s)
    if tile then
      if apart u.tile b then writeCycle tile block failed ws { u with tile := u.tile ||| b }
      else let q := writeCycle tile block failed ws u; (w :: q.1, q.2)
    else
      let data := apart u.banks b || !apart failed b
      let parity := apart u.banks p || !apart failed p || u.rows.get (row + 1) s = row || (block && u.rows.has s)
      if data && parity then
        let taken := (if apart failed b then b else 0) ||| (if apart failed p then p else 0)
        writeCycle tile block failed ws { u with banks := u.banks ||| taken, rows := u.rows.set s row }
      else let q := writeCycle tile block failed ws u; (w :: q.1, q.2)

/-- Whether an address is one contiguous block (R137): tag A with the access size as step, under an em of one set run. -/
def isBlock (b : Option VReg) (em : List MRun) (n : Nat) : Bool :=
  match b with
  | some v => (match v.shape with | .a _ s => s.toNat = n | _ => false) && (em.filter MRun.bit).length = 1
  | none => false

/-- Failed banks as a set. -/
def failedSet (x : Core) : Nat := ((x.failedBanks ++ x.testBanks).map bankBit).foldl (· ||| ·) 0

/-- The words that an access to physical offsets takes to its banks; a block of them counts 256 bytes for a cycle (R137). MODEL'S CHOICE: lanes of
one store that write the same word take one bank write together, of which R137 speaks for loads alone (log entry 139). -/
def accessWords (block : Bool) (offs : List Nat) (n : Nat) : List Nat :=
  let ws := distinct (offs.map (· / 8))
  if block then ws.take (32 * ((offs.length * n + 255) / 256)) else ws

/-- The banks that a read of physical offsets takes, cycle by cycle; at least one cycle. -/
def Core.readBanks (x : Core) (tile block : Bool) (busy : List BankUse) (offs : List Nat) (n : Nat) : List BankUse :=
  let ws := accessWords block offs n
  match readPlan tile (failedSet x) (ws.length + busy.length) busy ws with
  | [] => [BankUse.idle]
  | us => us

/-! ## Loads (R405, R406) -/

/-- Cycles from issue to readable data, before what the bank cycles add (R138, R407). -/
def Reach.latency (r : Reach) : Nat := if r.cluster then 48 else if r.tile then 32 else 24

/-- Cycles from issue to a load's data: one more for each bank cycle beyond the first, and through the cluster window for each bank cycle at
the target (R138). -/
def Reach.loadTime (r : Reach) (bank : Nat) : Nat := r.latency + bank - (if r.cluster then 0 else 1)

/-- The offsets of the lanes of em (R405): the base, and each lane's signed 32-bit offset when there is a vector of them. -/
def laneOffs (base : Int) (b : Option VReg) (lanes : List Nat) : List Int :=
  lanes.map (fun i => base + match b with | some v => signed (v.lane 32 i).toNat 32 | none => 0)

/-- Bytes of an SZ code. -/
def sizeOf (z : BitVec 2) : Nat := 2 ^ z.toNat

/-- A vector register with the lanes in `vals` loaded (R405): inactive lanes keep their pattern at the new width, equal neighbours merge. -/
def loadedReg (old : VReg) (lanes : Nat) (w : Bool) (em : List MRun) (val : Nat → Nat) : VReg :=
  let n := if w then 64 else 32
  canonical w (mergeRuns ((List.range lanes).map (fun i =>
    ⟨if maskAt em i then BitVec.ofNat 64 (val i) else old.lane n i, i + 1⟩)))

/-- The team's bookkeeping of a load: its result is awaited, counts against its flag, and no word issues before its bank phase ends
(R138, R333). -/
def Team.awaitLoad (t : Team) (cls : RegClass) (d : Nat) (f now due bank : Nat) : Team :=
  { t.countUp f with pend := ⟨cls, d, due, .load, some f⟩ :: t.pend, nextIssue := now + bank }

/-- The banks that an access finds taken before it: an instruction of the core itself comes first (R140). -/
def Core.busyFor (x : Core) (r : Reach) : List BankUse := if r.cluster then x.busy else []

/-- The local memory unit of the issuing core taken, and its banks, until the bank phase ends; a cluster-window access takes no unit, and the
banks that the target's own accesses leave free (R140). -/
def Core.takeUnit (x : Core) (r : Reach) (now : Nat) (us : List BankUse) : Core :=
  if r.cluster then { x with guests := bothPlans x.guests us }
  else { x with localFree := now + us.length, use := us.headD BankUse.idle, plan := us.drop 1 }

/-- A load of n bytes per lane through a partition already checked for its window: the machine with the words read written back, and
the team after it. -/
def Mach.load (m : Mach) (r : Reach) (base : Int) (d : Nat) (b : Option VReg) (n : Nat) (scalar fb : Bool) :
    Except TrapReq (Mach × Team) :=
  let t := m.team
  let em := if scalar then maskAll true 1 else t.em
  let lanes := maskLanes em t.lanes
  let lanes := if scalar then [0] else lanes
  let offs := laneOffs base b lanes
  match m.checkLocal r offs n false with
  | .error e => .error e
  | .ok () =>
    let x := m.core r.core
    let phys := offs.map (m.phys r)
    let val (i : Nat) : Nat := m.peekN t r.core r.tile (m.phys r (laneOffs base b [i] |>.headD 0)) n
    let f := t.flagOf fb
    let banks := x.readBanks r.tile (isBlock b em n) (x.busyFor r) phys n
    let due := m.now + r.loadTime banks.length
    match (if scalar then .ok (t.ws d (BitVec.ofNat 64 (val 0)))
      else t.putV d (loadedReg (t.rv d) t.lanes (n = 8) em val)) with
    | .error e => .error e
    | .ok t' =>
      match offs.find? (fun o => x.uncorrectable r.tile (m.phys r o / 8)) with
      | some o => .error ⟨cECC, eccInfo r.tile (r.rel o)⟩
      | none =>
        let x := phys.foldl (fun x a => x.scrubWord r.tile (a / 8)) x
        .ok ((m.setCore r.core (x.takeUnit r m.now banks)).noteErrors m r.core r.tile phys,
          t'.awaitLoad (if scalar then .scalar else .vector) d f m.now due banks.length)

/-- A trap of an access that has read these lanes: an uncorrectable read also reports the errors it met. -/
def Mach.trapRead (m : Mach) (e : TrapReq) (r : Reach) (offs : List Int) : Mach :=
  (if e.cause = cECC then m.noteErrors m r.core r.tile (offs.map (m.phys r)) else m).trap e

/-! ## Stores (R137, R207, R405, R406) -/

/-- A store of the lanes of em, entered into the team's store queue. -/
def Mach.enterStore (m : Mach) (r : Reach) (offs : List Int) (n : Nat) (vals : List Nat) (block : Bool) : Team :=
  let t := m.team
  let phys := offs.map (m.phys r)
  let bytes := (phys.zip vals).flatMap (fun p => (leBytes p.2 n).zipIdx.map (fun q => (p.1 + q.2, q.1)))
  { t with storeQ := t.storeQ ++ [⟨r.core, r.tile, r.cluster, bytes, m.now, m.now, accessWords block phys n, block⟩] }

/-- A store of n bytes per lane; nothing happens under an empty em (R406). -/
def Mach.storeTo (m : Mach) (r : Reach) (base : Int) (d : Nat) (b : Option VReg) (n : Nat) (scalar : Bool) :
    Except TrapReq Team :=
  let t := m.team
  let em := t.emGuard
  if !maskAny em then .ok t
  else
    let lanes := if scalar then [0] else maskLanes em t.lanes
    let offs := laneOffs base b lanes
    match m.checkLocal r offs n true with
    | .error e => .error e
    | .ok () =>
      let vals := if scalar then [(t.rs d).toNat] else lanes.map (fun i => ((t.rv d).lane (if n = 8 then 64 else 32) i).toNat)
      .ok (m.enterStore r offs n vals (isBlock b em n))

/-! ## The four majors (R407) -/

/-- Which major. -/
inductive LocalKind where
  | scratch | tile | cluster | pointer
  deriving DecidableEq, Repr

/-- The partition that an access reaches and the base that sA gives, after the major's window checks. -/
def Mach.reachOf (m : Mach) (k : LocalKind) (a : Word) : Except TrapReq (Reach × Int) :=
  match k with
  | .scratch => .ok (m.reachSp, a.toInt)
  | .tile => .ok (m.reachTile, a.toInt)
  | .cluster => (m.reachCluster (bits a 50 48)).map (fun r => (r, (bits a 18 0 : Nat)))
  | .pointer => (m.reachPtr a).map (fun r => (r, (ptrOff a : Nat)))

/-- Fields that are refused: SC with VO, and vector registers at or above the declared count. -/
def localRefused (t : Team) (d b : Reg) (v c : Bool) : Bool :=
  (c && v) || !t.vecOk ((if c then [] else [d.toNat]) ++ (if v then [b.toNat] else []))

/-- A load of a major. -/
def loadRun (k : LocalKind) (i : Instr) (d a b : Reg) (z : BitVec 2) (v c f : Bool) (m : Mach) : Mach :=
  let t := m.team
  if localRefused t d b v c then m.trap ⟨cRESERVED, infoWord ((encode i).getD 0)⟩
  else
    match m.reachOf k (t.rs a.toNat) with
    | .error r => m.trap r
    | .ok (r, base) =>
      let off := base + t.localOff v b
      let vb := if v then some (t.rv b.toNat) else none
      match m.load r off d.toNat vb (sizeOf z) c f with
      | .error e => m.trapRead e r (laneOffs off vb (if c then [0] else maskLanes t.em t.lanes))
      | .ok (m', t') => m'.setTeam t'.retire

/-- A store of a major. -/
def storeRun (k : LocalKind) (i : Instr) (d a b : Reg) (z : BitVec 2) (v c : Bool) (m : Mach) : Mach :=
  let t := m.team
  if localRefused t d b v c then m.trap ⟨cRESERVED, infoWord ((encode i).getD 0)⟩
  else
    match m.reachOf k (t.rs a.toNat) with
    | .error r => m.trap r
    | .ok (r, base) =>
      match m.storeTo r (base + t.localOff v b) d.toNat (if v then some (t.rv b.toNat) else none) (sizeOf z) c with
      | .error r => m.trap r
      | .ok t' => m.setTeam t'.retire

def execLds (d a b : Reg) (z : BitVec 2) (v c f : Bool) (s : State) := word (loadRun .scratch (.lds d a b z v c f) d a b z v c f) s
def execLdt (d a b : Reg) (z : BitVec 2) (v c f : Bool) (s : State) := word (loadRun .tile (.ldt d a b z v c f) d a b z v c f) s
def execLdc (d a b : Reg) (z : BitVec 2) (v c f : Bool) (s : State) := word (loadRun .cluster (.ldc d a b z v c f) d a b z v c f) s
def execLd (d a b : Reg) (z : BitVec 2) (v c f : Bool) (s : State) := word (loadRun .pointer (.ld d a b z v c f) d a b z v c f) s
def execSts (d a b : Reg) (z : BitVec 2) (v c : Bool) (s : State) := word (storeRun .scratch (.sts d a b z v c) d a b z v c) s
def execStt (d a b : Reg) (z : BitVec 2) (v c : Bool) (s : State) := word (storeRun .tile (.stt d a b z v c) d a b z v c) s
def execStc (d a b : Reg) (z : BitVec 2) (v c : Bool) (s : State) := word (storeRun .cluster (.stc d a b z v c) d a b z v c) s
def execSt (d a b : Reg) (z : BitVec 2) (v c : Bool) (s : State) := word (storeRun .pointer (.st d a b z v c) d a b z v c) s

/-! ## SPACE, CAST, FENCE -/

/-- SPACE (R133, R430). -/
def execSpace (d a : Reg) (s : State) : Host.Outcome State Fault Refusal :=
  word (onTeam fun t => .ok (t.ws d.toNat (BitVec.ofNat 64 (spaceOf (t.rs a.toNat))))) s

/-- CAST (R134, R383). -/
def execCast (d a : Reg) (w : BitVec 4) (s : State) : Host.Outcome State Fault Refusal :=
  word (fun m => onTeam (fun t =>
    if !([0x0, 0x8, 0x9, 0xA, 0xB].contains w.toNat) then reserved (.cast d a w)
    else .ok (t.ws d.toNat (castPtr (m.group.privBase t.tid) m.group.privSize m.cur.core w.toNat (t.rs a.toNat)))) m) s

/-- Whether a FENCE's condition holds (R210): scopes 0 and 1 ask nothing; `ar` waits for the store queue; from CLUSTER on, `rel` and `ar`
wait for every cluster-window store. -/
def Team.fenceDone (t : Team) (kind scope : Nat) : Bool :=
  if scope ≤ 1 ∨ kind = 1 then true
  else
    let cluster := !(t.storeQ.any QueuedStore.cluster) && t.flight.isEmpty
    if kind = 2 then decide (scope < 4) || cluster
    else t.storeQ.isEmpty && (decide (scope < 4) || cluster)

/-- FENCE (R210): when it completes, nothing is left to do. -/
def execFence (k : BitVec 2) (sc : BitVec 4) (s : State) : Host.Outcome State Fault Refusal :=
  word (onTeam fun t => if k = 0 ∨ 10 ≤ sc.toNat then illegal (.fence k sc) else .ok t) s

/-! ## The store queue's events (R207, R208) -/

/-- The parked teams of a core whose barrier phase its word now reaches are noted: they continue, whatever else the cycle brings (R378). -/
def Core.noteReached (x : Core) (base n : Nat) : Core :=
  let sees (t : Team) : Bool := match t.phase with
    | .parked (.bwait off v) =>
      let a := (x.group t.group).spBase + off
      decide (a < base + n) && decide (base < a + 8) && reached (x.scratch.readD a) v
    | _ => false
  { x with met := x.met ++ (x.teams.filter (fun _ t => sees t)).keys }

/-- The word noted for every word that some bytes of the scratchpad touch. -/
def Core.noteWords (x : Core) (tile : Bool) (bytes : List (Nat × Byte)) : Core :=
  if tile then x else (distinct (bytes.map (fun b => b.1 / 8))).foldl (fun (x : Core) w => x.noteReached (8 * w) 8) x

/-- Bytes that a thread writes reach a core's memory, and what thread accesses see of it. -/
def Core.threadStore (x : Core) (tile : Bool) (ps : List (Nat × Byte)) : Core :=
  { x.store tile ps with veil := if tile then x.veil else x.veil.map (fun v => v.put ps) }

/-- A store performed: its bytes reach its memory (R207). -/
def Mach.performStore (m : Mach) (q : QueuedStore) : Mach :=
  m.setCore q.core (((m.core q.core).threadStore q.tile q.bytes).noteWords q.tile q.bytes)

/-- The next store behind one that has left starts its bank phase no earlier than the cycle after. -/
def restartQueue (now : Nat) : List QueuedStore → List QueuedStore
  | [] => []
  | q :: qs => { q with entered := max q.entered now } :: qs

/-- One cycle of a store's bank phase, beside the banks that are taken (R140, R141): the words left over and the banks taken then. A tile-store
bank under test serves nothing (R322). -/
def Core.serveStore (x : Core) (q : QueuedStore) (taken : BankUse) : List Nat × BankUse :=
  let u := if q.tile then { taken with tile := x.tileTests.foldl (fun a b => a ||| bankBit b) taken.tile } else taken
  writeCycle q.tile q.block (failedSet x) q.left u

/-- STORE_PERFORM: the head of a team's store queue has its bank phase, or goes on with it, and is performed in the cycle in which that ends; a
cluster-window store leaves for its target. -/
def storePerform (c p : Nat) (m : Mach) : Option Mach :=
  match (m.core c).teams.find? p with
  | none => none
  | some t =>
    match t.storeQ with
    | [] => none
    | q :: qs =>
      if m.now ≤ q.entered then none
      else if q.cluster then some (m.setTeamAt c p { t with storeQ := restartQueue m.now qs, flight := t.flight ++ [q] })
      else
        let x := m.core c
        let r := x.serveStore q x.use
        let x := { x with use := r.2 }
        if r.1.isEmpty then
          let m := (m.setCore c x).performStore q
          some (m.setTeamAt c p { m.teamAt c p with storeQ := restartQueue m.now qs })
        else some (m.setCore c (x.setTeam p { t with storeQ := { q with left := r.1, entered := m.now } :: qs }))

def execStorePerform (c p : Nat) (s : State) := happen (fun s => (storePerform c p s.m).map (fun m => { s with m := m })) s

/-- The first item of a list that satisfies p, and the list without it. -/
def takeFirst {α : Type} (p : α → Bool) : List α → Option (α × List α)
  | [] => none
  | x :: xs => if p x then some (x, xs) else (takeFirst p xs).map (fun r => (r.1, x :: r.2))

/-- The targets of the stores in flight, each once. -/
def Team.targets (t : Team) : List Nat := distinct (t.flight.map QueuedStore.core)

/-- The store in flight that is performed next: the oldest to one of the targets, and which target comes first is open (R208). -/
def Team.nextFlight (t : Team) (free : Nat) : Option (QueuedStore × List QueuedStore) :=
  let core := match t.targets with
    | [k] => k
    | ks => ks.getD (Config.nextTarget free % ks.length) 0
  takeFirst (fun q : QueuedStore => q.core = core) t.flight

/-- CLUSTER_STORE_ACK: a store in flight has a cycle of its bank phase at its target, among the banks that the target's own accesses leave free, and
in the last of them it is performed there and acknowledged (R140, R208). Each target is reached in program order. -/
def clusterStoreAck (c p : Nat) (s : State) : Option State :=
  match (s.m.core c).teams.find? p with
  | none => none
  | some t =>
    match t.nextFlight s.free with
    | none => none
    | some (q, rest) =>
      if s.m.now ≤ q.entered then none
      else
        let x := s.m.core q.core
        let r := x.serveStore q (x.busy.headD BankUse.idle)
        let m := s.m.setCore q.core { x with guests := bothPlans x.guests [r.2] }
        let s := { s with free := s.free + 1 }
        if r.1.isEmpty then
          let m := m.performStore q
          some { s with m := m.setTeamAt c p { m.teamAt c p with flight := rest } }
        else some { s with m := m.setTeamAt c p { m.teamAt c p with flight := t.flight.map (fun k => if k = q then { q with left := r.1, entered := m.now } else k) } }

def execClusterStoreAck (c p : Nat) (s : State) := happen (clusterStoreAck c p) s

end Sys2Proof.Machine
end

