-- ==== Sys2Proof/Machine/Barrier.lean ====
section
/-! DEFINITION. Barrier objects and their instructions, major 0x17 (R171, R172, R376 to R378). -/

namespace Sys2Proof.Machine

/-- BINIT's word. -/
def binitWord (v : Nat) : Word := wordOf [(16, v)]

/-- The checks on a barrier's offset (R376). -/
def Mach.barrierCheck (m : Mach) (off : Int) (write : Bool) : Except TrapReq Unit :=
  if off % 8 ≠ 0 then .error ⟨cMISALIGNED, wordOfInt off⟩
  else if off < 0 ∨ (m.group.spSize : Int) < off + 8 then .error ⟨cSCRATCH_BOUNDS, wordOfInt off⟩
  else
    match lockHit (m.myCore.seenLocks m.now) false m.team.group off.toNat 8 write with
    | some e => .error ⟨cRANGE_LOCK, lockInfo e off.toNat write⟩
    | none => .ok ()

/-- The 16-bit operand (R376). -/
def barrierArg (x : Word) : Nat := bits x 15 0

/-- A barrier instruction that updates its word. -/
def barrierUpdate (f : Word → Nat → Word) (a b : Reg) (m : Mach) : Mach :=
  let t := m.team
  let off := (t.rs a.toNat).toInt
  match m.barrierCheck off true with
  | .error r => m.trap r
  | .ok () =>
    let g := m.group
    match m.myCore.readWords g [off.toNat] with
    | .error r => m.trapRecord r
    | .ok x =>
      let x := x.writeSp g off.toNat (f (x.readSp g off.toNat) (barrierArg (t.rs b.toNat)))
      m.setCore m.cur.core ((x.noteReached (g.spBase + off.toNat) 8).setTeam m.cur.place t.retire)

/-- BINIT (R377). -/
def execBinit (a b : Reg) (s : State) := word (barrierUpdate (fun _ v => binitWord v) a b) s
/-- BARV (R377). -/
def execBarv (a b : Reg) (s : State) := word (barrierUpdate arrive a b) s
/-- BEXP (R377). -/
def execBexp (a b : Reg) (s : State) := word (barrierUpdate (fun w v => arrive (setBits w 31 16 v) 0) a b) s

/-- The barrier word as the team sees it, its own queued stores included (R207). -/
def Mach.barrierSeen (m : Mach) (off : Nat) : Word :=
  BitVec.ofNat 64 (m.peekN m.team m.cur.core false (m.group.spBase + off) 8)

/-- BARV waits until the team's store queue is empty (R377), and until its cluster-window stores are performed at their targets, as R212 has an
observer of the arrival see every store made before it; BINIT and BEXP are performed after the team's own stores to the word. -/
def Mach.barrierReady (m : Mach) (all : Bool) (off : Int) : Bool :=
  let a := m.group.spBase + off.toNat
  (!all || (m.team.storeQ.isEmpty && m.team.flight.isEmpty)) && (m.team.flight ++ m.team.storeQ).all (fun q => !(q.core = m.cur.core && !q.tile && q.bytes.any (fun p => decide (a ≤ p.1) && decide (p.1 < a + 8))))

/-- BWAIT (R377, R378): a team whose phase is not reached is PARKED. -/
def Mach.bwait (m : Mach) (off : Int) (v : Nat) : Mach :=
  match m.barrierCheck off false with
  | .error r => m.trap r
  | .ok () =>
    match m.myCore.readWords m.group [off.toNat] with
    | .error r => m.trapRecord r
    | .ok x =>
      let t := m.team.retire
      let t := if reached (m.barrierSeen off.toNat) v then t else { t with phase := .parked (.bwait off.toNat v) }
      m.setCore m.cur.core (x.setTeam m.cur.place t)

def execBwait (a b : Reg) (s : State) : Host.Outcome State Fault Refusal :=
  word (fun m => m.bwait (m.team.rs a.toNat).toInt (barrierArg (m.team.rs b.toNat))) s

/-- BTEST (R377): its result is readable after 24 cycles. -/
def Mach.btest (m : Mach) (d : Nat) (off : Int) (v : Nat) : Mach :=
  match m.barrierCheck off false with
  | .error r => m.trap r
  | .ok () =>
    match m.myCore.readWords m.group [off.toNat] with
    | .error r => m.trapRecord r
    | .ok x =>
      let r := b2n (reached (m.barrierSeen off.toNat) v)
      m.setCore m.cur.core (x.setTeam m.cur.place (((m.team.ws d (BitVec.ofNat 64 r)).awaitS d (m.now + 24) .other).retire))

def execBtest (d a b : Reg) (s : State) : Host.Outcome State Fault Refusal :=
  word (fun m => m.btest d.toNat (m.team.rs a.toNat).toInt (barrierArg (m.team.rs b.toNat))) s

/-- A parked team whose barrier phase is reached, or was reached by some update of the cycle, continues in the next one (R378). -/
def Core.wakeBarrier (x : Core) (p : Nat) (t : Team) : Team :=
  match t.phase with
  | .parked (.bwait off v) => if x.met.contains p || reached (x.readSp (x.group t.group) off) v then { t with phase := .running } else t
  | _ => t

end Sys2Proof.Machine
end

