-- ==== Sys2Proof/Machine/Record.lean ====
section
/-! DEFINITION. Command records and layout records: their fields, the operands they name, and the validation at post
(R151 to R162, R385). -/

namespace Sys2Proof.Machine

/-! ## Fields of a record (R152) -/

def cKIND (w : Word) : Nat := bits w 63 60
def cSCOPE (w : Word) : Nat := bits w 59 56
def cCLASSES (w : Word) : Nat := bits w 55 40
def cSFMT (w : Word) : Nat := bits w 39 35
def cDFMT (w : Word) : Nat := bits w 34 30
def cROUND (w : Word) : Nat := bits w 29 27
def cOP (w : Word) : Nat := bits w 26 24
def cCRCM (w : Word) : Nat := bits w 23 22
def cCRCCHK (w : Word) : Bool := bitOf w 21
def cREL (w : Word) : Bool := bitOf w 20
def cACQ (w : Word) : Bool := bitOf w 19
def cSAT (w : Word) : Bool := bitOf w 18
def cWCMP (w : Word) : Nat := bits w 17 16
def cWIDE (w : Word) : Bool := bitOf w 15
def cHINTOP (w : Word) : Nat := bits w 14 13

/-- Kinds (R152). -/
def kCOPY : Nat := 0
def kGATHER : Nat := 1
def kSCATTER : Nat := 2
def kFILL : Nat := 3
def kWATCH : Nat := 4
def kSIGNAL : Nat := 5
def kFENCE : Nat := 6
def kFLUSH : Nat := 7
def kHINT : Nat := 8

/-- Word k of a command. -/
def Cmd.w (c : Cmd) (k : Nat) : Word := c.words.getD k 0

def Cmd.kind (c : Cmd) : Nat := cKIND (c.w 0)

/-- The fields of word 0 that a kind uses, as pairs of high and low bit (R153). -/
def usedFields : Nat → List (Nat × Nat)
  | 0 | 1 => [(59, 56), (39, 35), (34, 30), (29, 27), (18, 18), (23, 22), (21, 21)]
  | 2 => [(59, 56), (39, 35), (34, 30), (29, 27), (18, 18), (23, 22), (21, 21), (26, 24)]
  | 3 => [(59, 56), (39, 35), (34, 30), (23, 22), (21, 21)]
  | 4 => [(59, 56), (55, 40), (17, 16), (15, 15)]
  | 5 => [(59, 56), (55, 40), (26, 24), (15, 15)]
  | 6 => [(59, 56), (55, 40), (20, 20), (19, 19)]
  | 7 => [(59, 56), (19, 19)]
  | _ => [(14, 13)]

/-- Word 0 without the fields a kind uses and without KIND. -/
def unusedBits (kind : Nat) (w : Word) : Word :=
  (usedFields kind).foldl (fun w f => setBits w f.1 f.2 0) (setBits w 63 60 0)

/-- Words 1 to 5 that a kind uses (R153). -/
def usedWords : Nat → List Nat
  | 0 => [1, 2, 4, 5]
  | 1 | 2 => [1, 2, 3, 4, 5]
  | 3 => [2, 3, 4, 5]
  | 4 => [1, 2, 3, 5]
  | 5 => [2, 3]
  | 6 => []
  | 7 => [2, 4]
  | _ => [1, 4]

/-! ## Operands (R154, R157, R158) -/

/-- Bytes of an element; a four-bit pair takes one. -/
def elemBytes (fmt : Nat) : Nat := max 1 (fmtBits fmt / 8)

def isFourBit (fmt : Nat) : Bool := fmtBits fmt = 4

/-- The memory an operand lies in, and the offset of its first element there: a virtual address, or a group-relative offset. -/
structure Spot where
  global : Bool
  reach : Reach
  /-- Virtual address, or window offset. -/
  off : Int
  deriving DecidableEq, Repr

/-- An operand: its elements lie at `base` plus the strides, dimension 0 first. -/
structure Operand where
  spot : Spot
  fmt : Nat
  dims : List (Nat × Int)
  stream : Bool
  deriving DecidableEq, Repr

/-- The partition that a pointer reaches for a command of a group: like a team's access, but an owner core is compared only when
`strict` (R135, R154). -/
def Mach.spotOf (m : Mach) (core group tid : Nat) (strict : Bool) (p : Word) : Option Spot :=
  let g := m.groupAt core group
  let own (base limit : Nat) (tile : Bool) : Reach := { core, group, tile, base, limit, cluster := false }
  if !ptrOk p then none
  else
    match ptrWin p with
    | 0x0 => some ⟨true, own 0 0 false, (bits p 54 0 : Nat)⟩
    | 0x8 => some ⟨false, own (g.privBase tid) g.privSize false, (ptrOff p : Nat)⟩
    | 0x9 => if strict && ptrOwner p ≠ core then none else some ⟨false, own 0 g.spSize false, (ptrOff p : Nat)⟩
    | 0xB => some ⟨false, own 0 g.tileSize true, (ptrOff p : Nat)⟩
    | 0xA =>
      let c := coreInCluster core (ptrTarget p)
      match m.member g c with
      | some h => some ⟨false, { core := c, group := h, tile := false, base := 0, limit := (m.groupAt c h).spSize, cluster := true },
          (ptrOff p : Nat)⟩
      | none => none
    | _ => none

/-- Layout handle (R154). -/
def isHandle (w : Word) : Bool := bits w 63 60 = 0xC
def handleNum (w : Word) : Nat := bits w 7 0

/-- The layout record that a handle of a group names, when it is valid. -/
def Mach.layoutOf (m : Mach) (core group : Nat) (w : Word) : Option (List Word) :=
  let x := m.core core
  let g := x.group group
  if isHandle w ∧ bits w 59 8 = 0 ∧ 64 * (handleNum w + 1) ≤ g.lrec.sharedBytes then
    some ((List.range 8).map (fun k => x.readSp g (64 * handleNum w + 8 * k)))
  else none

def layRank (l : List Word) : Nat := bits (l.getD 1 0) 58 56
def layFmt (l : List Word) : Nat := bits (l.getD 1 0) 63 59
def layStream (l : List Word) : Bool := bitOf (l.getD 1 0) 48

/-- The five extents and strides of a layout record (R157). -/
def layDims (l : List Word) : List (Nat × Int) :=
  let w (k : Nat) : Word := l.getD k 0
  [(bits (w 1) 31 0, signed (bits (w 1) 47 32) 16), (bits (w 2) 31 0, (w 4).toInt), (bits (w 2) 63 32, (w 5).toInt),
   (bits (w 3) 31 0, (w 6).toInt), (bits (w 3) 63 32, (w 7).toInt)]

/-- The product of extents. -/
def extProduct : List (Nat × Int) → Nat
  | [] => 1
  | (e, _) :: ds => e * extProduct ds

/-- Offset of element n over dimensions, innermost first; `four` says that dimension 0 counts nibbles (R158). -/
def dimOffset (four : Bool) : List (Nat × Int) → Nat → Int
  | [], _ => 0
  | (e, s) :: ds, n =>
    (if four then ((n % e / 2 : Nat) : Int) else ((n % e : Nat) : Int) * s) + dimOffset false ds (n / e)

/-- LayoutAddr (R158): where element n lies, as a virtual address or a window offset. -/
def Operand.at (o : Operand) (n : Nat) : Int := o.spot.off + dimOffset (isFourBit o.fmt) o.dims n

/-- Least and greatest of 0 and an integer. -/
def span0 (x : Int) : Int × Int := (min 0 x, max 0 x)

/-- Offsets of the elements along the innermost dimension from 0 to k. -/
def innerSpan (four : Bool) (k s : Int) : Int × Int := if four then (0, k / 2) else span0 (k * s)

/-- Least and greatest offset of the first n elements, n > 0; the dimensions are given outermost first. -/
def spanFirst (four : Bool) : List (Nat × Int) → Nat → Int × Int
  | [], _ => (0, 0)
  | (e, s) :: ds, n =>
    if ds.isEmpty then innerSpan four ((min n e : Nat) - 1) s
    else
      let p := extProduct ds
      let q := n / p
      let r := n % p
      let full := spanFirst four ds p
      let a := span0 (((q : Int) - 1) * s)
      let part := spanFirst four ds r
      let lo := (q : Int) * s + part.1
      let hi := (q : Int) * s + part.2
      if q = 0 then part
      else if r = 0 then (a.1 + full.1, a.2 + full.2)
      else (min (a.1 + full.1) lo, max (a.2 + full.2) hi)

/-- Least and greatest offset of whole rows, given by their outermost indices; the dimensions are given outermost first. -/
def spanRows (four : Bool) (dims : List (Nat × Int)) (rows : List Nat) : Int × Int :=
  match dims with
  | [] => (0, 0)
  | (_, s) :: ds =>
    let inner := if ds.isEmpty then (0, 0) else spanFirst four ds (extProduct ds)
    let at_ (j : Nat) : Int := if four && ds.isEmpty then ((j / 2 : Nat) : Int) else (j : Int) * s
    let first := at_ (rows.headD 0)
    let b := rows.foldl (fun (b : Int × Int) j => (min b.1 (at_ j), max b.2 (at_ j))) (first, first)
    (b.1 + inner.1, b.2 + inner.2)

/-- Outermost extent. -/
def Operand.extOuter (o : Operand) : Nat := (o.dims.getLast?.map Prod.fst).getD 1

/-! ## Failures (R151) -/

/-- A failure: reason and word. -/
abbrev Failure := Nat × Nat

/-- The failure that is reported: the lowest reason, then the lowest word (R149). -/
def leastFailure : List Failure → Option Failure
  | [] => none
  | f :: fs =>
    match leastFailure fs with
    | none => some f
    | some g => if f.1 < g.1 ∨ (f.1 = g.1 ∧ f.2 ≤ g.2) then some f else some g

/-- TRAPINFO of RECORD_INVALID for CPOST (R151). -/
def recordInfo (off : Nat) (f : Failure) : Word := wordOf [(32, off % 2 ^ 19), (8, f.2), (0, f.1)]

/-- A failure when a condition holds. -/
def failIf (b : Bool) (reason word : Nat) : List Failure := if b then [(reason, word)] else []

/-! ## Building operands with their failures -/

/-- Whether a window may stand in a role: bit 0 global, bit 1 private, scratchpad and cluster, bit 2 tile store (R154). -/
def windowOk (allow : Nat) (p : Word) : Bool :=
  match ptrWin p with
  | 0x0 => allow % 2 = 1
  | 0x8 | 0x9 | 0xA => allow / 2 % 2 = 1
  | 0xB => allow / 4 % 2 = 1
  | _ => false

/-- A pointer in a role: its spot, or OPERAND. -/
def Mach.pointerIn (m : Mach) (core group tid : Nat) (strict : Bool) (word : Nat) (p : Word) (allow : Nat) :
    Option Spot × List Failure :=
  if windowOk allow p then
    match m.spotOf core group tid strict p with
    | some s => (some s, [])
    | none => (none, [(4, word)])
  else (none, [(4, word)])

/-- A data operand from captured layout words, or from a pointer to a packed array of n elements. -/
def operandFrom (s : Spot) (fmt n : Nat) (lay : Option (List Word)) : Operand :=
  match lay with
  | some l => { spot := s, fmt := fmt, dims := (layDims l).take (layRank l), stream := layStream l }
  | none => { spot := s, fmt := fmt, dims := [(max n 1, if isFourBit fmt then 0 else (elemBytes fmt : Int))], stream := false }

/-- The failures of a layout record as such (R151, R157, R158). -/
def layoutFailures (l : List Word) (fmt word : Nat) : List Failure :=
  let rank := layRank l
  let dims := layDims l
  failIf (bits (l.getD 1 0) 55 49 ≠ 0) 2 word ++ failIf (layFmt l ≠ fmt) 3 word ++
  failIf (rank = 0 || 5 < rank || (dims.take rank).any (fun d => d.1 = 0) ||
    (dims.drop rank).any (fun d => d.1 ≠ 0 || d.2 ≠ 0)) 5 word ++
  failIf (isFourBit fmt && ((dims.getD 0 (0, 0)).2 ≠ 0 || (dims.getD 0 (0, 0)).1 % 2 = 1)) 5 word

/-- A data operand of a record in word `word`: the operand, the layout captured for it, and the failures. -/
def Mach.operandIn (m : Mach) (core group tid : Nat) (strict : Bool) (words : List Word) (word fmt n : Nat)
    (layout? : Option (List Word)) (mustHandle : Bool) : Option Operand × Option (List Word) × List Failure :=
  let w := words.getD word 0
  let size : Int := elemBytes fmt
  if isHandle w then
    match layout? with
    | none => (none, none, [(4, word)])
    | some l =>
      let fl := layoutFailures l fmt word
      let p := m.pointerIn core group tid strict word (l.getD 0 0) 7
      match p.1 with
      | none => (none, some l, fl ++ p.2)
      | some s =>
        if fl.any (fun f => f.1 ≠ 2) then (none, some l, fl)
        else
          let o := operandFrom s fmt n (some l)
          let bad := !isFourBit fmt && (s.off % size ≠ 0 || o.dims.any (fun d => d.2 % size ≠ 0))
          (some o, some l, fl ++ failIf bad 6 word)
  else if mustHandle then (none, none, [(4, word)])
  else
    let p := m.pointerIn core group tid strict word w 7
    match p.1 with
    | none => (none, none, p.2)
    | some s => (some (operandFrom s fmt n none), none, failIf (!isFourBit fmt && s.off % size ≠ 0) 6 word)

/-! ## Lock ranges -/

/-- A range that a command locks: in the partition of a core's group, in group-relative bytes (R145). -/
structure Range where
  core : Nat
  group : Nat
  tile : Bool
  rw : Bool
  start : Nat
  stop : Nat
  deriving DecidableEq, Repr

/-- A local range of window offsets [lo, hi): within its limit, as a lock range; else BOUNDS. -/
def localRange (s : Spot) (lo hi : Int) (rw : Bool) (word : Nat) : List Range × List Failure :=
  if lo < 0 ∨ (s.reach.limit : Int) < hi then ([], [(7, word)])
  else ([⟨s.reach.core, s.reach.group, s.reach.tile, rw, s.reach.rel lo, s.reach.base + hi.toNat⟩], [])

/-- Whether two ranges of virtual addresses, or of one partition, overlap. -/
def rangesMeet (a b : Spot × Int × Int) : Bool :=
  let same := if a.1.global then b.1.global
    else !b.1.global && a.1.reach.core = b.1.reach.core && a.1.reach.group = b.1.reach.group && a.1.reach.tile = b.1.reach.tile
  let sh (x : Spot × Int × Int) : Int × Int :=
    if x.1.global then x.2 else (x.1.reach.base + x.2.1, x.1.reach.base + x.2.2)
  same && decide ((sh a).1 < (sh b).2) && decide ((sh b).1 < (sh a).2)

/-! ## Validation (R149, R151 to R162) -/

/-- What a valid record gives: captured layouts and the ranges it locks beside its word 7. -/
structure Checked where
  src : Option (List Word)
  dst : Option (List Word)
  ranges : List Range
  failures : List Failure
  deriving DecidableEq, Repr

/-- Row length that a layout record's extents give, whatever else fails in it; 1 where its RANK is none (R159, R160). -/
def layRowLen (l : List Word) : Nat := if 1 ≤ layRank l ∧ layRank l ≤ 5 then extProduct ((layDims l).take (layRank l)).dropLast else 1

/-- Element count of a record: word 4, times the row length of the indexed layout (R159). -/
def elements (kind count : Nat) (src dst : Option (List Word)) : Nat :=
  match kind with
  | 1 => count * (src.map layRowLen).getD 1
  | 2 => count * (dst.map layRowLen).getD 1
  | _ => count

/-- Words of word 0 and words 1 to 6 that every kind is held to (R152, R153, R155). MODEL'S CHOICE: a reserved code of SCOPE, ROUND, OP or
CRCM is RESERVED in word 0, and BOFF is not looked at when INCR is 0 (log entries 125 and 126). -/
def commonFailures (words : List Word) (g : Group) : List Failure :=
  let w (k : Nat) : Word := words.getD k 0
  let kind := cKIND (w 0)
  let boff := bits (w 6) 18 0
  let incr := bits (w 6) 63 48
  failIf (unusedBits kind (w 0) ≠ 0 || 9 < cSCOPE (w 0) || 5 < cROUND (w 0) || cOP (w 0) = 7 || cCRCM (w 0) = 3) 2 0 ++
  (List.range 5).flatMap (fun k => failIf (!(usedWords kind).contains (k + 1) && w (k + 1) ≠ 0) 2 (k + 1)) ++
  failIf ((usedWords kind).contains 4 && bits (w 4) 63 40 ≠ 0) 2 4 ++
  failIf (bits (w 6) 47 19 ≠ 0) 2 6 ++
  failIf (incr ≠ 0 && boff % 8 ≠ 0) 6 6 ++
  failIf (incr ≠ 0 && decide (g.spSize < boff + 8)) 7 6

/-- Failures of a data command that its operands do not decide. MODEL'S CHOICE: under a reserved DFMT, which has no width, the bits of a FILL's word 3
above the lowest eight are its higher bits, and fail as RESERVED there before FORMAT in word 0 (log entry 144). -/
def dataFailures (words : List Word) : List Failure :=
  let w (k : Nat) : Word := words.getD k 0
  let kind := cKIND (w 0)
  let sf := cSFMT (w 0)
  let df := cDFMT (w 0)
  failIf (if cCRCCHK (w 0) then bits (w 5) 63 32 ≠ 0 else w 5 ≠ 0) 2 5 ++
  failIf (fmtBits sf = 0 || fmtBits df = 0) 3 0 ++
  failIf (kind = 3 && (sf ≠ df || cCRCM (w 0) = 1)) 3 0 ++
  failIf (kind = 3 && fmtBits df ≠ 64 && (w 3).toNat / 2 ^ (8 * elemBytes df) ≠ 0) 2 3 ++
  failIf (kind = 2 && cOP (w 0) ≠ 0 && !(df = 2 || df = 3 || df = 6 || df = 7 || ((df = 10 || df = 11) && cOP (w 0) < 4))) 3 0

/-- A core's scratchpad once every store to it that has issued, on any core, is performed (R211). -/
def Mach.settled (m : Mach) (core : Nat) : Mem :=
  m.cores.foldl (fun (a : Mem) p => p.2.teams.foldl (fun (a : Mem) t => (t.2.flight ++ t.2.storeQ).foldl (fun (a : Mem) q =>
    if q.core = core ∧ !q.tile then a.writePairs q.bytes else a) a) a) (m.core core).scratch

/-- The entries of an index list, UINT32 each, after the stores issued so far (R160, R211). -/
def Mach.indexList (m : Mach) (s : Spot) (count : Nat) : List Nat :=
  let mem := m.settled s.reach.core
  let base := m.phys s.reach s.off
  (List.range count).map (fun k => mem.readN (base + 4 * k) 4)

/-- Validation of COPY, GATHER, SCATTER and FILL. Layouts are those given when the record was captured before, else they are read. -/
def Mach.checkData (m : Mach) (core group tid : Nat) (strict : Bool) (words : List Word) (src? dst? : Option (List Word)) : Checked :=
  let w (k : Nat) : Word := words.getD k 0
  let kind := cKIND (w 0)
  let sf := cSFMT (w 0)
  let df := cDFMT (w 0)
  let count := bits (w 4) 39 0
  let fl := dataFailures words
  -- a reserved format fails with FORMAT in word 0, the lowest word: only the reserved bits of a named layout have a lower reason (R149)
  let kept (word : Nat) (lay : Option (List Word)) : List Failure := match lay with
    | some l => failIf (isHandle (w word) && bits (l.getD 1 0) 55 49 ≠ 0) 2 word
    | none => []
  if fmtBits sf = 0 ∨ fmtBits df = 0 then ⟨none, none, [], fl ++ (if kind = 3 then [] else kept 1 src?) ++ kept 2 dst?⟩
  else
    let a : Option Operand × Option (List Word) × List Failure := if kind = 3 then (none, none, [])
      else m.operandIn core group tid strict words 1 sf count src? (kind = 1)
    let b := m.operandIn core group tid strict words 2 df count dst? (kind = 2)
    let e := elements kind count a.2.1 b.2.1
    -- a pointer operand holds exactly E elements
    let a := if isHandle (w 1) || kind = 3 then a else m.operandIn core group tid strict words 1 sf e src? (kind = 1)
    let b := if isHandle (w 2) then b else m.operandIn core group tid strict words 2 df e dst? (kind = 2)
    let indexed := kind = 1 || kind = 2
    let ip : Option Spot × List Failure := if indexed then m.pointerIn core group tid strict 3 (w 3) 2 else (none, [])
    let il : List Range × List Failure := match ip.1 with
      | some s => if s.off % 4 ≠ 0 then ([], [(6, 3)]) else localRange s s.off (s.off + 4 * count) false 3
      | none => ([], [])
    let idx : Option (List Nat) := match ip.1 with
      | some s => if il.2.isEmpty && s.off % 4 = 0 then some (m.indexList s count) else none
      | none => none
    let few (o : Option Operand) (h : Bool) : Bool := match o with | some o => h && decide (extProduct o.dims < e) | none => false
    let fewA := few a.1 (isHandle (w 1))
    let fewB := few b.1 (isHandle (w 2))
    let span (o : Operand) (isIdx : Bool) : Option (Int × Int) :=
      if e = 0 then none
      else if isIdx then
        match idx with
        | none => none
        | some js =>
          let js := js.filter (· < o.extOuter)
          if js.isEmpty then none else some (spanRows (isFourBit o.fmt) o.dims.reverse js)
      else some (spanFirst (isFourBit o.fmt) o.dims.reverse e)
    let iv (o : Option Operand) (bad isIdx : Bool) : Option (Spot × Int × Int) := match o with
      | some o => if bad then none else (span o isIdx).map (fun p => (o.spot, o.spot.off + p.1, o.spot.off + p.2 + elemBytes o.fmt))
      | none => none
    let ia := iv a.1 fewA (kind = 1)
    let ib := iv b.1 fewB (kind = 2)
    let rng (i : Option (Spot × Int × Int)) (rw : Bool) (word : Nat) : List Range × List Failure := match i with
      | some (s, lo, hi) => if s.global then ([], []) else localRange s lo hi rw word
      | none => ([], [])
    let ra := rng ia false 1
    let rb := rng ib true 2
    let meet := match ia, ib with
      | some x, some y => ra.2.isEmpty && rb.2.isEmpty && rangesMeet x y
      | _, _ => false
    { src := a.2.1, dst := b.2.1,
      ranges := rb.1 ++ ra.1 ++ (if count = 0 then [] else il.1),
      failures := fl ++ a.2.2 ++ b.2.2 ++ ip.2 ++ il.2 ++ failIf fewA 5 1 ++ failIf fewB 5 2 ++ ra.2 ++ rb.2 ++
        failIf meet 8 2 ++ failIf ((isFourBit sf || isFourBit df) && e % 2 = 1) 9 4 }

/-- Validation of WATCH, SIGNAL, FENCE, FLUSH and HINT. -/
def Mach.checkOther (m : Mach) (core group tid : Nat) (strict : Bool) (words : List Word) : Checked :=
  let w (k : Nat) : Word := words.getD k 0
  let size : Int := if cWIDE (w 0) then 8 else 4
  let glob (word : Nat) (n : Int) : List Failure :=
    let p := m.pointerIn core group tid strict word (w word) 1
    p.2 ++ (match p.1 with | some s => failIf (s.off % n ≠ 0) 6 word | none => [])
  match cKIND (w 0) with
  | 4 =>
    let d : List Range × List Failure :=
      if w 2 = 0 then ([], [])
      else
        let p := m.pointerIn core group tid strict 2 (w 2) 6
        match p.1 with
        | none => ([], p.2)
        | some s => if s.off % size ≠ 0 then ([], [(6, 2)]) else localRange s s.off (s.off + size) true 2
    let narrow (k : Nat) : List Failure := failIf (!cWIDE (w 0) && bits (w k) 63 32 ≠ 0) 2 k
    ⟨none, none, d.1, glob 1 size ++ d.2 ++ narrow 3 ++ narrow 5⟩
  | 5 => ⟨none, none, [], glob 2 size⟩
  | 7 => ⟨none, none, [], glob 2 1⟩
  | 8 => ⟨none, none, [], glob 1 1⟩
  | _ => ⟨none, none, [], []⟩

/-- Validation of a record whose layouts are given. -/
def Mach.checkRecord (m : Mach) (core group tid : Nat) (strict : Bool) (words : List Word) (src? dst? : Option (List Word)) : Checked :=
  let kind := cKIND (words.getD 0 0)
  if 9 ≤ kind then ⟨none, none, [], [(1, 0)]⟩
  else
    let c := if kind ≤ 3 then m.checkData core group tid strict words src? dst? else m.checkOther core group tid strict words
    { c with failures := commonFailures words (m.groupAt core group) ++ c.failures }

end Sys2Proof.Machine
end

