-- ==== Sys2Proof/Machine/Matrix.lean ====
section
/-! DEFINITION. The matrix engine: shape records, format-block records, the checks at issue, MMA, MLOOP, MZERO, MLDA and MSTA,
majors 0x18 to 0x1A (R123 to R125, R226 to R248, R411 to R413). -/

namespace Sys2Proof.Machine

/-! ## Shape records (R229, R230) -/

/-- A shape record's fields. -/
structure Shp where
  fmt : Nat
  trans : Bool
  rows : Nat
  cols : Nat
  cstr : Nat
  rstr : Nat
  base : Nat
  deriving DecidableEq, Repr

def shapeOf (w : Word) : Shp :=
  { fmt := bits w 63 59, trans := bitOf w 58, rows := bits w 57 50 + 1, cols := bits w 49 42 + 1,
    cstr := bits w 41 38 + 1, rstr := bits w 37 20, base := bits w 19 0 }

def Shp.four (s : Shp) : Bool := isFourBit s.fmt

/-- Bytes from the start of a row to element c's byte. -/
def Shp.inRow (s : Shp) (c : Nat) : Nat := if s.four then c / 2 else c * s.cstr * elemBytes s.fmt

/-- Offset of stored element (r, c) with another base (R230). -/
def Shp.at (s : Shp) (base : Int) (r c : Nat) : Int := base + (r * s.rstr + s.inRow c : Nat)

/-- The bounding byte interval of the stored array. -/
def Shp.span (s : Shp) (base : Int) : Int × Int :=
  (base, s.at base (s.rows - 1) (s.cols - 1) + elemBytes s.fmt)

/-- Base and row stride are multiples of the element size; four-bit ones may be any. -/
def Shp.aligned (s : Shp) (base : Int) : Bool :=
  s.four || (base % (elemBytes s.fmt : Int) = 0 && s.rstr % elemBytes s.fmt = 0)

/-- Rows and columns of the described region after TRANS: an accumulator's for MLDA and MSTA. -/
def Shp.outRows (s : Shp) : Nat := if s.trans then s.cols else s.rows
def Shp.outCols (s : Shp) : Nat := if s.trans then s.rows else s.cols

/-! ## Format-block records (R232, R233) -/

/-- The fields of one operand in a format-block record. -/
structure Scales where
  fmt : Nat
  blk : Nat
  sfmt : Nat
  stride : Nat
  base : Nat
  deriving DecidableEq, Repr

def scalesOf (w : Word) : Scales :=
  { fmt := bits w 63 59, blk := bits w 58 57, sfmt := bits w 56 52, stride := bits w 51 32, base := bits w 19 0 }

/-- Elements along K that share a scale; 0 when there are no scales. -/
def Scales.len (s : Scales) : Nat := if s.blk = 0 then 0 else 8 * 2 ^ s.blk

/-- Everything that one MMA or MLOOP names. -/
structure MmaP where
  a : Shp
  b : Shp
  fb : Option (List Word)
  steps : Nat
  incA : Int
  incB : Int
  spa : Bool
  deriving DecidableEq, Repr

def MmaP.word (p : MmaP) (k : Nat) : Word := (p.fb.getD []).getD k 0
def MmaP.sca (p : MmaP) : Scales := scalesOf (p.word 0)
def MmaP.scb (p : MmaP) : Scales := scalesOf (p.word 1)
def MmaP.spr (p : MmaP) : Nat := bits (p.word 2) 63 62
def MmaP.idxStride (p : MmaP) : Nat := bits (p.word 2) 39 20
def MmaP.idxBase (p : MmaP) : Nat := bits (p.word 2) 19 0
/-- M, stored K of A, logical K (R234), K of B and N (R231). -/
def MmaP.M (p : MmaP) : Nat := p.a.outRows
def MmaP.Kp (p : MmaP) : Nat := p.a.outCols
def MmaP.K (p : MmaP) : Nat := if p.spa && p.spr = 1 then 2 * p.Kp else if p.spa && p.spr = 2 then 4 * p.Kp else p.Kp
def MmaP.Kb (p : MmaP) : Nat := p.b.outRows
def MmaP.N (p : MmaP) : Nat := p.b.outCols
/-- Bits of the wider operand. -/
def MmaP.wide (p : MmaP) : Nat := max (fmtBits p.a.fmt) (fmtBits p.b.fmt)
/-- Elements along K in one granule (R124). -/
def MmaP.granule (p : MmaP) : Nat := 256 / p.wide
def MmaP.baseA (p : MmaP) (t : Nat) : Int := p.a.base + t * p.incA
def MmaP.baseB (p : MmaP) (t : Nat) : Int := p.b.base + t * p.incB
/-- Issue interval (R236). -/
def MmaP.interval (p : MmaP) : Nat := if p.wide = 64 then 32 else 16

/-- Formats of A and B (R236). -/
def mmaFormat (f : Nat) : Bool := [11, 10, 8, 9, 19, 20, 0, 4, 18, 17, 16].contains f

/-- Integer formats of A and B (R125). -/
def mmaInt (f : Nat) : Bool := [0, 4, 16, 17].contains f

/-- The accumulator format (R125). -/
def MmaP.accFmt (p : MmaP) : AccTag :=
  if p.a.fmt = 11 ∧ p.b.fmt = 11 then .fp64
  else if mmaInt p.a.fmt ∧ mmaInt p.b.fmt ∧ p.sca.blk = 0 ∧ p.scb.blk = 0 then .int32
  else .fp32

/-- The scale bytes of an operand of n rows or columns at step t. -/
def scaleSpan (s : Scales) (n k t : Nat) : Int × Int :=
  let base := s.base + t * (k / s.len)
  (base, (base + (n - 1) * s.stride + (k + s.len - 1) / s.len : Nat))

/-- The index bytes at step t (R234, R241). -/
def MmaP.idxSpan (p : MmaP) (t : Nat) : Int × Int :=
  let base := p.idxBase + t * (p.Kp / 4)
  (base, (base + (p.M - 1) * p.idxStride + (p.Kp + 3) / 4 : Nat))

/-- Every range that the operation reads: operand, step and bytes, operands outermost. -/
def MmaP.ranges (p : MmaP) : List (Nat × Nat × Int × Int) :=
  let ts := List.range p.steps
  ts.map (fun t => (0, t, p.a.span (p.baseA t))) ++ ts.map (fun t => (1, t, p.b.span (p.baseB t))) ++
  (if p.sca.blk = 0 then [] else ts.map (fun t => (3, t, scaleSpan p.sca p.M p.K t))) ++
  (if p.scb.blk = 0 then [] else ts.map (fun t => (4, t, scaleSpan p.scb p.N p.K t))) ++
  (if p.spa then ts.map (fun t => (5, t, p.idxSpan t)) else [])

/-! ## Checks at issue (R239) -/

/-- TRAPINFO of a matrix instruction (R239). -/
def matInfo (opnd reason step : Nat) (value : Int) : Word :=
  wordOf [(53, opnd), (40, reason), (32, step), (0, (value % 4294967296).toNat)]

/-- RECORD_INVALID of a matrix instruction. -/
def matBad (opnd reason step : Nat) : TrapReq := ⟨cRECORD_INVALID, matInfo opnd reason step 0⟩

/-- A trap when a condition holds. -/
def trapIf (b : Bool) (r : TrapReq) : List TrapReq := if b then [r] else []

/-- A range outside a partition of `limit` bytes: TILE_BOUNDS. -/
def matBounds (limit opnd step : Nat) (lo hi : Int) : List TrapReq :=
  trapIf (decide (lo < 0)) ⟨cTILE_BOUNDS, matInfo opnd 0 step lo⟩ ++
  trapIf (decide (0 ≤ lo) && decide ((limit : Int) < hi)) ⟨cTILE_BOUNDS, matInfo opnd 0 step hi⟩

/-- Checks 3 to 5 on a format-block record's offset. -/
def blockFailures (limit : Nat) (off : Word) : List TrapReq :=
  if bits off 63 20 ≠ 0 then [matBad 2 1 0]
  else if off.toNat % 32 ≠ 0 then [matBad 2 5 0]
  else matBounds limit 2 0 (off.toNat : Int) (off.toNat + 32 : Nat)

/-- Check 6 for MMA and MLOOP: reserved fields of words 0 to 2, and SPR 3. -/
def blockReserved (ws : List Word) : List TrapReq :=
  trapIf (bits (ws.getD 0 0) 31 20 ≠ 0 || bits (ws.getD 1 0) 31 20 ≠ 0 || bits (ws.getD 2 0) 61 40 ≠ 0 ||
    bits (ws.getD 2 0) 63 62 = 3) (matBad 2 1 0)

/-- Check 7. -/
def MmaP.formatFailures (p : MmaP) : List TrapReq :=
  let okA := mmaFormat p.a.fmt
  let okB := mmaFormat p.b.fmt
  trapIf (!okA || (okB && decide ((p.a.fmt = 11) ≠ (p.b.fmt = 11))) || (p.fb.isSome && p.sca.fmt ≠ p.a.fmt)) (matBad 0 2 0) ++
  trapIf (!okB || (p.fb.isSome && p.scb.fmt ≠ p.b.fmt)) (matBad 1 2 0)

/-- Greatest K of R236. -/
def MmaP.maxK (p : MmaP) : Nat := if 32 ≤ p.wide then 8 else if p.spa then 1024 / p.wide else 512 / p.wide

/-- Check 8, with what R241 asks of an MLOOP of two steps or more. -/
def MmaP.shapeFailures (p : MmaP) : List TrapReq :=
  trapIf (decide (p.K ≠ p.Kb) || decide (64 < p.M) || decide (p.maxK < p.K)) (matBad 0 3 0) ++
  trapIf (decide ((if p.wide = 64 then 32 else 64) < p.N)) (matBad 1 3 0) ++
  (if p.steps = 1 then [] else
    trapIf (p.sca.blk ≠ 0 && p.K % p.sca.len ≠ 0) (matBad 3 3 0) ++
    trapIf (p.scb.blk ≠ 0 && p.K % p.scb.len ≠ 0) (matBad 4 3 0) ++
    trapIf (p.spa && p.Kp % 4 ≠ 0) (matBad 5 3 0))

/-- Check 9: a four-bit operand keeps K as its stored columns. -/
def MmaP.strideFailures (p : MmaP) : List TrapReq :=
  trapIf (p.a.four && (p.a.cstr ≠ 1 || p.a.trans)) (matBad 0 4 0) ++
  trapIf (p.b.four && (p.b.cstr ≠ 1 || !p.b.trans)) (matBad 1 4 0)

/-- Check 10, at every step. -/
def MmaP.alignFailures (p : MmaP) : List TrapReq :=
  (List.range p.steps).flatMap (fun t => trapIf (!p.a.aligned (p.baseA t)) (matBad 0 5 t)) ++
  (List.range p.steps).flatMap (fun t => trapIf (!p.b.aligned (p.baseB t)) (matBad 1 5 t))

/-- Check 11. -/
def MmaP.sparseFailures (p : MmaP) : List TrapReq :=
  trapIf (p.spa && (p.a.fmt = 11 || p.a.fmt = 10 || p.a.fmt = 17 || p.a.trans)) (matBad 0 6 0) ++
  trapIf (p.spa != decide (p.spr ≠ 0)) (matBad 2 6 0)

/-- Check 12 for one operand. -/
def scaleFailures (s : Scales) (fmt opnd : Nat) : List TrapReq :=
  trapIf (if s.blk = 0 then s.sfmt ≠ 0 else decide (16 ≤ fmtBits fmt) || (s.sfmt ≠ 19 && s.sfmt ≠ 21)) (matBad opnd 7 0)

/-- The first trap of a list of checks, each with its failures. -/
def firstTrap (checks : List (List TrapReq)) : Except TrapReq Unit :=
  match checks.flatten with
  | r :: _ => .error r
  | [] => .ok ()

/-- Check 15 over ranges of a group's tile-store partition. -/
def lockFailures (x : Core) (now group : Nat) (write : Bool) (rs : List (Int × Int)) : List TrapReq :=
  rs.flatMap (fun r => match lockHit (x.seenLocks now) true group r.1.toNat (r.2 - r.1).toNat write with
    | some e => [⟨cRANGE_LOCK, lockInfo e r.1.toNat write⟩]
    | none => [])

/-- Doublewords of a group's tile-store partition. -/
def Core.readTile (x : Core) (g : Group) (off n : Nat) : List Word := x.tile.readDs (g.tileBase + off) n

/-- Checks 3 to 15 of an MMA or MLOOP, up to the accumulator it names: its parameters, or the first failure. `fo` is the offset of
the format-block record, if one is named. -/
def Mach.checkMma (m : Mach) (tag : AccTag) (accd : Bool) (p : MmaP) (fo : Option Word) : Except TrapReq MmaP :=
  let x := m.myCore
  let g := m.group
  let limit := g.tileSize
  match firstTrap [match fo with | some o => blockFailures limit o | none => []] with
  | .error r => .error r
  | .ok () =>
    let p := { p with fb := fo.map (fun o => x.readTile g o.toNat 3) }
    let rs := p.ranges
    let block : List (Int × Int) := match fo with | some o => [((o.toNat : Int), (o.toNat + 24 : Nat))] | none => []
    let spans (q : Nat → Bool) : List (Int × Int) := (rs.filter (fun r => q r.1)).map (fun r => r.2.2)
    match firstTrap [match p.fb with | some ws => blockReserved ws | none => [], p.formatFailures, p.shapeFailures,
      p.strideFailures, p.alignFailures, p.sparseFailures, scaleFailures p.sca p.a.fmt 3 ++ scaleFailures p.scb p.b.fmt 4,
      trapIf (!accd && tag ≠ p.accFmt) (matBad 6 8 0)] with
    | .error r => .error r
    | .ok () =>
      match firstTrap [rs.flatMap (fun r => matBounds limit r.1 r.2.1 r.2.2.1 r.2.2.2),
        lockFailures x m.now m.team.group false (spans (· < 2) ++ block ++ spans (2 < ·))] with
      | .error r => .error r
      | .ok () => .ok p

/-! ## Values (R230 to R234, R108) -/

/-- A result as an operand. -/
def FRes.toVal : FRes → FVal
  | .nan _ => .nan false
  | .inf neg _ => .inf neg
  | .val neg m e _ _ => .fin neg m e

/-- The sign of a value. -/
def FVal.sign : FVal → Bool
  | .nan _ => false
  | .inf n => n
  | .fin n _ _ => n

/-- An element times its block's scale (R108): a zero scale makes every element a zero. -/
def scaled (v s : FVal) : FVal :=
  match s with
  | .nan _ => .nan false
  | .fin n 0 _ => .fin (v.sign != n) 0 0
  | _ => (mulF v s).toVal

/-- The pattern of stored element (r, c); a four-bit one is a nibble (R101). -/
def Shp.code (rd : Nat → Nat → Nat) (s : Shp) (base : Int) (r c : Nat) : Nat :=
  let a := (s.at base r c).toNat
  if s.four then rd a 1 / (if c % 2 = 0 then 1 else 16) % 16 else rd a (elemBytes s.fmt)

/-- O4 codes in pairs; a missing odd partner is a zero (R106). -/
def decodeO4 : List Nat → List FVal
  | [] => []
  | [c] => let p := fromO4 c 0; if c % 16 = 8 then [.ofInt 0] else [.ofInt p.1]
  | c0 :: c1 :: cs => let p := fromO4 c0 c1; .ofInt p.1 :: .ofInt p.2 :: decodeO4 cs

/-- The values of a line of patterns. -/
def decodeLine (fmt : Nat) (cs : List Nat) : List FVal := if fmt = 17 then decodeO4 cs else cs.map (decodeF fmt)

/-- The exact sum of values. -/
def sumVals : List FVal → FVal
  | [] => .fin false 0 0
  | v :: vs => (addF .rne v (sumVals vs)).toVal

/-- The value of a logical element: the packed element that names it, or the sum of those that do (R234). -/
def oneVal : List FVal → FVal
  | [v] => v
  | vs => sumVals vs

/-- A line of K values multiplied by its scales. -/
def scaleLine (rd : Nat → Nat → Nat) (s : Scales) (row k t : Nat) (vs : List FVal) : List FVal :=
  if s.blk = 0 then vs
  else vs.zipIdx.map (fun p => scaled p.1 (decodeF s.sfmt (rd (s.base + t * (k / s.len) + row * s.stride + p.2 / s.len) 1)))

/-- A line of K elements, each as the packed elements that make it up, multiplied by its scales. -/
def scaleParts (rd : Nat → Nat → Nat) (s : Scales) (row k t : Nat) (vs : List (List FVal)) : List (List FVal) :=
  if s.blk = 0 then vs
  else vs.zipIdx.map (fun p => p.1.map (fun v =>
    scaled v (decodeF s.sfmt (rd (s.base + t * (k / s.len) + row * s.stride + p.2 / s.len) 1))))

/-- Row i of A at step t: K elements, each as the packed elements that name it under SPA, a zero where none does (R234), and one without SPA. -/
def MmaP.partsA (rd : Nat → Nat → Nat) (p : MmaP) (t i : Nat) : List (List FVal) :=
  let cs := (List.range p.Kp).map (fun e => if p.a.trans then p.a.code rd (p.baseA t) e i else p.a.code rd (p.baseA t) i e)
  let vs := decodeLine p.a.fmt cs
  let parts : List (List FVal) := if p.spa then
      let idx (e : Nat) : Nat := rd (p.idxBase + t * (p.Kp / 4) + i * p.idxStride + e / 4) 1 / 4 ^ (e % 4) % 4
      let es := vs.zipIdx.map (fun v => (4 * (if p.spr = 1 then v.2 / 2 else v.2) + idx v.2, v.1))
      (List.range p.K).map (fun k => match (es.filter (fun e => e.1 = k)).map Prod.snd with
        | [] => [.ofInt 0]
        | vs => vs)
    else vs.map (fun v => [v])
  scaleParts rd p.sca i p.K t parts

/-- Row i of A at step t: K values. -/
def MmaP.rowA (rd : Nat → Nat → Nat) (p : MmaP) (t i : Nat) : List FVal := (p.partsA rd t i).map oneVal

/-- Column j of B at step t: K values. -/
def MmaP.colB (rd : Nat → Nat → Nat) (p : MmaP) (t j : Nat) : List FVal :=
  let cs := (List.range p.Kb).map (fun e => if p.b.trans then p.b.code rd (p.baseB t) j e else p.b.code rd (p.baseB t) e j)
  scaleLine rd p.scb j p.K t (decodeLine p.b.fmt cs)

/-! ## Sums (R123, R124, R237) -/

/-- An exact sum of products: x × 2^e, and what else occurred among them. -/
structure Sum where
  nan : Bool
  pos : Bool
  neg : Bool
  x : Int
  e : Int
  deriving DecidableEq, Repr

def Sum.zero : Sum := { nan := false, pos := false, neg := false, x := 0, e := 0 }

/-- A product added. -/
def Sum.add (s : Sum) (r : FRes) : Sum :=
  match r with
  | .nan _ => { s with nan := true }
  | .inf n _ => if n then { s with neg := true } else { s with pos := true }
  | .val n m e _ _ =>
    if m = 0 then s
    else
      let e0 := min s.e e
      let y : Int := m * 2 ^ (e - e0).toNat
      { s with x := s.x * 2 ^ (s.e - e0).toNat + (if n then -y else y), e := e0 }

/-- The sum of a granule's products: packed elements of one logical element add their products (R234). -/
def granuleS (as : List (List FVal)) (bs : List FVal) : Sum :=
  (as.zip bs).foldl (fun s p => p.1.foldl (fun s a => s.add (mulF a p.2)) s) Sum.zero

/-- One granule added to an FP32 element (R124). -/
def granuleF (neg : Bool) (c : Nat) (s : Sum) : Nat :=
  let v := decodeF 10 c
  let up := if neg then s.neg else s.pos
  let down := if neg then s.pos else s.neg
  if s.nan || (s.pos && s.neg) then canonNaN 10
  else if up || down then
    (match v with
      | .nan _ => canonNaN 10
      | .inf n => if n = down then c else canonNaN 10
      | _ => infBits 10 down)
  else if s.x = 0 then c
  else (finishF 10 .rne false (addF .rne v (.fin (decide (s.x < 0) != neg) s.x.natAbs s.e))).1

/-- A list cut into pieces of n; `fuel` bounds their number. -/
def pieces {α : Type} (n : Nat) : (fuel : Nat) → List α → List (List α)
  | 0, _ => []
  | _, [] => []
  | fuel + 1, xs => xs.take n :: pieces n fuel (xs.drop n)

/-- The integer that a finite value stands for. -/
def FVal.toInt : FVal → Int
  | .fin n m e => if n then -(m * 2 ^ e.toNat : Nat) else (m * 2 ^ e.toNat : Nat)
  | _ => 0

/-- One accumulator element after the products of a row and a column (R237). -/
def mmaElem (tag : AccTag) (neg : Bool) (g : Nat) (c : Nat) (as : List (List FVal)) (bs : List FVal) : Nat :=
  match tag with
  | .fp64 => ((as.map oneVal).zip bs).foldl (fun c p => (finishF 11 .rne false (fmaF .rne neg p.1 p.2 (decodeF 11 c))).1) c
  | .int32 =>
    let s := ((as.map oneVal).zip bs).foldl (fun (s : Int) p => s + p.1.toInt * p.2.toInt) 0
    ((c + (if neg then -s else s)) % 4294967296).toNat
  | .fp32 => ((pieces g as.length as).zip (pieces g bs.length bs)).foldl (fun c p => granuleF neg c (granuleS p.1 p.2)) c

/-! ## Accumulators (R227) -/

/-- Bytes of an element, and elements in a row. -/
def AccTag.size : AccTag → Nat
  | .fp64 => 8
  | _ => 4
def AccTag.cols : AccTag → Nat
  | .fp64 => 32
  | _ => 64

/-- The format code of an accumulator's elements. -/
def AccTag.fmt : AccTag → Nat
  | .fp32 => 10
  | .fp64 => 11
  | .int32 => 2

def AccTag.ofAF (f : Nat) : AccTag := if f = 1 then .fp64 else if f = 2 then .int32 else .fp32

/-- n bytes of a canonical memory from address a up. -/
def Mem.image : (n : Nat) → (a : Nat) → Mem → List Byte
  | 0, _, _ => []
  | n + 1, a, [] => 0 :: Mem.image n (a + 1) []
  | n + 1, a, (b, v) :: t => if b = a then v :: Mem.image n (a + 1) t else 0 :: Mem.image n (a + 1) ((b, v) :: t)

/-- The canonical memory that holds bytes from address 0 up. -/
def Mem.ofBytes (bs : List Byte) : Mem := (bs.zipIdx.filter (fun p => p.1 ≠ 0)).map (fun p => (p.2, p.1))

/-- An accumulator's elements under a tag, row by row. -/
def Acc.rows (a : Acc) (tag : AccTag) : List (List Nat) :=
  pieces tag.cols 64 ((pieces tag.size 4096 (Mem.image 16384 0 a.mem)).map leNat)

/-- An accumulator's bytes from its elements. -/
def accBytes (tag : AccTag) (rows : List (List Nat)) : Mem :=
  Mem.ofBytes (rows.flatten.flatMap (fun v => leBytes v tag.size))

/-- The elements of a region changed, by row, column and old value. -/
def mapRegion (rows cols : Nat) (f : Nat → Nat → Nat → Nat) (es : List (List Nat)) : List (List Nat) :=
  es.zipIdx.map (fun r => if r.2 < rows then
    r.1.zipIdx.map (fun c => if c.2 < cols then f r.2 c.2 c.1 else c.1) else r.1)

/-- An accumulator as placement leaves it (R227). -/
def Acc.initial : Acc := { tag := .fp32, mem := [] }

def Core.acc (x : Core) (n : Nat) : Acc := x.accs.get Acc.initial n

/-! ## Running an operation -/

/-- An operation's parameters. -/
def MatKind.params : MatKind → Option MmaP
  | .mma sa sb fb steps incA incB _ _ spa => some ⟨shapeOf sa, shapeOf sb, fb, steps, incA, incB, spa⟩
  | _ => none

/-- The ranges of a group's tile-store partition that an operation reads or writes. -/
def MatKind.touches (k : MatKind) : List (Int × Int × Bool) :=
  match k with
  | .mzero => []
  | .mlda sh => let s := shapeOf sh; [((s.span s.base).1, (s.span s.base).2, false)]
  | .msta sh _ _ _ _ => let s := shapeOf sh; [((s.span s.base).1, (s.span s.base).2, true)]
  | k => match k.params with | some p => p.ranges.map (fun r => (r.2.2.1, r.2.2.2, false)) | none => []

/-- One step of an MMA on an accumulator's elements. -/
def mmaStep (rd : Nat → Nat → Nat) (p : MmaP) (tag : AccTag) (neg zero : Bool) (t : Nat) (es : List (List Nat)) : List (List Nat) :=
  let as := (List.range p.M).map (p.partsA rd t)
  let bs := (List.range p.N).map (p.colB rd t)
  mapRegion p.M p.N (fun i j c => mmaElem tag neg p.granule (if zero then 0 else c) (as.getD i []) (bs.getD j [])) es

/-- MLDA's element under a tag (R244). -/
def mldaElem (tag : AccTag) (v : FVal) : Nat :=
  match tag with
  | .int32 => (v.toInt % 4294967296).toNat
  | t => (convertF t.fmt .rne false false false false v).1

/-- The patterns that MSTA gives one stored row, with the accumulator's value and rounding position of each column (R245). -/
def mstaRow (fmt : Nat) (srcInt sat : Bool) (row : List (FVal × RMode)) : List Nat :=
  if fmt = 17 then
    (pieces 2 row.length row).flatMap (fun p => match p with
      | [a, b] => let r := toO4 a.2 b.2 a.1 b.1; [r.1, r.2.1]
      | [a] => [(toO4 a.2 a.2 a.1 (.fin false 0 0)).1]
      | _ => [])
  else row.map (fun p => (convertF fmt p.2 sat false srcInt false p.1).1)

/-- The bytes of a stored row: four-bit elements in pairs, where a lone last one keeps the old high nibble. -/
def Shp.rowBytes (old : Nat → Nat) (s : Shp) (r : Nat) (cs : List Nat) : List (Nat × Byte) :=
  let base : Int := s.base
  if s.four then
    (pieces 2 cs.length cs).zipIdx.map (fun p =>
      let a := (s.at base r (2 * p.2)).toNat
      (a, BitVec.ofNat 8 (p.1.getD 0 0 % 16 + (match p.1 with | [_, h] => h % 16 * 16 | _ => old a / 16 * 16))))
  else cs.zipIdx.flatMap (fun p =>
    let a := (s.at base r p.2).toNat
    (leBytes p.1 (elemBytes s.fmt)).zipIdx.map (fun q => (a + q.2, q.1)))

/-- One write per byte: of several writes to one byte, the one that `pick` names stays. -/
def resolveWrites (pick : Nat → Nat) (ps : List (Nat × Byte)) : List (Nat × Byte) :=
  ps.map (fun p =>
    let same := ps.filter (fun q => q.1 = p.1)
    (p.1, (same.getD (pick p.1 % same.length) p).2))

/-- Rows of a stored array that may share bytes. -/
def Shp.overlaps (s : Shp) : Bool := decide (1 < s.rows) && decide (s.rstr < s.inRow (s.cols - 1) + elemBytes s.fmt)

/-- What a matrix operation does to its core (R237, R243 to R245). -/
def Core.runMat (x : Core) (op : MatOp) (pick : Nat → Nat) : Core :=
  let base := (x.group op.group).tileBase
  let rd (a n : Nat) : Nat := x.tile.readN (base + a) n
  let acc := x.acc op.acc
  let put (es : List (List Nat)) : Core := { x with accs := x.accs.set op.acc { acc with mem := accBytes op.tag es } }
  match op.kind with
  | .mzero => { x with accs := x.accs.set op.acc { acc with mem := [] } }
  | .mlda sh =>
    let s := shapeOf sh
    let rows := (List.range s.rows).map (fun r => decodeLine s.fmt ((List.range s.cols).map (s.code rd s.base r)))
    put (mapRegion s.outRows s.outCols (fun i j _ =>
      let v := if s.trans then (rows.getD j []).getD i (.fin false 0 0) else (rows.getD i []).getD j (.fin false 0 0)
      mldaElem op.tag v) (acc.rows op.tag))
  | .msta sh round phase sat tag =>
    let s := shapeOf sh
    let es := acc.rows tag
    let ps := (List.range s.rows).flatMap (fun r =>
      s.rowBytes (fun a => rd a 1) r (mstaRow s.fmt (tag = .int32) sat ((List.range s.cols).map (fun c =>
        let i := if s.trans then c else r
        let j := if s.trans then r else c
        (decodeF tag.fmt ((es.getD i []).getD j 0), rmode round i j phase)))))
    let ps := if s.overlaps then resolveWrites pick ps else ps
    x.store true (ps.map (fun p => (base + p.1, p.2)))
  | .mma sa sb fb steps incA incB neg accd spa =>
    let p : MmaP := ⟨shapeOf sa, shapeOf sb, fb, steps, incA, incB, spa⟩
    put ((List.range steps).foldl (fun es t => mmaStep rd p op.tag neg (accd && t = 0) t es) (acc.rows op.tag))

/-- Whether a run of an operation draws a free value. -/
def MatOp.overlaps (op : MatOp) : Bool :=
  match op.kind with
  | .msta sh _ _ _ _ => (shapeOf sh).overlaps
  | _ => false

/-! ## Issue (R238, R246, R247) -/

/-- Queue an operation and set the accumulator's tag. -/
def Core.enqueueMat (x : Core) (op : MatOp) : Core :=
  { x with matQ := x.matQ ++ [op], accs := x.accs.set op.acc { x.acc op.acc with tag := op.tag } }

/-- The core's number of a group's accumulator, when the group has it (R228). -/
def Group.accNum (g : Group) (c : Nat) : Option Nat := if c < g.lrec.nacc then some (g.accs.getD c 0) else none

/-- The current team's core with an operation queued; the team goes on. -/
def Mach.queueMat (m : Mach) (acc : Nat) (tag : AccTag) (kind : MatKind) (cycles : Nat) : Mach :=
  let t := m.team
  let op : MatOp := { group := t.group, acc := acc, tag := tag, kind := kind, issued := m.now, cycles := cycles }
  m.setCore m.cur.core ((m.myCore.enqueueMat op).setTeam m.cur.place t.retire)

/-- An MMA or an MLOOP. -/
def Mach.mmaRun (m : Mach) (i : Instr) (c : Nat) (neg accd spa : Bool) (sa sb : Word) (fo : Option Word) (steps : Nat)
    (incA incB : Int) : Mach :=
  match m.group.accNum c with
  | none => m.trap ⟨cRESERVED, infoWord ((encode i).getD 0)⟩
  | some n =>
    match m.checkMma (m.myCore.acc n).tag accd ⟨shapeOf sa, shapeOf sb, none, steps, incA, incB, spa⟩ fo with
    | .error r => m.trap r
    | .ok p => m.queueMat n p.accFmt (.mma sa sb p.fb steps incA incB neg accd spa) (steps * p.interval)

/-- MMA (R235 to R239, R413). -/
def execMma (s : Bool) (c : BitVec 3) (a b f : Reg) (n x : Bool) (st : State) : Host.Outcome State Fault Refusal :=
  word (fun m =>
    let t := m.team
    m.mmaRun (.mma s c a b f n x) c.toNat n x s (t.rs a.toNat) (t.rs b.toNat)
      (if f = 0 then none else some (t.rs f.toNat)) 1 0 0) st

/-- The fields of the loop register (R241). -/
def loopSteps (w : Word) : Nat := bits w 63 56 + 1
def loopIncA (w : Word) : Int := signed (bits w 55 36) 20
def loopIncB (w : Word) : Int := signed (bits w 35 16) 20
def loopBlock (w : Word) : Option Word := if bitOf w 15 then some (BitVec.ofNat 64 (32 * bits w 14 0)) else none

/-- MLOOP (R241, R412). -/
def execMloop (s : Bool) (c : BitVec 3) (a b l : Reg) (n x : Bool) (st : State) : Host.Outcome State Fault Refusal :=
  word (fun m =>
    let t := m.team
    let w := t.rs l.toNat
    m.mmaRun (.mloop s c a b l n x) c.toNat n x s (t.rs a.toNat) (t.rs b.toNat) (loopBlock w)
      (loopSteps w) (loopIncA w) (loopIncB w)) st

/-- MZERO (R243). -/
def execMzero (c : BitVec 3) (f : BitVec 2) (s : State) : Host.Outcome State Fault Refusal :=
  word (fun m => if f = 3 then m.trap ⟨cILLEGAL, infoWord ((encode (.mzero c f)).getD 0)⟩ else match m.group.accNum c.toNat with
    | none => m.trap ⟨cRESERVED, infoWord ((encode (.mzero c f)).getD 0)⟩
    | some n => m.queueMat n (AccTag.ofAF f.toNat) .mzero 1) s

/-- MLDA's source formats (R244). -/
def mldaFormat : AccTag → Nat → Bool
  | .fp32, f => [10, 8, 9, 19, 20, 18].contains f
  | .fp64, f => [11, 10, 8, 9, 19, 20, 18].contains f
  | .int32, f => [2, 1, 5, 0, 4, 16, 17].contains f

/-- Checks 7 to 10 and 14 of MLDA's or MSTA's shape record. -/
def tileFailures (s : Shp) (tag : AccTag) (fmtOk : Bool) (limit : Nat) : List TrapReq :=
  trapIf (!fmtOk) (matBad 7 2 0) ++ trapIf (decide (64 < s.outRows) || decide (tag.cols < s.outCols)) (matBad 7 3 0) ++
  trapIf (s.four && s.cstr ≠ 1) (matBad 7 4 0) ++ trapIf (!s.aligned s.base) (matBad 7 5 0) ++
  matBounds limit 7 0 (s.span s.base).1 (s.span s.base).2

/-- Cycles of MLDA and MSTA (R246). -/
def transferCycles (s : Shp) (tag : AccTag) : Nat := max 4 ((s.rows * s.cols * tag.size + 511) / 512)

/-- MLDA (R244). -/
def execMlda (c : BitVec 3) (a : Reg) (f : BitVec 2) (s : State) : Host.Outcome State Fault Refusal :=
  word (fun m => if f = 3 then m.trap ⟨cILLEGAL, infoWord ((encode (.mlda c a f)).getD 0)⟩ else match m.group.accNum c.toNat with
    | none => m.trap ⟨cRESERVED, infoWord ((encode (.mlda c a f)).getD 0)⟩
    | some n =>
      let w := m.team.rs a.toNat
      let sh := shapeOf w
      let tag := AccTag.ofAF f.toNat
      match firstTrap [tileFailures sh tag (mldaFormat tag sh.fmt) m.group.tileSize,
        lockFailures m.myCore m.now m.team.group false [sh.span sh.base]] with
      | .error r => m.trap r
      | .ok () => m.queueMat n tag (.mlda w) (transferCycles sh tag)) s

/-- Word 3 of a format-block record (R232): PHASE, and its reserved bits. -/
def phaseOf (w : Word) : Nat := bits w 63 58

/-- MSTA (R245). -/
def Mach.msta (m : Mach) (n : Nat) (w : Word) (fo : Option Word) : Mach :=
  let g := m.group
  let x := m.myCore
  let sh := shapeOf w
  let tag := (x.acc n).tag
  let at3 : Nat := match fo with | some o => o.toNat + 24 | none => 0
  match firstTrap [match fo with | some o => blockFailures g.tileSize o | none => []] with
  | .error r => m.trap r
  | .ok () =>
    let w3 := match fo with | some _ => (x.readTile g at3 1).headD 0 | none => 0
    let word3 : List (Int × Int) := match fo with | some _ => [((at3 : Int), (at3 + 8 : Nat))] | none => []
    match firstTrap [trapIf (bits w3 57 0 ≠ 0) (matBad 2 1 0), tileFailures sh tag (fmtBits sh.fmt ≠ 0) g.tileSize,
      lockFailures x m.now m.team.group true (word3 ++ [sh.span sh.base])] with
    | .error r => m.trap r
    | .ok () =>
      let p := phaseOf w3
      let dith := m.team.round = 5
      let x := if dith && fo.isSome then
          x.store true ((leBytes (setBits w3 63 58 (p + 37)).toNat 8).zipIdx.map (fun q => (g.tileBase + at3 + q.2, q.1)))
        else x
      (m.setCore m.cur.core x).queueMat n tag (.msta w m.team.round p m.team.sat tag) (transferCycles sh tag)

def execMsta (c : BitVec 3) (a b : Reg) (s : State) : Host.Outcome State Fault Refusal :=
  word (fun m => match m.group.accNum c.toNat with
    | none => m.trap ⟨cRESERVED, infoWord ((encode (.msta c a b)).getD 0)⟩
    | some n => m.msta n (m.team.rs a.toNat) (if b = 0 then none else some (m.team.rs b.toNat))) s

/-! ## Waits (R246, R247) -/

/-- Operations issued and not yet ended, oldest first. -/
def Core.matOps (x : Core) : List MatOp := x.matRun.toList ++ x.matQ

/-- Whether an access to group-relative tile bytes [lo, hi) must wait for an operation that satisfies p. -/
def Core.matConflict (x : Core) (group : Nat) (lo hi : Int) (write : Bool) (p : MatOp → Bool) : Bool :=
  x.matOps.any (fun op => op.group = group && p op &&
    op.kind.touches.any (fun r => decide (r.1 < hi) && decide (lo < r.2.1) && (write || r.2.2)))

/-- Whether some team's store to the tile store of a group, of those that satisfy p, has still to write in [lo, hi) (R247). -/
def Core.tileStorePending (x : Core) (core group : Nat) (lo hi : Int) (p : QueuedStore → Bool) : Bool :=
  let base := (x.group group).tileBase
  List.any x.teams (fun t => t.2.storeQ.any (fun q => q.core = core && q.tile && p q &&
    q.bytes.any (fun b => decide (lo + base ≤ b.1) && decide ((b.1 : Int) < hi + base))))

/-- Whether a matrix instruction can issue: room in the queue, the team's store queue empty, and no earlier operation and no team's earlier
store in the way of its format-block record, which is read at issue (R246, R247). -/
def Mach.matReady (m : Mach) (fo : Option Word) (write : Bool) : Bool :=
  let x := m.myCore
  m.team.storeQ.isEmpty && decide (x.matOps.length < 16) &&
  (match fo with
    | some o => !x.matConflict m.team.group o.toNat (o.toNat + 32 : Nat) write (fun _ => true) &&
      !x.tileStorePending m.cur.core m.team.group o.toNat (o.toNat + 32 : Nat) (fun _ => true)
    | none => true)

/-- Whether a local access of checked offsets can issue: after the matrix operations that came first, and not into a bank under test (R247,
R322). An access that still waits counts as issued only in the cycle after its wait ends, as R247 says, so it also waits behind operations that
issued after it became ready. MODEL'S CHOICE where R247 names the end of one earlier operation only (log entry 114). -/
def Mach.tileReady (m : Mach) (r : Reach) (offs : List Int) (n : Nat) (write : Bool) : Bool :=
  let x := m.core r.core
  !r.tile || (x.matOps.isEmpty && x.tileTests.isEmpty) ||
  (match m.checkLocal r offs n write with
    | .error _ => true
    | .ok () => offs.all (fun o => !x.testing (r.rel o) n && !x.matConflict r.group (r.rel o) (r.rel o + n : Nat) write (fun _ => true)))

end Sys2Proof.Machine
end

