-- ==== Sys2Proof/Machine/Crc.lean ====
section
/-! DEFINITION. CRC-32C (R169), of copied bytes and of flits, and the flits of the Penuf ports (R298, R299). -/

namespace Sys2Proof.Machine

/-- The eight shifts of one byte. -/
def crcShift (c : BitVec 32) : (n : Nat) → BitVec 32
  | 0 => c
  | n + 1 => crcShift (if c.getLsbD 0 then (c >>> 1) ^^^ 0x82F63B78#32 else c >>> 1) n

/-- CrcAdd for one byte. -/
def crcByte (c : BitVec 32) (b : Byte) : BitVec 32 := crcShift (c ^^^ b.setWidth 32) 8

/-- CrcAdd over bytes in order. -/
def crcBytes (c : BitVec 32) : List Byte → BitVec 32
  | [] => c
  | b :: bs => crcBytes (crcByte c b) bs

/-- The CRC of a running value. -/
def crcFinal (c : BitVec 32) : BitVec 32 := c ^^^ 0xFFFFFFFF#32

/-- The CRC of bytes. -/
def crc32c (bs : List Byte) : BitVec 32 := crcFinal (crcBytes 0xFFFFFFFF#32 bs)

/-! ## Flits (R298, R299) -/

/-- A flit's header. -/
def flitHeader (ty seq ackseq : Nat) : Word := wordOf [(56, ty), (44, seq % 4096), (32, ackseq % 4096)]

/-- A flit from its header and payload of 240 bytes. -/
def flitOf (ty seq ackseq : Nat) (payload : List Byte) : List Byte :=
  let body := leBytes (flitHeader ty seq ackseq).toNat 8 ++ payload
  body ++ leBytes (crc32c body).toNat 4 ++ leBytes 0 4

/-- The payload of a link-control flit. -/
def noPayload : List Byte := List.replicate 240 0

def Fabric.port (f : Fabric) (p : Nat) : Port := f.ports.get Port.initial p
def Fabric.setPort (f : Fabric) (p : Nat) (x : Port) : Fabric := { f with ports := f.ports.set p x }

/-- Waiting payloads sent while the replay buffer of 256 has room. -/
def Port.drain : (n : Nat) → Port → Port
  | 0, x => x
  | n + 1, x =>
    match x.out with
    | [] => x
    | p :: rest =>
      if 256 ≤ x.replay.length then x
      else
        let flit := flitOf 1 x.txSeq x.rxSeq p.2
        Port.drain n { x with out := rest, replay := x.replay.set x.txSeq flit, txSeq := (x.txSeq + 1) % 4096, line := x.line ++ [flit] }

/-- The flits of the replay buffer from a number on, in the order in which they were first sent. -/
def Port.from_ (x : Port) (seq : Nat) : List (List Byte) :=
  List.map Prod.snd (sortBy x.replay (fun a b => decide ((a.1 + 4096 - seq) % 4096 ≤ (b.1 + 4096 - seq) % 4096)))

/-- A transaction sent on a port: one data flit, which keeps the hash of its target and granule while it waits. -/
def Fabric.sendOn (f : Fabric) (p dev va : Nat) : Fabric :=
  let x := f.port p
  let payload := leBytes (Config.flitPayload p x.txSeq).toNat 240
  f.setPort p (Port.drain 1 { x with out := x.out ++ [(Config.portHash dev (va / 4096), payload)] })

/-- The ports that are up. -/
def Fabric.upPorts (f : Fabric) : List Nat := (List.range 16).filter (fun p => (f.port p).up)

/-- The port for a transaction to a device and a 4 KiB granule, if any is up (R299). -/
def Fabric.portFor (f : Fabric) (dev va : Nat) : Option Nat :=
  let up := f.upPorts
  if up.isEmpty then none else some (up.getD (Config.portHash dev (va / 4096) % up.length) 0)

end Sys2Proof.Machine
end

