-- ==== Sys2Proof/Machine/CopyPost.lean ====
section
/-! DEFINITION. CPOST, CQSTAT, CCANCEL and the range-lock table, major 0x16 (R145 to R151, R384 to R387). -/

namespace Sys2Proof.Machine

/-! ## The range-lock table (R145) -/

/-- Free entries of a core's range-lock table. -/
def Core.freeLocks (x : Core) : Nat := 64 - x.locks.length

/-- Register a range. MODEL'S CHOICE: it takes the lowest free entry of its core's table, and a command's ranges take theirs in the order
destination, source, index list, word 7; R145 gives no order, and TRAPINFO.ENTRY shows it (log entry 113). -/
def Mach.addLock (m : Mach) (r : Range) (ocore queue slot : Nat) (coll : Option Nat) : Mach :=
  let x := m.core r.core
  match x.locks.firstFree 64 0 with
  | none => m
  | some e =>
    let l : Lock := { tile := r.tile, rw := r.rw, queue := queue, slot := slot, group := r.group, start := r.start,
                      stop := r.stop, ocore := ocore, coll := coll, from_ := m.now + 1 }
    m.setCore r.core { x with locks := x.locks.set e l }

def Mach.addLocks (m : Mach) (ocore queue slot : Nat) (coll : Option Nat) : List Range → Mach
  | [] => m
  | r :: rs => (m.addLock r ocore queue slot coll).addLocks ocore queue slot coll rs

/-- Whether every core that the ranges reach has entries enough. -/
def Mach.locksFit (m : Mach) (rs : List Range) : Bool :=
  rs.all (fun r => decide ((rs.filter (fun q => q.core = r.core)).length ≤ (m.core r.core).freeLocks))

/-- Free every entry, on every core, that satisfies p; the task unit sees them until the next cycle (R253). -/
def Mach.freeLocks (m : Mach) (p : Lock → Bool) : Mach :=
  { m with cores := m.cores.map (fun _ x => { x with locks := x.locks.filter (fun _ l => !p l),
                                                      freed := x.freed ++ List.map Prod.snd (x.locks.filter (fun _ l => p l)) }) }

/-- The entries of a command of a core. -/
def ofCommand (core queue slot : Nat) (l : Lock) : Bool :=
  l.ocore = core && l.queue = queue && l.slot = slot && l.coll.isNone

/-! ## Queues (R148, R150) -/

/-- Key of an entry. -/
def cmdKey (q slot : Nat) : Nat := 64 * q + slot

/-- The lowest free entry of a queue. -/
def Core.freeSlot (x : Core) (q : Nat) : Option Nat := (List.range 64).find? (fun s => !x.cmds.has (cmdKey q s))

/-- The commands of a queue. -/
def Core.queueCmds (x : Core) (q : Nat) : Tab Cmd := x.cmds.filter (fun k _ => k / 64 = q)

/-- A record offset's checks at CPOST: step 2 of R385. -/
def Mach.postOffset (m : Mach) (off : Int) : Except TrapReq Unit :=
  let g := m.group
  if off % 64 ≠ 0 then .error ⟨cMISALIGNED, wordOfInt off⟩
  else if off < 0 ∨ (g.spSize : Int) < off + 64 then .error ⟨cSCRATCH_BOUNDS, wordOfInt off⟩
  else
    match lockHit (m.myCore.seenLocks m.now) false m.team.group off.toNat 64 false with
    | some e => .error ⟨cRANGE_LOCK, lockInfo e off.toNat false⟩
    | none => .ok ()

/-- The eight words at an offset of the current team's group. -/
def Mach.recordAt (m : Mach) (off : Nat) : List Word := (List.range 8).map (fun k => m.myCore.readSp m.group (off + 8 * k))

/-- The record at an offset, checked, with its layouts. -/
def Mach.postCheck (m : Mach) (off : Nat) : Checked :=
  let ws := m.recordAt off
  m.checkRecord m.cur.core m.team.group m.team.tid true ws
    (m.layoutOf m.cur.core m.team.group (ws.getD 1 0)) (m.layoutOf m.cur.core m.team.group (ws.getD 2 0))

/-- The offsets of the doublewords that a word names if it is the handle of a layout record. -/
def Mach.layoutOffs (m : Mach) (w : Word) : List Nat :=
  if (m.layoutOf m.cur.core m.team.group w).isSome then recordOffs (64 * handleNum w) 8 else []

/-- The offsets that a post reads in its group's partition: the record, and the layout records that a data command names (R149). -/
def Mach.postOffs (m : Mach) (off : Nat) : List Nat :=
  let ws := m.recordAt off
  let kind := cKIND (ws.getD 0 0)
  recordOffs off 8 ++ (if kind < 3 then m.layoutOffs (ws.getD 1 0) else []) ++ (if kind < 4 then m.layoutOffs (ws.getD 2 0) else [])

/-- The index list of a GATHER or SCATTER is read for its bounding interval (R145): the machine after it, or after its trap. -/
def Mach.readIndex (m : Mach) (ws : List Word) : Except Mach Mach :=
  let kind := cKIND (ws.getD 0 0)
  match if kind = 1 ∨ kind = 2 then m.spotOf m.cur.core m.team.group m.team.tid true (ws.getD 3 0) else none with
  | none => .ok m
  | some s =>
    let offs := (List.range (bits (ws.getD 4 0) 39 0)).map (fun k => s.reach.rel s.off + 4 * k)
    match (m.core s.reach.core).readWords (m.groupAt s.reach.core s.reach.group) offs with
    | .error r => .error (m.trapWords s.reach.core s.reach.group r)
    | .ok x => .ok (m.setCore s.reach.core x)

/-- The ranges that a post registers: word 7 of the record as well (R145). -/
def Mach.postRanges (m : Mach) (off : Nat) (c : Checked) : List Range :=
  c.ranges ++ [⟨m.cur.core, m.team.group, false, false, off + 56, off + 64⟩]

/-- A queue entry as CPOST fills it. -/
def newCmd (group tid team flag off now : Nat) (words : List Word) (src dst : Option (List Word)) : Cmd :=
  { group, tid, team, flag, off, words := words.take 7, src, dst, postedAt := now, accepted := false, order := 0,
    started := false, state := .posted, fault := 0, done := 0, crc := 0xFFFFFFFF#32, cvtInv := false, cvtOvf := false,
    hintDrop := false, crcBad := false, idQueue := 0, idSlot := 0, svc := 0, cancelling := false, stage := 0, waits := [],
    fills := [], asked := [], replay := none, watchVal := none, token := none, answers := [], remoteFault := 0, peers := [] }

/-- CPOST on queue q with record offset sA (R385): the machine after it, or after its trap. -/
def Mach.post (m : Mach) (off : Int) (q : Nat) (fb : Bool) : Except Mach Mach :=
  match m.postOffset off with
  | .error r => .error (m.trap r)
  | .ok () =>
    let o := off.toNat
    match m.myCore.readWords m.group (m.postOffs o) with
    | .error r => .error (m.trapRecord r)
    | .ok x =>
    let m := m.setCore m.cur.core x
    let c := m.postCheck o
    match leastFailure c.failures with
    | some f => .error (m.trap ⟨cRECORD_INVALID, recordInfo o f⟩)
    | none =>
      match m.readIndex (m.recordAt o) with
      | .error r => .error r
      | .ok m =>
      match m.myCore.freeSlot q with
      | none => .ok m
      | some slot =>
        let t := m.team
        let f := t.flagOf fb
        let cmd := newCmd t.group t.tid m.cur.place f o m.now (m.recordAt o) c.src c.dst
        let cmd := { cmd with idQueue := q, idSlot := slot }
        let m := m.addLocks m.cur.core q slot none (m.postRanges o c)
        let x := m.myCore
        .ok (m.setCore m.cur.core ({ x with cmds := x.cmds.set (cmdKey q slot) cmd }.setTeam m.cur.place (t.countUp f).retire))

/-- CPOST (R385). -/
def execCpost (a : Reg) (q : BitVec 2) (f : Bool) (s : State) : Host.Outcome State Fault Refusal :=
  word (fun m => match m.post (m.team.rs a.toNat).toInt q.toNat f with
    | .ok m' => m'
    | .error m' => m') s

/-- CPOST may issue: the store queue is empty, the queue has a free entry, and the lock table has room; a record that traps needs none
(R385). -/
def Mach.cpostReady (m : Mach) (off : Int) (q : Nat) : Bool :=
  m.team.storeQ.isEmpty && (m.myCore.freeSlot q).isSome &&
  (match m.postOffset off with
    | .error _ => true
    | .ok () =>
      let c := m.postCheck off.toNat
      (match m.myCore.readWords m.group (m.postOffs off.toNat) with | .error _ => true | .ok _ => false) || (leastFailure c.failures).isSome || m.locksFit (m.postRanges off.toNat c))

/-- CQSTAT's snapshot of a queue (R387). -/
def Core.queueStatus (x : Core) (group q : Nat) : Word :=
  let all := x.queueCmds q
  let mine := all.filter (fun _ c => c.group = group)
  let n (p : Cmd → Bool) : Nat := (mine.filter (fun _ c => p c)).length
  wordOf [(40, x.freeLocks), (32, 64 - all.length), (24, mine.length), (16, n (fun c => c.state = .suspended)),
    (8, n (fun c => c.state = .running)), (0, n (fun c => c.state = .posted))]

/-- CQSTAT (R387). -/
def execCqstat (d : Reg) (q : BitVec 2) (s : State) : Host.Outcome State Fault Refusal :=
  word (fun m => onTeam (fun t => .ok (t.ws d.toNat (m.myCore.queueStatus t.group q.toNat))) m) s

/-- Whether CCANCEL can name a command: POSTED, RUNNING or SUSPENDED (R384). -/
def Cmd.cancellable (c : Cmd) : Bool := c.state = .posted || c.state = .running || c.state = .suspended

/-- Whether command b was accepted after a; one that is not yet accepted comes last, by its post (R384). -/
def laterThan (a b : Cmd) : Bool :=
  if b.accepted then a.accepted && decide (a.order < b.order)
  else a.accepted || decide (a.postedAt ≤ b.postedAt)

/-- The command that CCANCEL chooses: the most recently accepted one of the group with that record. -/
def Core.cancelTarget (x : Core) (group : Nat) (off : Word) : Option Nat :=
  (List.foldl (fun (best : Option (Nat × Cmd)) (p : Nat × Cmd) =>
    if p.2.group = group ∧ BitVec.ofNat 64 p.2.off = off ∧ p.2.cancellable then
      (match best with
        | none => some p
        | some b => if laterThan b.2 p.2 then some p else some b)
    else best) none x.cmds).map Prod.fst

/-- A command marked for cancellation: it retires nothing more (R177). -/
def Core.cancel (x : Core) (key : Nat) : Core := { x with cmds := x.cmds.modify key (fun c => { c with cancelling := true }) }

/-- CCANCEL on the machine: no trap, and no effect when no command matches. -/
def Mach.ccancel (m : Mach) (off : Word) : Mach :=
  let t := m.team
  let x := m.myCore
  let x := match x.cancelTarget t.group off with
    | some k => x.cancel k
    | none => x
  m.setCore m.cur.core (x.setTeam m.cur.place t.retire)

/-- CCANCEL (R384). -/
def execCcancel (a : Reg) (s : State) : Host.Outcome State Fault Refusal :=
  word (fun m => m.ccancel (m.team.rs a.toNat)) s

end Sys2Proof.Machine
end

