-- ==== Sys2Proof/Machine/EvTeam.lean ====
section
/-! DEFINITION. What comes to a team by itself: the end of a vector instruction's passes, results that become readable, the divider, and
the end of a YIELD (R118, R138, R333, R416, R447, R458). -/

namespace Sys2Proof.Machine

/-- An event of the machine part. -/
def machEvent (f : Mach → Option Mach) (s : State) : Host.Outcome State Fault Refusal :=
  happen (fun s => (f s.m).map (fun m => { s with m := m })) s

/-- The list without its last item that satisfies p, and that item. -/
def takeLast {α : Type} (p : α → Bool) : List α → Option (α × List α)
  | [] => none
  | x :: xs =>
    match takeLast p xs with
    | some (y, ys) => some (y, x :: ys)
    | none => if p x then some (x, xs) else none

/-- VECTOR_FINAL_PASS: a vector instruction whose final pass is over, the earliest issued first, raises its flags in STATUS (R118). -/
def vectorFinalPass (c p : Nat) (m : Mach) : Option Mach :=
  match (m.core c).teams.find? p with
  | none => none
  | some t =>
    match takeLast (fun r => decide (r.due < m.now)) t.passes with
    | none => none
    | some (r, rest) => some (m.setTeamAt c p { t with passes := rest, status := raise t.status r.flags })

def execVectorFinalPass (c p : Nat) (s : State) := machEvent (vectorFinalPass c p) s

/-- A pending result of a kind whose time has come is readable, and its flag count falls; a terminated team whose flags are clear has then
EXITED (R333, R278). -/
def resultReady (k : PendKind) (c p : Nat) (m : Mach) : Option Mach :=
  let x := m.core c
  match x.teams.find? p with
  | none => none
  | some t =>
    match takeLast (fun q => q.kind = k && decide (q.due ≤ m.now)) t.pend with
    | none => none
    | some (q, rest) =>
      let t := { t with pend := rest }
      let t := match q.flag with | some f => t.countDown f | none => t
      some (m.setCore c ((x.setTeam p t).settle p))

/-- LOAD_DATA_READY (R138). -/
def execLoadDataReady (c p : Nat) (s : State) := machEvent (resultReady .load c p) s

/-- SPECIAL_FUNCTION_READY (R447). -/
def execSpecialFunctionReady (c p : Nat) (s : State) := machEvent (resultReady .special c p) s

/-- DIVIDER_FREE (R416): the divider's result is readable on the core's team that waits for one. -/
def dividerFree (c : Nat) (m : Mach) : Option Mach :=
  let x := m.core c
  if x.dividerFree = 0 ∨ m.now < x.dividerFree then none
  else
    let done (t : Team) : Team := { t with pend := t.pend.filter (fun q => q.kind ≠ .divider || decide (m.now < q.due)) }
    some (m.setCore c { x with dividerFree := 0, teams := x.teams.map (fun _ t => done t) })

def execDividerFree (c : Nat) (s : State) := machEvent (dividerFree c) s

/-- YIELD_EXPIRY (R458). -/
def yieldExpiry (c p : Nat) (m : Mach) : Option Mach :=
  match (m.core c).teams.find? p with
  | none => none
  | some t =>
    match t.yielding with
    | none => none
    | some e => if m.now < e then none else some (m.setTeamAt c p { t with yielding := none })

def execYieldExpiry (c p : Nat) (s : State) := machEvent (yieldExpiry c p) s

end Sys2Proof.Machine
end

