-- ==== Sys2Proof/Machine/EvMatrix.lean ====
section
/-! DEFINITION. The matrix engine's events and the ramp limiter (R246 to R248, R321). -/

namespace Sys2Proof.Machine

/-- The unit of `time`: this many are one nanosecond. -/
def nsUnits : Nat := 144403552893600

/-- The unit of `time`, ten times over: a cycle at 100 MHz × fcur lasts 1/fcur of it (R22). -/
def cycleTime (fcur : Nat) : Nat := 10 * nsUnits / max 1 fcur

/-- Whole microseconds since reset. -/
def Mach.us (m : Mach) : Nat := m.time / (1000 * nsUnits)

/-- Cycles of the present microsecond: those that have gone by, and those that begin before its end at the present clock (R22, R321). -/
def Mach.usCycles (m : Mach) : Nat :=
  (m.now - m.usStart) + ((m.us + 1) * (1000 * nsUnits) - m.time + cycleTime m.fcur - 1) / cycleTime m.fcur

def L2Side.die (l : L2Side) (d : Nat) : Die := l.dies.get Die.initial d
def L2Side.setDie (l : L2Side) (d : Nat) (x : Die) : L2Side := { l with dies := l.dies.set d x }
def L2Side.home (l : L2Side) (h : Nat) : Home := l.homes.get Home.initial h
def L2Side.setHome (l : L2Side) (h : Nat) (x : Home) : L2Side := { l with homes := l.homes.set h x }

/-- The ramp level of a core's die. -/
def State.ramp (s : State) (core : Nat) : Nat := (s.l2.die (dieOf core)).ramp

/-- Whether a core's engine may be occupied for one cycle more of this microsecond (R321). -/
def Mach.rampRoom (m : Mach) (core ramp : Nat) : Bool := decide (8 * ((m.core core).occupied + 1) ≤ ramp * m.usCycles)

/-- Stores of the core's teams to bytes that an operation touches and that issued no later than it (R247). MODEL'S CHOICE: a load or store of one team
and an operation of another that issue in one cycle on the same bytes are ordered with the load or store first; R247 settles no such tie (log entry
145). -/
def Core.tileStoresBefore (x : Core) (core : Nat) (op : MatOp) : Bool :=
  op.kind.touches.any (fun r => x.tileStorePending core op.group r.1 r.2.1 (fun q => decide (q.issued ≤ op.issued)))

/-- MATRIX_OP_START: the oldest queued operation starts in the cycle after the later of its issue and the end of the one before, within
the ramp limit. Its operands are read and its results written here; accesses that would see the difference wait for its end (R247). -/
def matrixOpStart (c : Nat) (s : State) : Option State :=
  let m := s.m
  let x := m.core c
  match x.matRun, x.matQ with
  | none, op :: rest =>
    if m.now ≤ op.issued ∨ (0 < x.matEnd ∧ m.now ≤ x.matEnd) ∨ !m.rampRoom c (s.ramp c) ∨ !x.tileTests.isEmpty ∨ x.tileStoresBefore c op then none
    else
      let x := x.runMat op (Config.freeWinner s.free)
      some { s with m := m.setCore c { x with matQ := rest, matRun := some op, matEnd := m.now + op.cycles - 1 },
                    free := s.free + b2n op.overlaps }
  | _, _ => none

def execMatrixOpStart (c : Nat) (s : State) := happen (matrixOpStart c) s

/-- MATRIX_OP_COMPLETE: the operation's occupancy is over and its queue entry is free. -/
def matrixOpComplete (c : Nat) (m : Mach) : Option Mach :=
  let x := m.core c
  match x.matRun with
  | none => none
  | some _ => if m.now ≤ x.matEnd then none else some (m.setCore c { x with matRun := none })

def execMatrixOpComplete (c : Nat) (s : State) := machEvent (matrixOpComplete c) s

/-- One cycle of a core's engine: occupied, or an empty slot that the ramp limiter inserts (R321). -/
def Core.matCycle (x : Core) (now limit8 : Nat) : Core :=
  match x.matRun, x.matQ with
  | some _, _ =>
    if x.matEnd < now then x
    else if 8 * (x.occupied + 1) ≤ limit8 then { x with occupied := x.occupied + 1 }
    else { x with matEnd := x.matEnd + 1, rampWait := true }
  | none, _ :: _ => if 8 * (x.occupied + 1) ≤ limit8 then x else { x with rampWait := true }
  | none, [] => x

/-- The level that a die's limiter moves to. -/
def rampNext (level cap us : Nat) (cores : List Core) : Nat :=
  let up := cores.any Core.rampWait
  let idle := cores.all (fun x => decide (8 * x.occupied ≤ (level - 1) * us))
  min cap (if up then min 8 (level + 1) else if idle then max 1 (level - 1) else level)

/-- RAMP_ADJUST: at a microsecond boundary, whose first cycle begins, every die's level moves by at most one and the engines' counts start again. -/
def rampAdjust (s : State) : Option State :=
  let m := s.m
  if m.us ≤ m.rampUs then none
  else
    let step (l2 : L2Side) (d : Nat) : L2Side :=
      let x := l2.die d
      l2.setDie d { x with ramp := rampNext x.ramp x.rampCap (m.now - m.usStart) ((List.range 80).map (fun k => m.core (80 * d + k))) }
    some { s with
      l2 := (List.range 4).foldl step s.l2
      m := { m with rampUs := m.us, usStart := m.now, cores := m.cores.map (fun _ x => { x with occupied := 0, rampWait := false }) } }

def execRampAdjust (s : State) := happen rampAdjust s

end Sys2Proof.Machine
end

