-- ==== Sys2Proof/Machine/Homes.lean ====
section
/-! DEFINITION. Homes and die L2s as named operations: reads, writes and atomics at a home, watches, L2 lines, fills, write-backs,
releases and generation bumps (R178 to R201). -/

namespace Sys2Proof.Machine

/-! ## Commands by place -/

def State.cmd? (s : State) (core key : Nat) : Option Cmd := (s.m.core core).cmds.find? key

def Mach.setCmd (m : Mach) (core key : Nat) (c : Cmd) : Mach :=
  m.setCore core { m.core core with cmds := (m.core core).cmds.set key c }

def State.setCmd (s : State) (core key : Nat) (c : Cmd) : State := { s with m := s.m.setCmd core key c }

def State.die (s : State) (d : Nat) : Die := s.l2.die d
def State.setDie (s : State) (d : Nat) (x : Die) : State := { s with l2 := s.l2.setDie d x }
def State.home (s : State) (h : Nat) : Home := s.l2.home h
def State.setHome (s : State) (h : Nat) (x : Home) : State := { s with l2 := s.l2.setHome h x }

/-! ## Homes: sectors, cache, poison (R193, R194, R197) -/

/-- The home of an address; 8 stands for host memory, whose words are watched where they lie. -/
def homeOf (pa : Nat) : Nat := if inDevice pa then stackOf pa else 8

/-- The number of an address's 32-byte sector in its stack. -/
def sectorOf (pa : Nat) : Nat := stackAddr pa / 32

/-- A line used in a home cache of 16 ways: allocated, and a line of a full set makes room. MODEL'S CHOICE: R194 names no replacement order, and the least
recently used line goes (log entry 140). -/
def Home.touch (h : Home) (line : Nat) : Home :=
  let set (l : Nat) : Nat := Config.homeSet l % 8192
  let mates := h.cache.filter (fun l _ => l ≠ line && set l = set line)
  let oldest := mates.foldl (fun (b : Option (Nat × Nat)) p => match b with
    | none => some p
    | some q => if p.2 < q.2 then some p else some q) none
  let cache := match oldest with
    | some q => if 16 ≤ mates.length then h.cache.erase q.1 else h.cache
    | none => h.cache
  { h with cache := cache.set line h.clock, clock := h.clock + 1 }

/-- Whether some byte of [pa, pa + n) lies in a poisoned sector. -/
def State.poisoned (s : State) (pa n : Nat) : Bool :=
  inDevice pa && (List.range ((pa + n - 1) / 32 - pa / 32 + 1)).any (fun k =>
    (s.home (stackOf (32 * (pa / 32 + k)))).poison.contains (sectorOf (32 * (pa / 32 + k))))

/-- The sector of the addresses written, if all its 32 bytes are. -/
def wholeSectors (ps : List (Nat × Byte)) : List Nat :=
  let secs := distinct (ps.map (fun p => p.1 / 32))
  secs.filter (fun x => decide (32 ≤ (distinct ((ps.filter (fun p => p.1 / 32 = x)).map Prod.fst)).length))

/-- A home's records of a write: a whole sector's poison and error are cleared and its lines are in the cache. -/
def State.homeWritten (s : State) (ps : List (Nat × Byte)) : State :=
  let s := (wholeSectors ps).foldl (fun (s : State) x =>
    let h := stackOf (32 * x)
    s.setHome h { s.home h with poison := (s.home h).poison.filter (· ≠ sectorOf (32 * x)), errors := (s.home h).errors.erase (sectorOf (32 * x)) }) s
  (distinct (ps.map (fun p => p.1 / 128))).foldl (fun (s : State) l =>
    s.setHome (stackOf (128 * l)) ((s.home (stackOf (128 * l))).touch l)) s

/-! ## Answers to peers (R299, R301) -/

/-- An answer to a peer, sent on the port that its device and address choose; with no port up it is lost. This device itself is answered without
one. -/
def State.reply (s : State) (src cmd elem code : Nat) (value : Word) (at_ : Nat) : State :=
  if src = s.sys.devNum then { s with fab := { s.fab with sent := s.fab.sent ++ [.answer none src cmd elem code value] } }
  else
    match s.fab.portFor src at_ with
    | none => s
    | some p => { s with fab := { s.fab.sendOn p src at_ with sent := s.fab.sent ++ [.answer (some p) src cmd elem code value] } }

/-! ## Watches (R163, R196) -/

/-- Whether a value meets a watch's comparison. -/
def Watch.meets (w : Watch) (v : Word) : Bool :=
  let x := (v &&& w.mask).toNat
  let y := (w.cmp &&& w.mask).toNat
  match w.rel with
  | 0 => x = y
  | 1 => x ≠ y
  | 2 => decide (y ≤ x)
  | _ => decide (x < y)

/-- The value with which a watch is satisfied now, if it is. -/
def Watch.hit (w : Watch) (mem : Mem) : Option Word :=
  let v := BitVec.ofNat 64 (mem.readN w.pa w.size)
  if w.meets v then some v else none

/-- Armed watches that satisfy `touched` evaluated: those that stay, and those that are satisfied. -/
def evalWatches (mem : Mem) (touched : Watch → Bool) : List Watch → List Watch × List (Watch × Word)
  | [] => ([], [])
  | w :: ws =>
    let r := evalWatches mem touched ws
    match (if w.armed && touched w then w.hit mem else none) with
    | some v => (r.1, (w, v) :: r.2)
    | none => (w :: r.1, r.2)

/-- Waiting watches armed in arrival order while entries are free, each evaluated as it arms. -/
def armWatches (mem : Mem) : (room : Nat) → List Watch → List Watch × List (Watch × Word)
  | _, [] => ([], [])
  | room, w :: ws =>
    if w.armed || room = 0 then
      let r := armWatches mem room ws
      (w :: r.1, r.2)
    else
      match w.hit mem with
      | some v =>
        let r := armWatches mem room ws
        (r.1, (w, v) :: r.2)
      | none =>
        let r := armWatches mem (room - 1) ws
        ({ w with armed := true } :: r.1, r.2)

/-- What a satisfied watch does: its command holds the value, or its peer is answered. -/
def State.fire (s : State) (w : Watch) (v : Word) : State :=
  match w.owner with
  | .command core key => { s with m := s.m.setCore core { s.m.core core with
      cmds := (s.m.core core).cmds.modify key (fun c => { c with watchVal := some v }) } }
  | .remote src cmd =>
    if src = s.sys.devNum then
      { s with
        m := s.m.setCore (cmd / 256) { s.m.core (cmd / 256) with
          cmds := (s.m.core (cmd / 256)).cmds.modify (cmd % 256) (fun c => { c with watchVal := some v }) }
        fab := { s.fab with remotes := s.fab.remotes.filter (fun x => !(x.req.core = cmd / 256 && x.req.key = cmd % 256)) } }
    else s.reply src cmd 0 0 v w.pa

/-- A home's watches after an operation on it: evaluated, and waiting ones armed where entries are free. -/
def State.watchHome (s : State) (h : Nat) (touched : Watch → Bool) : State :=
  let x := s.home h
  let a := evalWatches s.mem touched x.watches
  let b := armWatches s.mem (4096 - (a.1.filter Watch.armed).length) a.1
  (a.2 ++ b.2).foldl (fun s p => s.fire p.1 p.2) (s.setHome h { x with watches := b.1 })

/-- Every watch on a byte written is evaluated. -/
def State.watchWrite (s : State) (ps : List (Nat × Byte)) : State :=
  (distinct (ps.map (fun p => homeOf p.1))).foldl (fun s h =>
    s.watchHome h (fun w => ps.any (fun p => decide (w.pa ≤ p.1) && decide (p.1 < w.pa + w.size)))) s

/-- A watch arrives at the home of its word. -/
def State.addWatch (s : State) (w : Watch) : State :=
  let h := homeOf w.pa
  (s.setHome h { s.home h with watches := (s.home h).watches ++ [w] }).watchHome h (fun _ => false)

/-- Every watch of a command disarmed. -/
def State.disarm (s : State) (owner : Waiter) : State :=
  { s with l2 := { s.l2 with homes := s.l2.homes.map (fun _ h => { h with watches := h.watches.filter (fun w => w.owner ≠ owner) }) } }

/-! ## Writing memory -/

/-- Bytes written at their homes, or in host memory: the one place where such a byte changes. -/
def State.storePairs (s : State) (ps : List (Nat × Byte)) : State :=
  let s := { s with mem := s.mem.writePairs ps }
  (s.homeWritten (ps.filter (fun p => inDevice p.1))).watchWrite ps

/-- A byte list with its addresses. -/
def pairsAt (pa : Nat) : List Byte → List (Nat × Byte)
  | [] => []
  | b :: bs => (pa, b) :: pairsAt (pa + 1) bs

def State.storeBytes (s : State) (pa : Nat) (bs : List Byte) : State := s.storePairs (pairsAt pa bs)

/-- A doubleword written. -/
def State.storeD (s : State) (pa : Nat) (v : Word) : State := s.storeBytes pa (leBytes v.toNat 8)

/-- A home's line read: it is in the home's cache afterwards. MODEL'S CHOICE: reads of hosts and peers, and those of a WATCH, allocate there as fills
do, of which R194 says nothing (log entry 141). -/
def State.touchLine (s : State) (pa : Nat) : State :=
  if inDevice pa then s.setHome (stackOf pa) ((s.home (stackOf pa)).touch (pa / 128)) else s

/-! ## Reductions and atomics (R162, R164, R309) -/

/-- One combining step of a format: 0 plain write, 1 ADD, 2 MIN, 3 MAX, 4 AND, 5 OR, 6 XOR. -/
def combine (op fmt x v : Nat) : Nat :=
  let n := fmtBits fmt
  match op with
  | 0 => v
  | 1 => if isFloat fmt then (finishF fmt .rne false (addF .rne (decodeF fmt x) (decodeF fmt v))).1 else (x + v) % 2 ^ n
  | 2 => if isFloat fmt then (minmaxF fmt false false x v).1
      else if fmtSigned fmt then (if signed v n < signed x n then v else x) else min x v
  | 3 => if isFloat fmt then (minmaxF fmt false true x v).1
      else if fmtSigned fmt then (if signed x n < signed v n then v else x) else max x v
  | 4 => x &&& v
  | 5 => x ||| v
  | _ => x ^^^ v

/-! ## Die L2 lines (R181 to R185) -/

def Die.gen (x : Die) (c : Nat) : Nat := x.gens.get 0 c

/-- Whether a byte of a line is usable under its class's present generation (R182). -/
def Line.usable (l : Line) (gen y : Nat) : Bool := l.dirty.getLsbD y || (l.sv.getLsbD (y / 32) && (l.rd || l.gen = gen))

def Line.anyUsable (l : Line) (gen : Nat) : Bool := l.dirty ≠ 0 || (l.sv ≠ 0 && (l.rd || l.gen = gen))

/-- The dirty bytes of a line with their addresses. -/
def Line.dirtyPairs (l : Line) (line : Nat) : List (Nat × Byte) :=
  (List.range 128).filterMap (fun y => if l.dirty.getLsbD y then some (128 * line + y, l.data.get 0 y) else none)

/-- Ways of a slice that may be allocated (R322). -/
def Die.waysOf (x : Die) (slice : Nat) : Nat := 16 - (distinct ((x.waysOff.filter (fun w => w.1 = slice)).map Prod.snd)).length

/-- Whether a slice keeps no line: it is bypassed, or none of its ways is in use (R322). -/
def Die.bypasses (x : Die) (pa : Nat) : Bool := x.bypassed.contains (sliceOf pa) || x.waysOf (sliceOf pa) = 0

/-- A message to a home. -/
def Die.addMsg (x : Die) (line cls : Nat) (kind : MsgKind) (rdup : Bool) : Die :=
  { x with msgs := x.msgs ++ [⟨x.nextMsg, line, cls, kind, rdup⟩], nextMsg := x.nextMsg + 1 }

/-- Write-back of a line (R185): its dirty bytes are merged at the home and DIRTY is cleared; SV and GEN stay. -/
def State.writeBackLine (s : State) (d line : Nat) : State :=
  match (s.die d).lines.find? line with
  | none => s
  | some l =>
    if l.dirty = 0 then s
    else
      let s := s.storePairs (l.dirtyPairs line)
      s.setDie d { s.die d with lines := (s.die d).lines.set line { l with dirty := 0 } }

/-- A line leaves the die, its dirty bytes written back; the acknowledgement is outstanding (R183, R184, R188). -/
def State.dropLine (s : State) (d line : Nat) : State :=
  match (s.die d).lines.find? line with
  | none => s
  | some l =>
    let s := s.writeBackLine d line
    let x := s.die d
    let x := { x with lines := x.lines.erase line }
    s.setDie d (if l.dirty = 0 then x else x.addMsg line l.cls .performed false)

/-! ## Detected errors (R322) -/

/-- Every line of a slice leaves a die. -/
def State.emptySlice (s : State) (d slice : Nat) : State :=
  ((s.die d).lines.filter (fun l _ => sliceOf (128 * l) = slice)).keys.foldl (fun s l => s.dropLine d l) s

/-- The structure goes out of service for its test. The parent of an L2 way is its slice's number on the device, 32 × die + slice. -/
def State.outOfService (s : State) (e : ErrorSite) : State :=
  match e.unit with
  | .scratchBank =>
    let x := s.m.core e.parent
    { s with m := s.m.setCore e.parent { x with testBanks := e.number :: x.testBanks } }
  | .tileBank =>
    let x := s.m.core e.parent
    { s with m := s.m.setCore e.parent { x with tileTests := e.number :: x.tileTests } }
  | .l2Way =>
    let d := e.parent / 32
    let x := s.die d
    let s := s.setDie d { x with waysOff := (e.parent % 32, e.number) :: x.waysOff }
    if (s.die d).waysOf (e.parent % 32) = 0 then s.emptySlice d (e.parent % 32) else s
  | .l2Slice =>
    let s := s.emptySlice e.parent e.number
    s.setDie e.parent { s.die e.parent with bypassed := e.number :: (s.die e.parent).bypassed }
  | .hbmRow => s.setHome e.parent { s.home e.parent with rowTests := e.number :: (s.home e.parent).rowTests }
  | .penufLane =>
    let p := s.fab.ports.get Port.initial e.parent
    { s with fab := { s.fab with ports := s.fab.ports.set e.parent { p with up := false } } }
  | .pcieLane => s

/-- The bank of a core that holds a word: a bank of the tile store, or a data or parity bank of the scratchpad (R139, R141). -/
def errorBank (tile : Bool) (w core : Nat) : ErrorSite :=
  { unit := if tile then .tileBank else .scratchBank, number := if tile ∨ w < 65536 then w % 32 else 32 + w % 4, parent := core }

/-- An error joins the test of its structure, or starts one. -/
def State.detect (s : State) (e : ErrorSite) : State :=
  if s.sys.tests.any (fun t => t.site = e) then
    { s with sys := { s.sys with tests := s.sys.tests.map (fun t => if t.site = e then { t with count := t.count + 1 } else t) } }
  else
    let t : SelfTest := { site := e, count := 1, started := s.m.time }
    { s with sys := { s.sys with tests := s.sys.tests ++ [t] } }.outOfService e

/-- Sectors of a stack. -/
def stackSectors : Nat := 2 ^ 31

/-! ## Reads of the stacks and their errors (R197, R322) -/

/-- Whether a sector lies in a row under test, whose reads stall (R322). -/
def State.rowStalls (s : State) (pa : Nat) : Bool :=
  inDevice pa && (s.home (stackOf pa)).rowTests.contains (Config.hbmRow (sectorOf pa))

/-- An error of a sector as a read meets it: corrected and counted, or marked poisoned. -/
def Home.meet (h : Home) (sector : Nat) : SectorError → Home
  | .none => h
  | .corrected => { h with corr := min 16383 (h.corr + 1) }
  | .uncorrectable => { h with poisonFlag := true, poison := if h.poison.contains sector then h.poison else sector :: h.poison }

/-- A read of a sector meets the error that it holds, if it holds one, and its row is tested. -/
def State.meetError (s : State) (h sector : Nat) : State :=
  let x := s.home h
  match x.errors.find? sector with
  | none => s
  | some e => (s.setHome h ({ x with errors := x.errors.erase sector }.meet sector e)).detect { unit := .hbmRow, number := Config.hbmRow sector, parent := h }

/-- The sectors of [pa, pa + n) read at their homes. -/
def State.readSectors (s : State) (pa n : Nat) : State :=
  if n = 0 ∨ !inDevice pa then s
  else (List.range ((pa + n - 1) / 32 - pa / 32 + 1)).foldl (fun (s : State) k => let a := 32 * (pa / 32 + k); s.meetError (stackOf a) (sectorOf a)) s

/-- Doublewords read at their homes by the device itself: page-table entries, ring and key-table words. MODEL'S CHOICE: what such a read finds in a
poisoned sector is taken as it stands, since R197 gives no effect on it (log entry 136). -/
def State.readEach (s : State) (as : List Nat) : State := as.foldl (fun (s : State) a => s.readSectors a 8) s

/-- A long range read at its homes, as the save and restore engine reads a group record: every error in it is met. -/
def State.readRange (s : State) (pa n : Nat) : State :=
  s.l2.homes.foldl (fun (s : State) (p : Nat × Home) => p.2.errors.foldl (fun (s : State) (e : Nat × SectorError) =>
    let a := unstack p.1 (32 * e.1)
    if a < pa + n ∧ pa < a + 32 then s.meetError p.1 e.1 else s) s) s

/-- Whether a long range holds a row under test. -/
def State.rangeStalls (s : State) (pa n : Nat) : Bool :=
  s.l2.homes.any (fun h => !h.2.rowTests.isEmpty) && (List.range ((n + 31) / 32)).any (fun k => s.rowStalls (pa + 32 * k))

/-- The page-table entries that a translation on a die reads: none when its TLB has it (R271). -/
def State.walkReads (s : State) (d aspace va : Nat) : List Nat :=
  if (tlbFind (s.die d).tlb aspace va).isSome then [] else walkPath s.mem s.sys.asroot aspace va

/-! ## Lines (R181 to R184) -/

/-- The order in which R184 replaces lines: one with no usable byte first, then by retention, then by last use. MODEL'S CHOICE: of several lines with no
usable byte the least recently used goes, among which R184 gives no order (log entry 142). -/
def Die.worse (x : Die) (a b : Nat × Line) : Bool :=
  let k (p : Nat × Line) : Nat := if p.2.anyUsable (x.gen p.2.cls) then p.2.ret + 1 else 0
  decide (k a < k b) || (k a = k b && decide (a.2.used < b.2.used))

/-- The lines of a line's set. -/
def Die.setMates (x : Die) (line : Nat) : Tab Line :=
  x.lines.filter (fun l _ => l ≠ line && sliceOf (128 * l) = sliceOf (128 * line) &&
    Config.l2Set l % 1536 = Config.l2Set line % 1536)

/-- A line held under another class than an access's is written back and leaves first (R183). -/
def State.leaveOther (s : State) (d line cls : Nat) : State :=
  match (s.die d).lines.find? line with
  | some l => if l.cls = cls then s else s.dropLine d line
  | none => s

/-- The line of a line's set that R184 replaces first. -/
def Die.victim (x : Die) (line : Nat) : Option (Nat × Line) :=
  (x.setMates line).foldl (fun (b : Option (Nat × Line)) p => match b with
    | none => some p
    | some q => if x.worse p q then some p else some q) none

/-- Lines leave a line's set until a way in use is free (R184, R322). -/
def State.makeRoom (d line : Nat) : (fuel : Nat) → State → State
  | 0, s => s
  | n + 1, s =>
    let x := s.die d
    match x.victim line with
    | some v => if x.waysOf (sliceOf (128 * line)) ≤ (x.setMates line).length then State.makeRoom d line n (s.dropLine d v.1) else s
    | none => s

/-- A line present under a class, empty if it was absent (R183). -/
def State.allocLine (s : State) (d line cls : Nat) (rd : Bool) (ret : Nat) : State :=
  let s := s.leaveOther d line cls
  let x := s.die d
  match x.lines.find? line with
  | some l => s.setDie d { x with lines := x.lines.set line { l with used := x.clock }, clock := x.clock + 1 }
  | none =>
    let s := s.makeRoom d line 16
    let x := s.die d
    let l : Line := { cls := cls, gen := x.gen cls, sv := 0, dirty := 0, rd := rd, ret := ret, data := [], used := x.clock }
    s.setDie d { x with lines := x.lines.set line l, clock := x.clock + 1 }

/-- Dirty bits of bytes [y, y + n). -/
def dirtyMask (y n : Nat) : BitVec 128 := BitVec.ofNat 128 ((2 ^ n - 1) * 2 ^ y)

/-- Bytes put into a line. -/
def Line.put (l : Line) (y : Nat) (bs : List Byte) : Line :=
  { l with data := (pairsAt y bs).foldl (fun t p => t.set p.1 p.2) l.data }

/-- A write that stays in the die L2 (R183). -/
def State.l2Write (s : State) (d pa cls ret : Nat) (bs : List Byte) : State :=
  let line := pa / 128
  let s := s.allocLine d line cls false ret
  match (s.die d).lines.find? line with
  | none => s
  | some l =>
    let l := l.put (pa % 128) bs
    s.setDie d { s.die d with lines := (s.die d).lines.set line { l with dirty := l.dirty ||| dirtyMask (pa % 128) bs.length } }

/-- The bytes of an access as the die L2 serves it, when all are usable and the line stands under the access's class. -/
def Die.serve (x : Die) (pa n cls : Nat) : Option (List Byte) :=
  match x.lines.find? (pa / 128) with
  | none => none
  | some l =>
    if l.cls = cls && (List.range n).all (fun k => l.usable (x.gen cls) (pa % 128 + k)) then
      some ((List.range n).map (fun k => l.data.get 0 (pa % 128 + k)))
    else none

/-- SV of the sectors of [y, y + n) cleared. -/
def Line.clearSv (l : Line) (y n : Nat) : Line :=
  { l with sv := BitVec.ofNat 4 ((List.range 4).foldl (fun a k =>
      if l.sv.getLsbD k && !(decide (32 * k < y + n) && decide (y < 32 * k + 32)) then a + 2 ^ k else a) 0) }

/-- Bytes sent to the home, and written into the die's line as well when it is present, where they are no longer dirty (R189's table). -/
def State.writeThroughAt (s : State) (d pa cls : Nat) (bs : List Byte) : State :=
  let s := (s.leaveOther d (pa / 128) cls).storeBytes pa bs
  let x := s.die d
  s.setDie d { x with lines := x.lines.modify (pa / 128) (fun l =>
    let l := l.put (pa % 128) bs
    { l with dirty := l.dirty &&& ~~~(dirtyMask (pa % 128) bs.length) }) }

/-- An atomic at the home (R195): the die's dirty bytes of the line first, the read-modify-write, then SV of the element's sector cleared. -/
def State.atomicAt (s : State) (d pa cls op fmt size : Nat) (v : Word) : State :=
  let s := (s.leaveOther d (pa / 128) cls).writeBackLine d (pa / 128)
  let new := combine op fmt (s.mem.readN pa size) v.toNat
  let s := s.storeBytes pa (leBytes new size)
  let x := s.die d
  s.setDie d { x with lines := x.lines.modify (pa / 128) (fun l => l.clearSv (pa % 128) size) }

/-! ## Read-duplicated pages (R200, R201) -/

/-- The other holders of a granule. -/
def State.otherHolders (s : State) (pa d : Nat) : List Nat :=
  match List.find? (fun p : Nat × BitVec 4 => p.1 = pa / 4096) (s.home (stackOf pa)).holders with
  | none => []
  | some p => (List.range 4).filter (fun k => k ≠ d && p.2.getLsbD k)

/-- Whether a message is an atomic, which reads at its home. -/
def MsgKind.atomic? : MsgKind → Bool
  | .atomic _ _ _ _ _ => true
  | _ => false

/-- Whether a message to a read-duplicated page still waits for other holders (R201). -/
def State.heldBy (s : State) (d pa : Nat) (rdup : Bool) : Bool := rdup && !(s.otherHolders pa d).isEmpty

/-- The address of a write-through or an atomic. -/
def MsgKind.pa? : MsgKind → Option Nat
  | .writeThrough pa _ => some pa
  | .atomic pa _ _ _ _ => some pa
  | _ => none

/-- A die drops a granule: dirty bytes are written back and SV is cleared on all its lines. -/
def State.dropGranule (s : State) (d granule : Nat) : State :=
  let ls := (s.die d).lines.filter (fun l _ => l / 32 = granule)
  ls.keys.foldl (fun (s : State) l =>
    let s := s.writeBackLine d l
    s.setDie d { s.die d with lines := (s.die d).lines.modify l (fun x => { x with sv := 0 }) }) s

/-- Every other holder of a granule drops it, and the home clears their bits. -/
def State.invalidateOthers (s : State) (pa d : Nat) : State :=
  let g := pa / 4096
  let h := stackOf pa
  let others := s.otherHolders pa d
  let s := others.foldl (fun (s : State) k => s.dropGranule k g) s
  let x := s.home h
  s.setHome h { x with holders := (List.map (fun p : Nat × BitVec 4 =>
      if p.1 = g then (p.1, BitVec.ofNat 4 (if p.2.getLsbD d then 2 ^ d else 0)) else p) x.holders).filter (fun p => p.2 ≠ 0) }

/-- A die becomes a holder of a granule; the oldest of 65,536 entries makes room (R200). -/
def State.addHolder (s : State) (pa d : Nat) : State :=
  let g := pa / 4096
  let h := stackOf pa
  let bit : BitVec 4 := BitVec.ofNat 4 (2 ^ d)
  let x := s.home h
  if x.holders.any (fun p => p.1 = g) then
    s.setHome h { x with holders := List.map (fun p : Nat × BitVec 4 => if p.1 = g then (p.1, p.2 ||| bit) else p) x.holders }
  else
    let s := match x.holders with
      | (old, mask) :: rest =>
        if 65536 ≤ x.holders.length then
          ((List.range 4).filter (fun k => mask.getLsbD k)).foldl (fun (s : State) k => s.dropGranule k old) (s.setHome h { x with holders := rest })
        else s
      | [] => s
    s.setHome h { s.home h with holders := (s.home h).holders ++ [(g, bit)] }

/-! ## Fills (R182) -/

/-- A fill's sector arrives: FillSectors, and the sector's bytes as the requesting read sees them. -/
def State.fillSector (s : State) (d : Nat) (f : Fill) : State × List Byte :=
  let base := f.pa / 32 * 32
  let line := f.pa / 128
  let k := f.pa % 128 / 32
  let s := s.touchLine base
  if (s.die d).bypasses base then (s, s.mem.readBytes base 32)
  else
    let s := s.allocLine d line f.cls f.rd f.ret
    let data := s.mem.readBytes base 32
    match (s.die d).lines.find? line with
    | none => (s, data)
    | some l =>
      let sv := if l.gen ≠ f.gen then 0#4 else l.sv
      let tab := (pairsAt (32 * k) data).foldl (fun t p => if l.dirty.getLsbD p.1 then t else t.set p.1 p.2) l.data
      let l := { l with data := tab, sv := sv ||| BitVec.ofNat 4 (2 ^ k), gen := f.gen, rd := f.rd }
      let s := s.setDie d { s.die d with lines := (s.die d).lines.set line l }
      let s := if f.rd then s.addHolder base d else s
      (s, (List.range 32).map (fun y => l.data.get 0 (32 * k + y)))

/-! ## Releases and bumps (R186 to R190) -/

/-- The non-RD lines of a class and a generation with a valid sector. -/
def Die.liveCount (x : Die) (c v : Nat) : Nat :=
  (x.lines.filter (fun _ l => l.cls = c && l.gen = v && !l.rd && l.sv ≠ 0)).length

/-- Write-backs of the lines that satisfy p are sent for every dirty one (R188, R166). -/
def State.sendWriteBacks (s : State) (d : Nat) (p : Nat → Line → Bool) : State :=
  let x := s.die d
  s.setDie d ((x.lines.filter (fun l v => v.dirty ≠ 0 && p l v)).foldl (fun x q => x.addMsg q.1 q.2.cls (.writeBack q.1) false) x)

/-- A release starts on a die: write-backs of the classes' dirty lines, and the messages whose acknowledgement it waits for. -/
def State.startRelease (s : State) (d classes : Nat) : State × List Nat :=
  let s := s.sendWriteBacks d (fun _ l => classes / 2 ^ l.cls % 2 = 1)
  (s, (s.die d).msgs.map Msg.id)

/-- A release carried through at once: every dirty line written back (R41, R44, R223, R404). -/
def State.releaseNow (s : State) (d : Nat) : State :=
  ((s.die d).lines.filter (fun _ l => l.dirty ≠ 0)).keys.foldl (fun s l => s.writeBackLine d l) s

/-- Every message of a die has been performed. -/
def Die.performedAll (x : Die) : Bool := x.msgs.all (fun m => m.kind = .performed)

/-- The classes of a 16-bit set. -/
def classList (n : Nat) : List Nat := (List.range 16).filter (fun c => n / 2 ^ c % 2 = 1)

end Sys2Proof.Machine
end

