-- ==== Sys2Proof/Machine/Remote.lean ====
section
/-! DEFINITION. Flits, remote requests as this device sends them, and remote accesses as it performs them for its peers
(R298 to R304). -/

namespace Sys2Proof.Machine

/-! ## Accesses of peers (R300 to R303) -/

/-- A key table entry's words 0 to 2. -/
def State.keyEntry (s : State) (slot : Nat) : List Word := s.mem.readDs (bits s.sys.keyBase 51 5 * 32 + 32 * slot) 3

/-- What the check of a remote access decides. -/
inductive RemoteCheck where
  | refused
  | wait
  | ok (pa : Nat) (rdup : Bool)
  deriving DecidableEq, Repr

/-- The checks of R301, in order. -/
def State.remoteCheck (s : State) (a : RemoteAccess) : RemoteCheck :=
  let slot := a.key.toNat / 256 % 2 ^ 23
  let gen := a.key.toNat % 256
  let e := s.keyEntry slot
  let w (k : Nat) : Word := e.getD k 0
  let base := bits (w 0) 54 0
  let len := bits (w 1) 54 0
  let right := match a.kind with
    | .read | .watch => bitOf (w 0) 62
    | .write => bitOf (w 0) 61
    | .atomic => bitOf (w 0) 60
  if s.sys.keyCnt ≤ slot ∨ !bitOf (w 0) 63 ∨ bits (w 2) 63 56 ≠ gen ∨ a.va < base ∨ base + len < a.va + a.size ∨ !right then .refused
  else
    match walk s.mem s.sys.asroot (bits (w 0) 59 56) a.va with
    | none => .refused
    | some (level, lw) =>
      let l := leafFields level lw
      if l.remote || !inDevice (l.pa a.va) then .refused
      else
        match checkAccess (some l) a.va (match a.kind with | .read | .watch => .read | .write => .write | .atomic => .atomic) with
        | .ok l => .ok (l.pa a.va) l.rdup
        | .wait => .wait
        | _ => .refused

/-- An answer to a peer's access. -/
def State.answer (s : State) (a : RemoteAccess) (code : Nat) (value : Word) : State := s.reply a.src a.cmd a.elem code value a.va

/-- BUSY. -/
def busyCode : Nat := 255

/-- MODEL'S CHOICE: the answer to a WATCH that its target holds until it is satisfied (log entry 127). -/
def heldCode : Nat := 254

/-- Two milliseconds and sixteen, in units of time. -/
def twoMs : Nat := 2000000 * nsUnits
def sixteenMs : Nat := 16000000 * nsUnits

/-- The recently-seen table with an entry more: the oldest of 4,096 is replaced once it is 2 ms old, else there is no room (R303). -/
def addSeen (seen : List Seen) (e : Seen) : Option (List Seen) :=
  if seen.length < 4096 then some (seen ++ [e])
  else match seen with
    | old :: rest => if old.at_ + twoMs ≤ e.at_ then some (rest ++ [e]) else none
    | [] => some [e]

/-- A write or atomic of a peer at its home; a read-duplicated granule's holders drop it first (R201). -/
def State.remoteStore (s : State) (pa : Nat) (rdup : Bool) (bs : List Byte) : State :=
  (if rdup then s.invalidateOthers pa 4 else s).storeBytes pa bs

/-- An accepted access is performed at its home; a write is staged until it is committed (R302). MODEL'S CHOICE: a read, a WATCH or an atomic of a poisoned
sector is answered with code 7, MEMORY_ECC, as a local access would suspend; R301 names no answer for it (log entries 91, 149). -/
def State.remotePerform (s : State) (a : RemoteAccess) (pa : Nat) (rdup : Bool) : State :=
  match a.kind with
  | .read =>
    let s := s.readSectors pa a.size
    if s.poisoned pa a.size then s.answer a 7 0
    else (s.touchLine pa).answer a 0 (BitVec.ofNat 64 (s.mem.readN pa a.size))
  | .watch =>
    let s := s.readSectors pa a.size
    if s.poisoned pa a.size then s.answer a 7 0
    else ((s.disarm (.remote a.src a.cmd)).answer a heldCode 0).addWatch { owner := .remote a.src a.cmd, pa := pa, size := a.size, mask := a.mask, cmp := a.cmp, rel := a.rel, armed := false }
  | .write =>
    let st : Staged := { src := a.src, cmd := a.cmd, elem := a.elem, pa := pa, bytes := leBytes a.value.toNat a.size, at_ := s.m.time }
    let keep := s.fab.staged.filter (fun x => !(x.src = a.src && x.cmd = a.cmd && x.elem = a.elem))
    { s with fab := { s.fab with staged := keep ++ [st] } }.answer a 0 0
  | .atomic =>
    let connected := bitOf (a.key.setWidth 64) 31
    let old := BitVec.ofNat 64 (s.mem.readN pa a.size)
    let new := combine a.op a.fmt old.toNat a.value.toNat
    let e : Seen := { src := a.src, cmd := a.cmd, elem := a.elem, old := old, at_ := s.m.time }
    match if connected then none else s.fab.seen.find? (fun x => x.src = a.src && x.cmd = a.cmd && x.elem = a.elem) with
    | some x => s.answer a 0 x.old
    | none =>
      let s := s.readSectors pa a.size
      if s.poisoned pa a.size then s.answer a 7 0
      else if connected then (s.remoteStore pa rdup (leBytes new a.size)).answer a 0 old
      else
        match addSeen s.fab.seen e with
        | none => s.answer a busyCode 0
        | some seen => ({ s with fab := { s.fab with seen := seen } }.remoteStore pa rdup (leBytes new a.size)).answer a 0 old

/-- What the checks of a peer's access read: the words of its key's entry, and the page-table entries of its address. -/
def State.remoteReads (s : State) (a : RemoteAccess) : List Nat :=
  let slot := a.key.toNat / 256 % 2 ^ 23
  if s.sys.keyCnt ≤ slot then []
  else
    let at_ := bits s.sys.keyBase 51 5 * 32 + 32 * slot
    at_ :: walkPath s.mem s.sys.asroot (bits (s.mem.readD at_) 59 56) a.va

/-- A peer's access at this device (R301, R302): none while a migrating page, or a row under test (R322), makes it wait. -/
def State.remoteHandle (s : State) (a : RemoteAccess) : Option State :=
  if s.fab.rejected.any (fun r => r = (a.src, a.cmd)) then some (s.answer a 4 0)
  else
    let reads := s.remoteReads a
    if reads.any s.rowStalls then none
    else
    let s := s.readEach reads
    match s.remoteCheck a with
    | .wait => none
    | .refused => some ({ s with fab := { s.fab with rejected := s.fab.rejected ++ [(a.src, a.cmd)] } }.answer a 4 0)
    | .ok pa rdup => if a.kind ≠ .write ∧ s.rowStalls pa then none else some (s.remotePerform a pa rdup)

/-- The sequence state of a peer and an address space used, and the one, the least recently used of 1,024 cached ones, that is spilled for it (R303). -/
def touchSeq (seqs : List SeqState) (peer aspace now : Nat) (f : SeqState → SeqState) : List SeqState × Option SeqState :=
  let is (x : SeqState) : Bool := x.peer = peer && x.aspace = aspace
  let rest := seqs.filter (fun x => !is x)
  let mine := (seqs.find? is).getD { peer := peer, aspace := aspace, expect := 0, next := 0, cached := true, used := now }
  let cached := rest.filter SeqState.cached
  let lru := if cached.length < 1024 then none else cached.foldl (fun (b : Option SeqState) x => match b with
    | none => some x
    | some y => if x.used < y.used then some x else some y) none
  let out (x : SeqState) : SeqState := if some x = lru then { x with cached := false } else x
  ({ f mine with cached := true, used := now } :: rest.map out, lru)

/-- A sequence state used; a spilled one goes to its 32 bytes of the area at CCSPILL, in host memory. Their layout is not given. -/
def State.useSeq (s : State) (peer aspace : Nat) (f : SeqState → SeqState) : State :=
  let r := touchSeq s.fab.seqs peer aspace s.m.time f
  let s := { s with fab := { s.fab with seqs := r.1 } }
  match r.2 with
  | none => s
  | some v =>
    let pa := bits s.sys.ccSpill 51 12 * 4096 + 32 * (16 * v.peer + v.aspace)
    match targetOf pa with
    | .host _ => s.storeBytes pa (leBytes (Config.seqImage v.peer v.aspace v.expect v.next).toNat 32)
    | _ => s

/-- The next number expected of a peer in an address space. -/
def seqExpect (seqs : List SeqState) (peer aspace : Nat) : Nat :=
  ((seqs.find? (fun x => x.peer = peer && x.aspace = aspace)).map SeqState.expect).getD 0

/-- What a notice of a peer does: staged elements performed, and that answered; or staged elements discarded, with the record of a rejection and the
command's watch here (R302). -/
def State.remoteNotice (s : State) (n : RemoteCommit) : State :=
  let mine (x : Staged) : Bool := x.src = n.src && x.cmd = n.cmd
  match n.notice with
  | .commit =>
    let ready := s.fab.staged.filter (fun x => mine x && decide (x.elem < n.upto))
    let s := { s with fab := { s.fab with staged := s.fab.staged.filter (fun x => !(mine x && decide (x.elem < n.upto))) } }
    let fresh (x : Staged) : Staged := if mine x then { x with at_ := s.m.time } else x
    let s := { s with fab := { s.fab with staged := s.fab.staged.map fresh } }
    let s := ready.foldl (fun (s : State) x => s.remoteStore x.pa true x.bytes) s
    if n.src = s.sys.devNum then s else s.reply n.src n.cmd (n.upto - 1) 0 0 0
  | _ =>
    let s := s.disarm (.remote n.src n.cmd)
    { s with fab := { s.fab with staged := s.fab.staged.filter (fun x => !mine x), rejected := s.fab.rejected.filter (fun r => r ≠ (n.src, n.cmd)) } }

/-! ## Requests of this device -/

/-- Core, queue and entry of a command as one number. -/
def cmdTag (core key : Nat) : Nat := 256 * core + key

/-- One microsecond. -/
def oneUs : Nat := 1000 * nsUnits

/-- The wait before resend number k + 1 (R303). -/
def State.rtoAfter (s : State) (k : Nat) : Nat := max 1 s.sys.rto * 2 ^ k * oneUs

/-- A request on its way on a port. -/
def State.transmit (s : State) (r : Request) : State :=
  match s.fab.portFor r.peer r.va with
  | none => s
  | some p => { s with fab := { s.fab.sendOn p r.peer r.va with sent := s.fab.sent ++ [.request p r] } }

/-- What a peer's answer does to the command that asked (R301, R303). -/
def State.answered (s : State) (peer core key elem code : Nat) (value : Word) : State :=
  let is (x : Remote) : Bool := x.req.core = core && x.req.key = key && x.req.elem = elem && x.req.peer = peer
  match s.fab.remotes.find? is with
  | none => s
  | some x =>
    if code = busyCode then
      { s with fab := { s.fab with remotes := s.fab.remotes.map (fun y => if is y then { y with busy := true, due := s.m.time + oneUs } else y) } }
    else if code = heldCode then
      { s with fab := { s.fab with remotes := s.fab.remotes.map (fun y => if is y && y.req.kind = 3 then { y with held := true } else y) } }
    else
      let s := { s with fab := { s.fab with remotes := s.fab.remotes.filter (fun y => !is y) } }
      match s.cmd? core key with
      | none => s
      | some c =>
        if code ≠ 0 then s.setCmd core key { c with remoteFault := code }
        else if x.req.kind = 3 then s.setCmd core key { c with watchVal := some value }
        else s.setCmd core key { c with answers := c.answers.set elem value }

/-- The access a request stands for, at its target. -/
def Request.access (r : Request) (src : Nat) (mask cmp : Word) (rel : Nat) : RemoteAccess :=
  { src := src, cmd := cmdTag r.core r.key, elem := r.elem, key := r.index, va := r.va,
    kind := match r.kind with | 0 => .read | 1 => .write | 2 => .atomic | _ => .watch,
    op := r.op, fmt := r.fmt, size := r.size, value := r.value, seq := r.seq, mask := mask, cmp := cmp, rel := rel }

/-- The core number under which the device itself asks peers; no core has it. -/
def deviceCore : Nat := 320

/-- The address space of a request: its group's, or its grid's for a completion signal. MODEL'S CHOICE: the number of a connection-cached request counts in
the source's own address space here, and in the ASPACE of the key's entry at its target; R303 does not say which (log entry 150). -/
def State.requestSpace (s : State) (r : Request) : Nat :=
  if r.core = deviceCore then (s.m.grids.find? r.key).elim 0 Grid.aspace else (s.m.groupAt r.core ((s.cmd? r.core r.key).elim 0 Cmd.group)).aspace

/-- In the connection-cached mode a request takes the next number of its peer and address space (R303). -/
def State.number (s : State) (r : Request) : State × Request :=
  if !r.index.getLsbD 31 ∨ r.kind = 4 then (s, r)
  else
    let a := s.requestSpace r
    let s := s.useSeq r.peer a id
    let n := ((s.fab.seqs.find? (fun x => x.peer = r.peer && x.aspace = a)).map SeqState.next).getD 0
    (s.useSeq r.peer a (fun x => { x with next := x.next + 1 }), { r with seq := n })

/-- A request of this device: performed here when this device is the peer, as for its own rank of a multicast window (R304), else sent,
and sent again until it is answered. -/
def State.request (s : State) (r : Request) : Option State :=
  if r.peer = s.sys.devNum then
    if r.kind = 4 then
      some (s.remoteNotice { src := r.peer, cmd := cmdTag r.core r.key, notice := .commit, upto := r.elem + 1 })
    else
      let c := (s.cmd? r.core r.key).getD (newCmd 0 0 0 0 0 0 [] none none)
      let a := r.access r.peer (c.w 3) (c.w 5) (cWCMP (c.w 0))
      let was := s.fab.sent.length
      let x : Remote := { req := r, tries := 0, due := s.m.time, busy := false, held := false }
      match { s with fab := { s.fab with remotes := s.fab.remotes ++ [x] } }.remoteHandle a with
      | none => none
      | some s =>
        match (s.fab.sent.drop was).find? (fun (o : Outgoing) => match o with
            | .answer _ src cmd e _ _ => src = r.peer && cmd = a.cmd && e = r.elem
            | _ => false) with
        | some (.answer _ _ _ _ code v) => some (s.answered r.peer r.core r.key r.elem code v)
        | _ => some s
  else
    let (s, r) := s.number r
    let x : Remote := { req := r, tries := 0, due := s.m.time + s.rtoAfter 0, busy := false, held := false }
    some ({ s with fab := { s.fab with remotes := s.fab.remotes ++ [x] } }.transmit r)

/-- Requests of a command not yet answered. -/
def State.openRequests (s : State) (core key : Nat) : Bool := s.fab.remotes.any (fun x => x.req.core = core && x.req.key = key)

/-- The peers that a command has sent to hear that it is resumed or cancelled; its open requests are given up (R302). -/
def State.notice (s : State) (core key : Nat) (peers : List Nat) (what : RemoteNotice) : State :=
  let s := { s with fab := { s.fab with remotes := s.fab.remotes.filter (fun x => !(x.req.core = core && x.req.key = key)) } }
  peers.foldl (fun (s : State) p =>
    if p = s.sys.devNum then s.remoteNotice { src := p, cmd := cmdTag core key, notice := what, upto := 0 }
    else
      match s.fab.portFor p 0 with
      | none => s
      | some q => { s with fab := { s.fab.sendOn q p 0 with sent := s.fab.sent ++ [.notice q p core key what] } }) s

end Sys2Proof.Machine
end

