-- ==== Sys2Proof/Machine/Engine.lean ====
section
/-! DEFINITION. What every copy command shares: its place in memory, word 7, its barrier, suspension, access to global and local
operands (R145 to R177, R199, R267, R270). -/

namespace Sys2Proof.Machine

/-! ## Word 7 and the barrier (R155, R156) -/

def CmdState.code : CmdState → Nat
  | .posted => 0
  | .running => 1
  | .suspended => 2
  | .done => 3
  | .cancelled => 4

/-- Word 7 in progress form. -/
def Cmd.progress (c : Cmd) : Word :=
  packed [(63, 60, c.state.code), (59, 52, if c.state = .suspended then c.fault else 0), (51, 51, b2n c.hintDrop), (50, 50, b2n c.crcBad),
    (49, 49, b2n c.cvtInv), (48, 48, b2n c.cvtOvf), (39, 0, c.done)]

/-- Word 7 as the engine writes it: the CRC form for a DONE command with a CRC to report. -/
def Cmd.word7 (c : Cmd) : Word :=
  if c.state = .done ∧ cCRCM (c.w 0) ≠ 0 ∧ !cCRCCHK (c.w 0) then
    wordOf [(60, 3), (49, b2n c.cvtInv), (48, b2n c.cvtOvf), (0, (crcFinal c.crc).toNat)]
  else c.progress

/-- A doubleword written to a group's scratchpad by the engine in a cycle, after the cycle's thread accesses (R140). -/
def Core.engineD (x : Core) (g : Group) (off : Nat) (v : Word) (now : Nat) : Core :=
  (x.hide (g.spBase + off) (now + 1)).store false (pairsAt (g.spBase + off) (leBytes v.toNat 8))

/-- A command kept in its entry with its word 7 written. -/
def Mach.report (m : Mach) (core key : Nat) (c : Cmd) : Mach :=
  let m := m.setCmd core key c
  let g := m.groupAt core c.group
  if g.spSize < c.off + 64 then m else m.setCore core ((m.core core).engineD g (c.off + 56) c.word7 m.now)

/-- An arrival that lands on a barrier of a group at the end of the cycle, after every thread's and in the order of the keys (R172). -/
def Mach.arriveAt (m : Mach) (core group off n key : Nat) : Mach :=
  if n = 0 then m
  else m.setCore core { m.core core with arrivals := (m.core core).arrivals ++ [⟨key, (m.groupAt core group).spBase + off, n⟩] }

/-- A command's arrival on its barrier, if it has one (R155, R172). -/
def Mach.increment (m : Mach) (core key : Nat) (c : Cmd) : Mach :=
  m.arriveAt core c.group (bits (c.w 6) 18 0) (bits (c.w 6) 63 48) key

/-! ## Fault records and suspension (R175) -/

/-- A device fault record. -/
def copyFault (code core q slot access : Nat) (va : Word) (c : Cmd) (g : Group) : FaultRec :=
  { words := [wordOf [(56, code), (47, core), (43, c.group), (41, q), (35, slot), (33, access)], va, wordOf [(32, g.grid), (0, g.idx)],
              wordOf [(0, c.done % 2 ^ 40)]], vector := 64 }

/-- A command suspends on a fault: it keeps its locks, its entry and its CRC. -/
def State.suspend (s : State) (core key : Nat) (c : Cmd) (code access : Nat) (va : Word) : State :=
  let q := key / 64
  let slot := key % 64
  let c := { c with state := .suspended, fault := code, idQueue := q, idSlot := slot, fills := [], asked := [], answers := [],
                    remoteFault := 0, stage := if c.kind ≤ kFILL then 0 else c.stage, replay := none }
  let r := copyFault code core q slot access va c (s.m.groupAt core c.group)
  { s with m := { s.m.report core key c with faults := s.m.faults ++ [r] } }

/-- Every message that a command waits for has been acknowledged. -/
def State.acked (s : State) (core : Nat) (c : Cmd) : Bool := !(s.die (dieOf core)).msgs.any (fun m => c.waits.contains m.id)

/-! ## Order after thread stores and matrix operations (R211, R247) -/

/-- The lock entries of a command, with the cores whose tables hold them. -/
def Mach.locksOf (m : Mach) (core q slot : Nat) : List (Nat × Lock) :=
  List.flatMap (fun p : Nat × Core => List.map (fun e : Nat × Lock => (p.1, e.2)) (p.2.locks.filter (fun _ l => ofCommand core q slot l))) m.cores

/-- Whether a store issued by a cycle, and not yet performed, writes to a locked range. -/
def Mach.storeBefore (m : Mach) (lc : Nat) (l : Lock) (cycle : Nat) : Bool :=
  let g := m.groupAt lc l.group
  let base := if l.tile then g.tileBase else g.spBase
  m.cores.any (fun p => p.2.teams.any (fun t => (t.2.flight ++ t.2.storeQ).any (fun q => q.core = lc && q.tile = l.tile && decide (q.issued ≤ cycle) &&
    q.bytes.any (fun b => decide (base + l.start ≤ b.1) && decide (b.1 < base + l.stop)))))

/-- Whether a command may make its first access: every store to its ranges that issued by its CPOST is performed. -/
def Mach.mayAccess (m : Mach) (core key : Nat) (c : Cmd) : Bool :=
  (m.locksOf core (key / 64) (key % 64)).all (fun p => !m.storeBefore p.1 p.2 c.postedAt)

/-- Whether an engine access to n bytes must wait: for a matrix operation that issued by a cycle and comes first on one of the bytes, or for a
tile-store bank under test (R247, R322). -/
def Mach.tileWaits (m : Mach) (r : Reach) (off : Int) (n : Nat) (write : Bool) (issued : Nat) : Bool :=
  let x := m.core r.core
  r.tile && (x.testing (r.rel off) n || x.matConflict r.group (r.rel off : Nat) (r.rel off + n : Nat) write (fun op => decide (op.issued ≤ issued)))

/-- The bytes of [lo, hi) of a core's scratchpad that queued stores issued by a cycle still hold are performed, ahead of a write of the same bytes by
the engine (R211): the write alone is seen, and the stores have only the rest of their bytes left. -/
def Mach.flushUnder (m : Mach) (core lo hi cycle : Nat) : Mach :=
  let cut (q : QueuedStore) : QueuedStore :=
    if q.core = core ∧ q.tile = false ∧ q.issued ≤ cycle then { q with bytes := q.bytes.filter (fun b => decide (b.1 < lo) || decide (hi ≤ b.1)) } else q
  { m with cores := m.cores.map (fun _ x => { x with teams := x.teams.map (fun _ t =>
      { t with storeQ := t.storeQ.map cut, flight := t.flight.map cut }) }) }

/-! ## Engine accesses -/

/-- Why an engine access does not come back with its data. -/
inductive Halt where
  /-- It waits; `moved` says that the state has changed, by a request it has made. -/
  | wait (s : State) (moved : Bool)
  | fault (s : State) (code access : Nat) (va : Word)
  deriving DecidableEq, Repr

/-- The right and the ACCESS code of a fault record. -/
def Right.code : Right → Nat
  | .read => 0
  | .write => 1
  | .atomic => 2

/-- Translation on a core's die; an address outside 55 bits has no translation. -/
def State.engineXlat (s : State) (core aspace : Nat) (va : Int) (r : Right) : State × Access :=
  if va < 0 ∨ 2 ^ 55 ≤ va then (s, .page)
  else
    let d := dieOf core
    let path := s.walkReads d aspace va.toNat
    if path.any s.rowStalls then (s, .stall)
    else
      let s := s.readEach path
      let x := xlat s.mem s.sys.asroot (s.die d) aspace va.toNat
      (s.setDie d x.1, checkAccess x.2 va.toNat r)

/-- The number of a page in an address space, as REPLAY names it. -/
def pageKey (aspace va : Nat) : Nat := aspace * 2 ^ 39 + va / 65536

/-- A command waits for a migrating page in its die's replay queue, or in the same way outside it while its 512 entries are taken (R199). -/
def State.awaitPage (s : State) (core key : Nat) (c : Cmd) (aspace va : Nat) : Halt :=
  let d := dieOf core
  let x := s.die d
  .wait ((s.setDie d { x with replayQ := x.replayQ ++ [(core, key)] }).setCmd core key { c with replay := some (pageKey aspace va) }) true

/-- A global access that passes R270 and the register page's rule (R267); its leaf, or why not. -/
def State.engineAccess (s : State) (core key : Nat) (c : Cmd) (va : Int) (r : Right) : Except Halt (State × Leaf) :=
  let aspace := (s.m.groupAt core c.group).aspace
  let (s, a) := s.engineXlat core aspace va r
  let fail (code : Nat) : Except Halt (State × Leaf) := .error (.fault s code r.code (wordOfInt va))
  match a with
  | .page => fail 1
  | .stall => .error (.wait s false)
  | .wait => .error (s.awaitPage core key c aspace va.toNat)
  | .ownership => fail 3
  | .protection => fail 2
  | .ok l =>
    if l.remote then (if l.mcast && r ≠ .write then fail 2 else .ok (s, l))
    else
      match targetOf (l.pa va.toNat) with
      | .registers _ => fail 2
      | _ => .ok (s, l)

/-- The operand a running command has in word `word`, from its captured layout. -/
def Mach.operandOf (m : Mach) (core : Nat) (c : Cmd) (word fmt n : Nat) (lay : Option (List Word)) : Option Operand :=
  let p := match lay with
    | some l => l.getD 0 0
    | none => c.w word
  (m.spotOf core c.group c.tid false p).map (fun sp => operandFrom sp fmt n (if isHandle (c.w word) then lay else none))

/-- A local read by the engine: the words are checked, and a rebuilt one is written back (R141, R142). -/
def State.localRead (s : State) (r : Reach) (off : Int) (n access : Nat) : Except Halt (State × Nat) :=
  let a := s.m.phys r off
  let x := s.m.core r.core
  let note (m : Mach) : State := { s with m := m.noteErrors s.m r.core r.tile [a] }
  if x.uncorrectable r.tile (a / 8) then .error (.fault (note s.m) 6 access 0)
  else .ok (note (s.m.setCore r.core (x.scrubWord r.tile (a / 8))), (x.bytes r.tile).readN a n)

/-- A local write by the engine. -/
def State.localWrite (s : State) (r : Reach) (off : Int) (bs : List Byte) : State :=
  { s with m := s.m.setCore r.core ((s.m.core r.core).store r.tile (pairsAt (s.m.phys r off) bs)) }

/-- A sector is requested for a command; the prefetches of no command use key 256. -/
def State.askSector (s : State) (core key d pa : Nat) (l : Leaf) (ret : Nat) : State :=
  let x := s.die d
  let f : Fill := { pa := pa / 32 * 32, cls := l.cls, gen := x.gen l.cls, rd := l.rdup, ret := ret, core := core, key := key }
  let s := s.setDie d { x with fills := x.fills ++ [f] }
  { s with m := s.m.setCore core { s.m.core core with
      cmds := (s.m.core core).cmds.modify key (fun c => { c with asked := c.asked ++ [pa / 32 * 32] }) } }

/-- A read of n bytes of device memory through the die's L2 (R182). -/
def State.l2Read (s : State) (core key : Nat) (c : Cmd) (pa n : Nat) (l : Leaf) (ret : Nat) (va : Int) : Except Halt (State × Nat) :=
  let d := dieOf core
  let sec := pa / 32 * 32
  match c.fills.find? sec with
  | some bs => if bs.isEmpty then .error (.fault s 7 0 (wordOfInt va)) else .ok (s, leNat ((bs.drop (pa - sec)).take n))
  | none =>
    match (if (s.die d).bypasses pa then none else (s.die d).serve pa n l.cls) with
    | some bs =>
      let x := s.die d
      .ok (s.setDie d { x with lines := x.lines.modify (pa / 128) (fun v => { v with used := x.clock }), clock := x.clock + 1 }, leNat bs)
    | none => if c.asked.contains sec then .error (.wait s false) else .error (.wait (s.askSector core key d pa l ret) true)

/-- A request of a command, which remembers the peer. -/
def State.ask (s : State) (r : Request) : Option State :=
  let s := { s with m := s.m.setCore r.core { s.m.core r.core with
    cmds := (s.m.core r.core).cmds.modify r.key (fun c => { c with peers := if c.peers.contains r.peer then c.peers else r.peer :: c.peers }) } }
  s.request r

/-- A read of an element of a command, of n bytes, tagged with twice its number. -/
def State.readElem (s : State) (core key : Nat) (c : Cmd) (o : Operand) (idx n tag : Nat) : Except Halt (State × Nat) :=
  match c.answers.find? tag with
  | some v => .ok (s, v.toNat % 2 ^ (8 * n))
  | none =>
    let at_ := o.at idx
    if !o.spot.global then
      if s.m.tileWaits o.spot.reach at_ n false c.postedAt then .error (.wait s false) else s.localRead o.spot.reach at_ n 0
    else
      match s.engineAccess core key c at_ .read with
      | .error h => .error h
      | .ok (s, l) =>
        if l.remote then
          if c.remoteFault ≠ 0 then .error (.fault s c.remoteFault 0 (wordOfInt at_))
          else if s.openRequests core key then .error (.wait s false)
          else
            match s.ask { core := core, key := key, elem := tag, peer := l.peer, index := l.key, va := at_.toNat, kind := 0, op := 0,
                          fmt := o.fmt, size := n, value := 0, seq := 0 } with
            | some s => .error (.wait s true)
            | none => .error (.wait s false)
        else
          let pa := l.pa at_.toNat
          if inDevice pa then s.l2Read core key c pa n l (if o.stream then 0 else 1) at_
          else .ok (s, s.mem.readN pa n)

end Sys2Proof.Machine
end

