-- ==== Sys2Proof/Machine/Launch.lean ====
section
/-! DEFINITION. Launch records and their checks, LAUNCH and LWAIT, major 0x1C (R36 to R38, R53, R402, R403, R408). -/

namespace Sys2Proof.Machine

/-! ## Launch records (R36) -/

/-- The fields of a launch record's eight words. -/
def launchRec (ws : List Word) : LaunchRec :=
  let w (k : Nat) : Word := ws.getD k 0
  { groups := bits (w 0) 63 32 + 1, teams := bits (w 0) 23 20 + 1, width := bits (w 0) 19 17, prio := bits (w 0) 16 14,
    coloc := bits (w 0) 13 12, nacc := bits (w 0) 11 8, vregs := bits (w 0) 7 4, overlap := bitOf (w 0) 2,
    evictable := bitOf (w 0) 1, coop := bitOf (w 0) 0, entry := bits (w 1) 54 0, arg := w 2, scratch := bits (w 3) 63 32,
    tile := bits (w 3) 31 0, stalliv := bits (w 4) 63 48, priv := bits (w 4) 47 32, allot := bits (w 4) 16 0,
    sigaddr := bits (w 5) 54 0, sigval := w 6, user := w 7 }

/-- Whether reserved fields are zero and every field is within its limits (R36, R38). -/
def launchFieldsOk (ws : List Word) (r : LaunchRec) : Bool :=
  let w (k : Nat) : Word := ws.getD k 0
  bits (w 0) 31 24 = 0 && !bitOf (w 0) 3 && bits (w 1) 63 55 = 0 && bits (w 4) 31 17 = 0 && bits (w 5) 63 55 = 0 &&
  decide (r.width ≤ 5) && decide (r.nacc ≤ 8) && decide (1 ≤ r.vregs) && decide (r.vregs ≤ 8) &&
  decide (r.scratch ≤ 524288) && decide (r.tile ≤ 1048576) && decide (r.vregs * 8 + 16 ≤ r.allot) &&
  decide (r.allot ≤ 65536) && r.entry % 4 = 0 && r.sigaddr % 8 = 0

/-- How many groups of a shape one empty core holds (R26 to R28). -/
def LaunchRec.perCore (r : LaunchRec) : Nat :=
  let by_ (units need : Nat) : Nat := if need = 0 then 16 else units / need
  min (min (min 16 (48 / r.teams)) (min (by_ 128 r.spUnits) (by_ 64 r.tileUnits)))
    (min (by_ 16 r.nacc) (65536 / (r.teams * r.allot)))

/-- The cores of a cluster that are in service. -/
def Mach.inService (m : Mach) (cluster : Nat) : Nat :=
  ((List.range 8).filter (fun k => !(m.core (8 * cluster + k)).lost)).length

/-- How many groups of a shape the empty device holds: whole sets on distinct cores of one cluster under COLOC. -/
def Mach.deviceHolds (m : Mach) (r : LaunchRec) : Nat :=
  sumTo (fun k => m.inService k / r.factor * r.factor * r.perCore) 40

/-- The reason for which a launch is rejected, if it is (R38). -/
def Mach.rejects (m : Mach) (ws : List Word) : Option Nat :=
  let r := launchRec ws
  if !launchFieldsOk ws r then some 1
  else if r.perCore = 0 then some 2
  else if r.coop && decide (m.deviceHolds r < r.groups) then some 3
  else if r.coloc ≠ 0 && (r.groups % r.factor ≠ 0 || (List.range 40).all (fun k => decide (m.inService k < r.factor))) then some 4
  else none

/-! ## LAUNCH (R402) -/

/-- A child status word. -/
def childStatus (state reason grid : Nat) : Word := wordOf [(60, state), (52, reason), (0, grid)]

/-- A launch handle. -/
def launchHandle (grid : Nat) (rej : Bool) (off : Nat) : Word := wordOf [(32, grid), (31, b2n rej), (0, off)]

/-- The cycle that no run reaches: a result that only its event makes readable. -/
def never : Nat := 2 ^ 64

/-- LAUNCH after its decode checks. -/
def Mach.launch (m : Mach) (d : Nat) (off : Int) (fb : Bool) : Except TrapReq Mach :=
  let t := m.team
  let g := m.group
  let x := m.myCore
  if g.depth = 10 then .error ⟨cNEST_DEPTH, 0⟩
  else if off % 64 ≠ 0 then .error ⟨cMISALIGNED, wordOfInt off⟩
  else if off < 0 ∨ (g.spSize : Int) < off + 72 then .error ⟨cSCRATCH_BOUNDS, wordOfInt off⟩
  else
    let o := off.toNat
    match lockHit (x.seenLocks m.now) false t.group o 72 true with
    | some e => .error ⟨cRANGE_LOCK, lockInfo e o true⟩
    | none =>
      match x.readWords g (recordOffs o 8) with
      | .error e => .error e
      | .ok x =>
      let f := t.flagOf fb
      let req : LaunchReq := { core := m.cur.core, place := m.cur.place, group := t.group, grid := g.grid, idx := g.idx, off := o,
                               words := (List.range 8).map (fun k => x.readSp g (o + 8 * k)), dst := d, flag := f, issued := m.now }
      let t := { t.countUp f with pend := ⟨.scalar, d, never, .other, some f⟩ :: t.pend }
      let x := x.writeSp g (o + 64) (childStatus 0 0 0)
      .ok { m.setCore m.cur.core (x.setTeam m.cur.place t.retire) with launches := m.launches ++ [req] }

/-- LAUNCH (R402). -/
def execLaunch (d a : Reg) (f : Bool) (s : State) : Host.Outcome State Fault Refusal :=
  word (fun m => match m.launch d.toNat (m.team.rs a.toNat).toInt f with
    | .ok m' => m'
    | .error r => m.trapRecord r) s

/-! ## LWAIT (R408) -/

/-- STATE of a child status word. -/
def childState (w : Word) : Nat := bits w 63 60

/-- A request to bump classes on a die, under a token (R187). -/
def Mach.requestBumps (m : Mach) (die : Nat) (classes : List Nat) (token : Nat) (lwait : Bool := false) : Mach :=
  { m with bumps := m.bumps ++ classes.map (fun c => ⟨die, c, m.now, token, lwait⟩) }

/-- A fresh token. -/
def Mach.freshToken (m : Mach) : Mach × Nat := ({ m with nextToken := m.nextToken + 1 }, m.nextToken)

/-- LWAIT with the status word at hand, for the team at a place: parked, or its result, with which the team goes on in the next cycle. `goOn` is the
team past the word. A completion is an acquire on the team's die as well: the commands posted after it wait for its bumps (R219, `commandStart`). -/
def Mach.lwaitStep (m : Mach) (c p : Nat) (goOn : Team) (handle : Word) (d : Nat) (w : Word) : Mach :=
  if childState w ≤ 1 then m.setTeamAt c p { goOn with phase := .parked (.lwait handle d) }
  else
    let m := m.setTeamAt c p { goOn.ws d w with nextIssue := m.now + 1, phase := .running }
    if childState w = 2 ∨ childState w = 4 then
      let (m, token) := m.freshToken
      m.requestBumps (dieOf c) (List.range 16) token true
    else m

/-- The status word as the team sees it in the machine's present cycle. -/
def Mach.childWord (m : Mach) (c p : Nat) (handle : Word) : Word :=
  let t := m.teamAt c p
  let g := m.groupAt c t.group
  BitVec.ofNat 64 (m.peekN t c false (g.spBase + bits handle 18 0 + 64) 8)

/-- LWAIT at its issue. -/
def Mach.lwait (m : Mach) (d : Nat) (handle : Word) : Mach :=
  let o := bits handle 18 0
  let t := m.team
  let fail (cause : Nat) : Mach := m.trap ⟨cause, BitVec.ofNat 64 (o + 64)⟩
  if o % 64 ≠ 0 then fail cMISALIGNED
  else if m.group.spSize < o + 72 then fail cSCRATCH_BOUNDS
  else
    match lockHit (m.myCore.seenLocks m.now) false t.group (o + 64) 8 false with
    | some e => m.trap ⟨cRANGE_LOCK, lockInfo e (o + 64) false⟩
    | none =>
      match m.myCore.readWords m.group [o + 64] with
      | .error e => m.trapRecord e
      | .ok x => (m.setCore m.cur.core x).lwaitStep m.cur.core m.cur.place t.retire handle d (m.childWord m.cur.core m.cur.place handle)

/-- LWAIT (R408). -/
def execLwait (d a : Reg) (s : State) : Host.Outcome State Fault Refusal :=
  word (fun m => m.lwait d.toNat (m.team.rs a.toNat)) s

/-- A parked LWAIT looks at its status word again, as the next cycle sees it. -/
def Mach.wakeLwait (m : Mach) (c p : Nat) : Mach :=
  let t := m.teamAt c p
  match t.phase with
  | .parked (.lwait h d) => m.lwaitStep c p t h d ({ m with now := m.now + 1 }.childWord c p h)
  | _ => m

end Sys2Proof.Machine
end

