-- ==== Sys2Proof/Machine/EvCopy.lean ====
section
/-! DEFINITION. The copy engine's events: acceptance, start, the data commands element by element, WATCH, SIGNAL, FENCE, FLUSH, HINT,
completion and cancellation (R148 to R177, R493). -/

namespace Sys2Proof.Machine

/-- An occupied entry of a group that is not being placed or restored. -/
def State.entry (s : State) (core q slot : Nat) : Option (Nat × Cmd) :=
  if q < 4 ∧ slot < 64 then
    (s.cmd? core (cmdKey q slot)).bind (fun c => if (s.m.groupAt core c.group).filling.isSome then none else some (cmdKey q slot, c))
  else none

/-- The same, while the core's engine is not stopped (R287). -/
def State.goingEntry (s : State) (core q slot : Nat) : Option (Nat × Cmd) := if (s.m.core core).stopEng then none else s.entry core q slot

/-- A command that ends: locks freed, word 7 written, its arrival on its barrier; its entry is freed in the next cycle (R151). -/
def Mach.endCmd (m : Mach) (core key : Nat) (c : Cmd) : Mach :=
  let m := m.freeLocks (ofCommand core (key / 64) (key % 64))
  (m.report core key c).increment core key c

/-- A command that ends by CCANCEL, with the count it has reached (R177). -/
def Mach.endCancelled (m : Mach) (core key : Nat) (c : Cmd) : Mach :=
  m.endCmd core key { c with state := .cancelled, fills := [], asked := [], answers := [], replay := none }

/-! ## Acceptance and start (R150, R173, R385) -/

/-- COMMAND_ACCEPT: 8 cycles after the CPOST, posts of one queue in the order of their cycles and team places. The cancellation of a command that
CCANCEL has named by then takes its place (R384, R385). Stores to word 7 that issued by the CPOST are performed before it is written (R211; log entry
143). -/
def commandAccept (core q slot : Nat) (s : State) : Option State :=
  match s.entry core q slot with
  | none => none
  | some (key, c) =>
    let x := s.m.core core
    let first (k : Nat) (d : Cmd) : Bool := k ≠ key && !d.accepted &&
      (decide (d.postedAt < c.postedAt) || (d.postedAt = c.postedAt && decide (d.team < c.team)))
    if c.accepted ∨ s.m.now < c.postedAt + 8 ∨ (List.any (x.queueCmds q) fun p => first p.1 p.2) then none
    else
      let c := { c with accepted := true, order := x.nextOrder }
      let g := x.group c.group
      let m := s.m.setCore core { x with nextOrder := x.nextOrder + 1 }
      let m := m.flushUnder core (g.spBase + c.off + 56) (g.spBase + c.off + 64) c.postedAt
      let m := if c.cancelling then m.endCancelled core key c else m.report core key c
      let x := m.core core
      let m := if x.teams.has c.team then m.setCore core ((x.setTeam c.team ((x.team c.team).countDown c.flag)).settle c.team) else m
      some { s with m := m }

def execCommandAccept (c q slot : Nat) (s : State) := happen (commandAccept c q slot) s

/-- Whether a command has not ended. -/
def Cmd.open_ (c : Cmd) : Bool := c.state = .posted || c.state = .running || c.state = .suspended

/-- The commands of a queue accepted before one. -/
def Core.before (x : Core) (q : Nat) (c : Cmd) : List Cmd :=
  (x.queueCmds q).filterMap (fun p => if p.2.accepted && decide (p.2.order < c.order) then some p.2 else none)

/-- COMMAND_START: the oldest unstarted command of a queue starts, unless a FENCE ahead of it, its own being a SIGNAL, or the acquire of an LWAIT that
came before its CPOST holds it back (R173, R219). -/
def commandStart (core q : Nat) (s : State) : Option State :=
  let x := s.m.core core
  let head := List.foldl (fun (b : Option (Nat × Cmd)) (p : Nat × Cmd) =>
    if p.2.accepted && !p.2.started && p.2.state = .posted then
      (match b with | none => some p | some y => if p.2.order < y.2.order then some p else some y)
    else b) none (x.queueCmds q)
  match head with
  | none => none
  | some (key, c) =>
    let ahead := x.before q c
    let g := x.group c.group
    if c.cancelling ∨ !x.groups.has c.group ∨ g.filling.isSome ∨ s.m.bumps.any (fun b => b.lwait && b.die = dieOf core && decide (b.at_ < c.postedAt)) ∨
        ahead.any (fun d => d.open_ && (d.kind = kFENCE || c.kind = kSIGNAL)) then none
    else some { s with m := s.m.report core key { c with started := true, state := .running } }

def execCommandStart (c q : Nat) (s : State) := happen (commandStart c q) s

/-! ## Data commands (R158 to R162, R167 to R169) -/

/-- Dimensions of a captured layout. -/
def capturedDims (l : Option (List Word)) : List (Nat × Int) :=
  match l with
  | some l => (layDims l).take (layRank l)
  | none => []

/-- Elements in a row of the indexed layout. -/
def Cmd.rowLen (c : Cmd) : Nat :=
  match c.kind with
  | 1 => extProduct (capturedDims c.src).dropLast
  | 2 => extProduct (capturedDims c.dst).dropLast
  | _ => 1

/-- E (R159). -/
def Cmd.total (c : Cmd) : Nat := if c.kind ≤ kFILL then bits (c.w 4) 39 0 * c.rowLen else 1

def Cmd.sfmt (c : Cmd) : Nat := cSFMT (c.w 0)
def Cmd.dfmt (c : Cmd) : Nat := cDFMT (c.w 0)

/-- Elements that move as one: two when either format has four bits (R175). -/
def Cmd.unit (c : Cmd) : Nat := if isFourBit c.sfmt || isFourBit c.dfmt then 2 else 1

/-- The element of the indexed operand that element n of the command names (R160). -/
def State.indexed (s : State) (core : Nat) (c : Cmd) (o : Operand) (n : Nat) : Except Halt (State × Nat) :=
  match s.m.spotOf core c.group c.tid false (c.w 3) with
  | none => .error (.wait s false)
  | some sp =>
    if s.m.tileWaits sp.reach (sp.off + 4 * (n / c.rowLen : Nat)) 4 false c.postedAt then .error (.wait s false)
    else match s.localRead sp.reach (sp.off + 4 * (n / c.rowLen : Nat)) 4 3 with
    | .error h => .error h
    | .ok (s, j) => if o.extOuter ≤ j then .error (.fault s 8 3 0) else .ok (s, j * c.rowLen + n % c.rowLen)

/-- The elements of an operand that a unit of the command names. -/
def State.unitOf (s : State) (core : Nat) (c : Cmd) (o : Operand) (ix : Bool) : List Nat → Except Halt (State × List Nat)
  | [] => .ok (s, [])
  | n :: ns =>
    match (if ix then s.indexed core c o n else .ok (s, n)) with
    | .error h => .error h
    | .ok (s, i) =>
      match s.unitOf core c o ix ns with
      | .error h => .error h
      | .ok (s, is) => .ok (s, i :: is)

/-- The source elements of a unit as raw bytes; `ns` numbers the command's elements, `is` the operand's. -/
def State.readUnit (s : State) (core key : Nat) (c : Cmd) (o : Operand) : List Nat → List Nat → Except Halt (State × List Nat)
  | n :: ns, i :: is =>
    match s.readElem core key c o i (elemBytes o.fmt) (2 * n) with
    | .error h => .error h
    | .ok (s, x) =>
      match s.readUnit core key c o ns is with
      | .error h => .error h
      | .ok (s, xs) => .ok (s, x :: xs)
  | _, _ => .ok (s, [])

/-- The code of operand element i in the bytes read for it. -/
def codeIn (fmt i raw : Nat) : Nat := if isFourBit fmt then raw / 16 ^ (i % 2) % 16 else raw

/-- Its value; an O4 code is read with its partner (R106). -/
def valueIn (fmt i raw : Nat) : FVal :=
  if fmt = 17 then
    let p := fromO4 (raw % 16) (raw / 16 % 16)
    .ofInt (if i % 2 = 0 then p.1 else p.2)
  else decodeF fmt (codeIn fmt i raw)

/-- Conv of R160 on a unit: destination codes and flags; `ds` numbers the destination's elements, which DITH takes its positions from (R168). -/
def Cmd.convert (c : Cmd) (ds is raws : List Nat) : List Nat × Nat :=
  let sf := c.sfmt
  let df := c.dfmt
  let rnd := cROUND (c.w 0)
  let xs := is.zip raws
  if sf = df then (xs.map (fun p => codeIn sf p.1 p.2), 0)
  else if df = 17 then
    let v (k : Nat) : FVal := valueIn sf (is.getD k 0) (raws.getD k 0)
    let r := toO4 (rmodeAt rnd (ds.getD 0 0)) (rmodeAt rnd (ds.getD 1 0)) (v 0) (v 1)
    ([r.1, r.2.1], r.2.2)
  else
    let ys := (ds.zip xs).map (fun p => convertF df (rmodeAt rnd p.1) (cSAT (c.w 0)) false (isInt sf) (sf = 21) (valueIn sf p.2.1 p.2.2))
    (ys.map Prod.fst, ys.foldl (fun a y => a ||| y.2) 0)

/-- Bytes of a unit's codes as the CRC takes them: one byte for a four-bit pair (R169). -/
def crcUnit (fmt : Nat) (codes : List Nat) : List Byte :=
  if isFourBit fmt then [BitVec.ofNat 8 (codes.getD 0 0 + 16 * codes.getD 1 0)]
  else codes.flatMap (fun x => leBytes x (elemBytes fmt))

/-- One write of a unit: its tag, where it goes, its bytes and value, and the nibble alone that it writes, if it writes one. -/
structure WriteItem where
  tag : Nat
  at_ : Int
  size : Nat
  value : Nat
  nib : Option Nat
  deriving DecidableEq, Repr

/-- The writes of a unit: an aligned four-bit pair is one byte, and so are two nibbles of one byte, of which the later one stands where they are the
same (R160). -/
def writeItems (o : Operand) (ns is codes : List Nat) : List WriteItem :=
  if isFourBit o.fmt then
    let i0 := is.getD 0 0
    let i1 := is.getD 1 0
    let c0 := codes.getD 0 0
    let c1 := codes.getD 1 0
    let t := 2 * ns.headD 0 + 1
    if o.at i0 = o.at i1 ∧ i0 % 2 ≠ i1 % 2 then [⟨t, o.at i0, 1, if i0 % 2 = 0 then c0 + 16 * c1 else c1 + 16 * c0, none⟩]
    else if o.at i0 = o.at i1 then [⟨t, o.at i1, 1, c1, some (i1 % 2)⟩]
    else [⟨t, o.at i0, 1, c0, some (i0 % 2)⟩, ⟨t + 2, o.at i1, 1, c1, some (i1 % 2)⟩]
  else (ns.zip (is.zip codes)).map (fun p => ⟨2 * p.1 + 1, o.at p.2.1, elemBytes o.fmt, p.2.2, none⟩)

/-- The leaves of a unit's global writes, each checked before any is performed. A reduction reads its sector at the home, and so does a single nibble
whose byte the die L2 does not serve, once a line of another class has left (R183, R197). -/
def State.checkWrites (s : State) (core key : Nat) (c : Cmd) (r : Right) : List WriteItem → Except Halt (State × List (WriteItem × Leaf))
  | [] => .ok (s, [])
  | w :: ws =>
    match s.engineAccess core key c w.at_ r with
    | .error h => .error h
    | .ok (s, l) =>
      let pa := l.pa w.at_.toNat
      let s := if w.nib.isSome && !l.remote then s.leaveOther (dieOf core) (pa / 128) l.cls else s
      let home := !l.remote && (r = .atomic || (w.nib.isSome && ((s.die (dieOf core)).serve pa 1 l.cls).isNone))
      if home && s.rowStalls pa then .error (.wait s false)
      else
      let s := if home then s.readSectors pa w.size else s
      if home && s.poisoned pa w.size then .error (.fault s 7 r.code (wordOfInt w.at_))
      else
      match s.checkWrites core key c r ws with
      | .error h => .error h
      | .ok (s, ls) => .ok (s, (w, l) :: ls)

/-- A nibble put into a byte. -/
def withNibble (old nib v : Nat) : Nat := if nib = 0 then old / 16 * 16 + v else v * 16 + old % 16

/-- Why a write in local memory cannot be made yet, or at all: it waits for what comes first on its bytes, or the word that a reduction or a single
nibble combines with cannot be read (R175, R247). -/
def State.checkLocal (s : State) (c : Cmd) (o : Operand) : List WriteItem → Except Halt State
  | [] => .ok s
  | w :: ws =>
    let r := o.spot.reach
    if s.m.tileWaits r w.at_ w.size true c.postedAt then .error (.wait s false)
    else if cOP (c.w 0) = 0 && w.nib.isNone then s.checkLocal c o ws
    else match s.localRead r w.at_ w.size (if cOP (c.w 0) = 0 then 1 else 2) with
      | .error h => .error h
      | .ok (s, _) => s.checkLocal c o ws

/-- A write or reduction in local memory. -/
def State.performLocal (s : State) (c : Cmd) (o : Operand) (w : WriteItem) : State :=
  let r := o.spot.reach
  let old := ((s.m.core r.core).bytes r.tile).readN (s.m.phys r w.at_) w.size
  let new := match w.nib with
    | some k => withNibble old k w.value
    | none => combine (cOP (c.w 0)) o.fmt old w.value
  s.localWrite r w.at_ (leBytes new w.size)

/-- A message of a command, which waits for its acknowledgement. -/
def State.post (s : State) (core key : Nat) (line cls : Nat) (kind : MsgKind) (rdup : Bool) : State :=
  let d := dieOf core
  let x := s.die d
  let s := s.setDie d (x.addMsg line cls kind rdup)
  { s with m := s.m.setCore core { s.m.core core with
      cmds := (s.m.core core).cmds.modify key (fun c => { c with waits := c.waits ++ [x.nextMsg] }) } }

/-- SCOPE DEVICE or wider. -/
def Cmd.wide (c : Cmd) : Bool := decide (6 ≤ cSCOPE (c.w 0))

/-- A write or reduction in device or host memory (R162, R167, R189's table, R201, R322). -/
def State.performGlobal (s : State) (core key : Nat) (c : Cmd) (o : Operand) (w : WriteItem) (l : Leaf) : State :=
  let d := dieOf core
  let pa := l.pa w.at_.toNat
  let op := cOP (c.w 0)
  let old1 := (((s.die d).serve pa 1 l.cls).getD [s.mem.read pa]).headD 0
  let v := match w.nib with
    | some k => withNibble old1.toNat k w.value
    | none => w.value
  let bs := leBytes v w.size
  if !inDevice pa then s.storeBytes pa (if op = 0 then bs else leBytes (combine op o.fmt (s.mem.readN pa w.size) v) w.size)
  else if op ≠ 0 then s.post core key (pa / 128) l.cls (.atomic pa op o.fmt w.size (BitVec.ofNat 64 v)) l.rdup
  else if c.wide || l.wt || l.rdup || (s.die d).bypasses pa then s.post core key (pa / 128) l.cls (.writeThrough pa bs) l.rdup
  else s.l2Write d pa l.cls (if o.stream then 0 else 1) bs

/-- The peers that a remote leaf names: one, or every rank of its multicast window (R304). MODEL'S CHOICE: a window whose VALID is 0 names the ranks that
were last read for it, or none, and a write to none completes; R304 gives no fault for it (log entry 151). -/
def State.leafPeers (s : State) (l : Leaf) : List Nat := if l.mcast then (s.fab.mcwins.get Mcwin.initial l.peer).ranks else [l.peer]

/-- The tag under which the byte around a single nibble is read at a peer. -/
def nibTag (w : WriteItem) : Nat := w.tag + 2 ^ 42

/-- The bytes around single nibbles that have still to be read at their peers before they can be written whole. A multicast window is not read: its
other nibbles are free values (log entry 122). -/
def unreadNibs (c : Cmd) (ws : List (WriteItem × Leaf)) : List (WriteItem × Leaf) :=
  ws.filter (fun p => p.1.nib.isSome && !p.2.mcast && !c.answers.has (nibTag p.1))

/-- The reads of those bytes. -/
def State.askNibs (s : State) (core key : Nat) (o : Operand) : List (WriteItem × Leaf) → Option State
  | [] => some s
  | (w, l) :: ws =>
    (s.ask { core := core, key := key, elem := nibTag w, peer := l.peer, index := l.key, va := w.at_.toNat, kind := 0, op := 0, fmt := o.fmt,
             size := 1, value := 0, seq := 0 }).bind (fun s => s.askNibs core key o ws)

/-- The requests of a unit's remote writes, of a kind, one for each peer. -/
def State.askWrites (s : State) (core key : Nat) (c : Cmd) (o : Operand) (kind : Nat) : List (WriteItem × Leaf) → Option State
  | [] => some s
  | (w, l) :: ws =>
    let value := match w.nib with
      | some k => withNibble ((c.answers.find? (nibTag w)).map (fun v => v.toNat % 256) |>.getD ((Config.freeNibble s.free).toNat * 17)) k w.value
      | none => w.value
    let s := { s with free := s.free + b2n w.nib.isSome }
    let send (s : Option State) (p : Nat) : Option State :=
      s.bind (fun s => s.ask { core := core, key := key, elem := w.tag, peer := p, index := l.key, va := w.at_.toNat, kind := kind,
                               op := cOP (c.w 0), fmt := o.fmt, size := w.size, value := BitVec.ofNat 64 value, seq := 0 })
    ((s.leafPeers l).foldl send (some s)).bind (fun s => s.askWrites core key c o kind ws)

/-- A unit retires: DONE, the CRC and the conversion flags move on, and word 7 is written back (R156, R160). -/
def State.retireUnit (s : State) (core key : Nat) (c : Cmd) (sc dc : List Nat) (fl : Nat) : State :=
  let cr := cCRCM (c.w 0)
  let crc := if cr = 1 then crcBytes c.crc (crcUnit c.sfmt sc) else if cr = 2 then crcBytes c.crc (crcUnit c.dfmt dc) else c.crc
  match s.cmd? core key with
  | none => s
  | some now =>
    let c := { now with done := c.done + c.unit, crc := crc, fills := [], asked := [], answers := [], stage := 0,
                        cvtInv := c.cvtInv || fl &&& fINVALID ≠ 0, cvtOvf := c.cvtOvf || fl &&& fOVERFLOW ≠ 0 }
    { s with m := s.m.report core key c }

/-- The values of a unit kept while peers are asked, so that its source is read once. -/
def State.keepUnit (s : State) (core key : Nat) (ns raws : List Nat) (stage : Nat) : State :=
  match s.cmd? core key with
  | none => s
  | some c =>
    let a := (ns.zip raws).foldl (fun t p => Tab.set t (2 * p.1) (BitVec.ofNat 64 p.2)) c.answers
    s.setCmd core key { c with answers := a, stage := stage }

/-- The writes of a unit performed in order. -/
def State.performAll (s : State) (core key : Nat) (c : Cmd) (o : Operand) : List (WriteItem × Leaf) → State
  | [] => s
  | (w, l) :: ws => (if l.remote then s else s.performGlobal core key c o w l).performAll core key c o ws

/-- The destination of a unit: performed and retired, or under way at peers (R302: staged by every one, then committed, then
acknowledged; atomics of a command one at a time). -/
def State.writeUnit (s : State) (core key : Nat) (c : Cmd) (o : Operand) (ns raws is sc dc : List Nat) (fl : Nat) : Except Halt State :=
  let items := writeItems o ns is dc
  let atomic := cOP (c.w 0) ≠ 0
  if !o.spot.global then
    match s.checkLocal c o items with
    | .error h => .error h
    | .ok s => .ok ((items.foldl (fun (s : State) w => s.performLocal c o w) s).retireUnit core key c sc dc fl)
  -- a single nibble is merged with what the command's earlier writes have left in its byte (R160)
  else if items.any (fun w => w.nib.isSome) && !s.acked core c then .error (.wait s false)
  else
    match s.checkWrites core key c (if atomic then .atomic else .write) items with
    | .error h => .error h
    | .ok (s, ws) =>
      let remote := ws.filter (fun p => p.2.remote)
      let finish (s : State) : Except Halt State := .ok ((s.performAll core key c o ws).retireUnit core key c sc dc fl)
      if remote.isEmpty then finish s
      else if c.remoteFault ≠ 0 then .error (.fault s c.remoteFault (if atomic then 2 else 1) (wordOfInt ((remote.head?.map (fun p => p.1.at_)).getD 0)))
      else if s.openRequests core key then .error (.wait s false)
      else
        let send (kind stage : Nat) : Except Halt State :=
          match s.askWrites core key c o kind remote with
          | some s => .error (.wait (s.keepUnit core key ns raws stage) true)
          | none => .error (.wait s false)
        let nibs := unreadNibs c remote
        if c.stage = 0 && !nibs.isEmpty then
          match s.askNibs core key o nibs with
          | some s => .error (.wait (s.keepUnit core key ns raws 0) true)
          | none => .error (.wait s false)
        else
        match c.stage with
        | 0 => send (if atomic then 2 else 1) 1
        | 1 => if atomic then finish s else send 4 2
        | _ => finish s

/-- One unit of a data command. An operand in the partition of a co-resident group that has left its core meanwhile is none any more: reads of it give
free values, and writes have no effect (log entry 115). -/
def State.dataUnit (s : State) (core key : Nat) (c : Cmd) : Except Halt State :=
  let ns := (List.range c.unit).map (· + c.done)
  let src := if c.kind = kFILL then none else s.m.operandOf core c 1 c.sfmt c.total c.src
  let free (n : Nat) : Nat := (Config.noData s.free n).toNat % 2 ^ (8 * elemBytes c.sfmt)
  let got : Except Halt (State × List Nat × List Nat) :=
      match src with
      | none => if c.kind = kFILL then .ok (s, ns, ns.map (fun _ => (c.w 3).toNat % 2 ^ (8 * elemBytes c.dfmt))) else .ok (s, ns, ns.map free)
      | some o =>
        match s.unitOf core c o (c.kind = kGATHER) ns with
        | .error h => .error h
        | .ok (s, is) =>
          match s.readUnit core key c o ns is with
          | .error h => .error h
          | .ok (s, raws) => .ok (s, is, raws)
  match got with
  | .error h => .error h
  | .ok (s, is, raws) =>
    let sc := (is.zip raws).map (fun p => codeIn c.sfmt p.1 p.2)
    match s.m.operandOf core c 2 c.dfmt c.total c.dst with
    | none =>
      let cv := c.convert ns is raws
      .ok ({ s with free := s.free + 1 }.retireUnit core key c sc cv.1 cv.2)
    | some dst =>
      match s.unitOf core c dst (c.kind = kSCATTER) ns with
      | .error h => .error h
      | .ok (s, ds) =>
        let cv := c.convert ds is raws
        s.writeUnit core key c dst ns raws ds sc cv.1 cv.2

/-- Up to n units of a command; none when nothing can happen. -/
def dataSteps (core key : Nat) : (n : Nat) → State → Option State
  | 0, _ => none
  | n + 1, s =>
    match s.cmd? core key with
    | none => none
    | some c =>
      if c.state ≠ .running ∨ c.total ≤ c.done ∨ c.replay.isSome ∨ (s.m.core core).stopEng ∨ (c.cancelling ∧ c.stage ≠ 2) then none
      else
        match s.dataUnit core key c with
        | .ok s => some ((dataSteps core key n s).getD s)
        | .error (.wait s moved) => if moved then some s else none
        | .error (.fault s code access va) =>
          if s.acked core c && !c.cancelling then (match s.cmd? core key with | some c => some (s.suspend core key c code access va) | none => none)
          else none

/-- COPY, GATHER, SCATTER and FILL: some elements move, once the accesses that come before are performed. -/
def dataEvent (kind core q slot n : Nat) (s : State) : Option State :=
  match s.goingEntry core q slot with
  | none => none
  | some (key, c) => if c.kind ≠ kind ∨ !s.m.mayAccess core key c then none else dataSteps core key n s

def execCopyCmd (c q slot n : Nat) (s : State) := happen (dataEvent kCOPY c q slot n) s
def execGatherCmd (c q slot n : Nat) (s : State) := happen (dataEvent kGATHER c q slot n) s
def execScatterCmd (c q slot n : Nat) (s : State) := happen (dataEvent kSCATTER c q slot n) s
def execFillCmd (c q slot n : Nat) (s : State) := happen (dataEvent kFILL c q slot n) s

/-! ## WATCH (R163) -/

/-- A command kept in its entry, its word 7 as it stands. -/
def State.keep (s : State) (core key : Nat) (c : Cmd) : Option State := some (s.setCmd core key c)

/-- An outcome of a step that may wait or fault, for a command whose retired work is acknowledged. -/
def State.halted (core key : Nat) (h : Halt) : Option State :=
  match h with
  | .wait s moved => if moved then some s else none
  | .fault s code access va => (s.cmd? core key).map (fun c => s.suspend core key c code access va)

/-- Bytes of the word of a WATCH or SIGNAL. -/
def Cmd.wordSize (c : Cmd) : Nat := if cWIDE (c.w 0) then 8 else 4

/-- The address of a global operand word. -/
def Cmd.vaOf (c : Cmd) (k : Nat) : Nat := bits (c.w k) 54 0

/-- An occupied entry of a group whose partitions may still be filling: a restored WATCH arms before any team issues, but after the acquire
(R285). -/
def State.rearmEntry (s : State) (core q slot : Nat) : Option (Nat × Cmd) :=
  if q < 4 ∧ slot < 64 then
    (s.cmd? core (cmdKey q slot)).bind (fun c =>
      match (s.m.groupAt core c.group).acquire with
      | some t => if s.m.bumps.any (fun b => b.token = t) then none else some (cmdKey q slot, c)
      | none => some (cmdKey q slot, c))
  else none

/-- WATCH: the word is read and the watch arms at its home. -/
def watchCmd (core q slot : Nat) (s : State) : Option State :=
  match s.rearmEntry core q slot with
  | none => none
  | some (key, c) =>
    if c.kind ≠ kWATCH ∨ c.state ≠ .running ∨ c.stage ≠ 0 ∨ c.cancelling ∨ c.replay.isSome then none
    else
      let va := c.vaOf 1
      match s.engineAccess core key c (va : Nat) .read with
      | .error h => State.halted core key h
      | .ok (s, l) =>
        if l.remote then
          (s.ask { core := core, key := key, elem := 0, peer := l.peer, index := l.key, va := va, kind := 3, op := 0, fmt := 0,
                   size := c.wordSize, value := 0, seq := 0 }).bind (fun s => match s.cmd? core key with
            | some c => s.keep core key { c with stage := 1 }
            | none => none)
        else
          let pa := l.pa va
          if s.rowStalls pa then none
          else
          let s := s.readSectors pa c.wordSize
          if s.poisoned pa c.wordSize then State.halted core key (.fault s 7 0 (BitVec.ofNat 64 va))
          else
            let s := (s.setCmd core key { c with stage := 1 }).touchLine pa
            some (s.addWatch { owner := .command core key, pa := pa, size := c.wordSize, mask := c.w 3, cmp := c.w 5, rel := cWCMP (c.w 0),
                               armed := false })

def execWatchCmd (c q slot : Nat) (s : State) := happen (watchCmd c q slot) s

/-- A bump of a command's classes on its die is requested when its scope asks for one. -/
def State.bumpFor (s : State) (core : Nat) (c : Cmd) (on : Bool) : State × Option Nat :=
  if on && c.wide then
    let (m, t) := s.m.freshToken
    ({ s with m := m.requestBumps (dieOf core) (classList (cCLASSES (c.w 0))) t }, some t)
  else (s, none)

/-- A watch whose peer does not answer, or refuses, suspends its command. -/
def State.remoteFailed (s : State) (core key : Nat) (c : Cmd) (access : Nat) (va : Nat) : Option State :=
  if c.remoteFault ≠ 0 ∧ c.state = .running then some (s.suspend core key { c with stage := 0 } c.remoteFault access (BitVec.ofNat 64 va)) else none

/-- WATCH_COMPLETE: the satisfying value goes to its destination, once what comes first there is done (R154, R247), and the classes are bumped (R163,
R186). -/
def watchComplete (core q slot : Nat) (s : State) : Option State :=
  match s.goingEntry core q slot with
  | none => none
  | some (key, c) =>
    if c.kind ≠ kWATCH ∨ c.state ≠ .running ∨ c.stage ≠ 1 ∨ c.cancelling then none
    else
      match c.watchVal with
      | none => s.remoteFailed core key c 0 (c.vaOf 1)
      | some v =>
        let dst := if c.w 2 = 0 then none else s.m.spotOf core c.group c.tid false (c.w 2)
        if !s.m.mayAccess core key c ∨ dst.any (fun sp => s.m.tileWaits sp.reach sp.off c.wordSize true c.postedAt) then none
        else
          let s := match dst with
            | some sp => s.localWrite sp.reach sp.off (leBytes v.toNat c.wordSize)
            | none => s
          let (s, t) := s.bumpFor core c true
          s.keep core key { c with stage := 4, token := t }

def execWatchComplete (c q slot : Nat) (s : State) := happen (watchComplete c q slot) s

/-! ## SIGNAL and FENCE (R164, R165) -/

/-- The start of a release for a command: the messages it waits for. -/
def State.releaseFor (s : State) (core : Nat) (c : Cmd) (on : Bool) : State × List Nat :=
  if on && c.wide then s.startRelease (dieOf core) (cCLASSES (c.w 0)) else (s, [])

/-- Whether two numbers of 64 KiB, as waiters and REPLAY name them, lie in one page as it is mapped now. -/
def State.samePage (s : State) (a b : Nat) : Bool :=
  let va (k : Nat) : Nat := k * 65536 % 2 ^ 55
  let size := match walk s.mem s.sys.asroot (a / 2 ^ 39) (va a) with
    | some (level, _) => 2 ^ levelBits level
    | none => 65536
  a / 2 ^ 39 = b / 2 ^ 39 && va a / size = va b / size

/-- A REPLAY write: the waiters for the page are released in arrival order (R199). Reserved bits of the value are ignored (R7). -/
def State.replayWrite (s : State) (d : Nat) (v : Word) : State :=
  let page := pageKey (bits v 63 60) (bits v 54 16 * 65536)
  let x := s.die d
  let on (p : Nat × Nat) : Bool := match s.cmd? p.1 p.2 with | some c => (c.replay.map (s.samePage page)).getD true | none => true
  let freed := x.replayQ.filter on
  let s := s.setDie d { x with replayReg := keepBits v [(63, 60), (54, 16)], replayQ := x.replayQ.filter (fun p => !on p) }
  freed.foldl (fun (s : State) p => match s.cmd? p.1 p.2 with
    | some c => s.setCmd p.1 p.2 { c with replay := none }
    | none => s) s

/-- The die whose REPLAY register an offset of the register page is (R267). -/
def replayDie (off : Nat) : Option Nat := if off % 4096 = 0x200 ∧ off / 4096 < 4 then some (off / 4096) else none

/-- The register page's rule for a SIGNAL: only OP 0 with WIDE 1 to a REPLAY register is performed. -/
def signalRegister (c : Cmd) (pa : Nat) : Option Nat :=
  match targetOf pa with
  | .registers off => if cOP (c.w 0) = 0 ∧ cWIDE (c.w 0) then replayDie off else none
  | _ => none

/-- The messages of a command that their homes have not performed. -/
def State.unmade (s : State) (core : Nat) (c : Cmd) : List Msg := (s.die (dieOf core)).msgs.filter (fun g => c.waits.contains g.id && g.kind ≠ .performed)

/-- Whether the write of a SIGNAL, or all of a FENCE, is made, or on its way at a peer where nothing can take it back: CCANCEL comes too late for it, and
it completes (R177; log entry 121). -/
def State.made (s : State) (core : Nat) (c : Cmd) : Bool :=
  c.remoteFault = 0 &&
  ((c.kind = kFENCE && c.stage = 4 && !c.token.any (fun t => s.m.bumps.any (fun b => b.token = t))) ||
   (c.kind = kSIGNAL && (decide (3 ≤ c.stage) ||
      (c.stage = 2 && (if c.peers.isEmpty then (s.unmade core c).isEmpty else cOP (c.w 0) ≠ 0)))))

/-- What a cancelled FENCE or SIGNAL has asked for and not got is withdrawn: bumps, and the message of its write (R177). -/
def State.withdraw (s : State) (core : Nat) (c : Cmd) : State :=
  let d := dieOf core
  if c.kind = kFENCE then
    let bumps := s.m.bumps.filter (fun b => c.token ≠ some b.token)
    let x := s.die d
    { s.setDie d { x with stalled := x.stalled.filter (fun k _ => bumps.any (fun b => b.die = d && b.cls = k)) } with m := { s.m with bumps := bumps } }
  else if c.kind = kSIGNAL ∧ c.stage = 2 then
    let x := s.die d
    s.setDie d { x with msgs := x.msgs.filter (fun g => !(c.waits.contains g.id && g.kind ≠ .performed)) }
  else s

/-- The write or atomic of a SIGNAL. -/
def State.signalWrite (s : State) (core key : Nat) (c : Cmd) : Option State :=
  let va := c.vaOf 2
  let op := cOP (c.w 0)
  let r : Right := if op = 0 then .write else .atomic
  let fmt := if cWIDE (c.w 0) then 7 else 6
  let v : Word := if cWIDE (c.w 0) then c.w 3 else BitVec.ofNat 64 (bits (c.w 3) 31 0)
  let aspace := (s.m.groupAt core c.group).aspace
  let (t, a) := s.engineXlat core aspace (va : Nat) r
  let next (s : State) : Option State := match s.cmd? core key with
    | some c => s.keep core key { c with stage := 2 }
    | none => none
  let fail (code : Nat) : Option State := State.halted core key (.fault t code r.code (BitVec.ofNat 64 va))
  match a with
  | .page => fail 1
  | .stall => none
  | .wait => State.halted core key (t.awaitPage core key c aspace va)
  | .ownership => fail 3
  | .protection => fail 2
  | .ok l =>
    let pa := l.pa va
    if l.remote then
      if l.mcast then fail 2
      else (t.ask { core := core, key := key, elem := 1, peer := l.peer, index := l.key, va := va, kind := if op = 0 then 1 else 2,
                    op := op, fmt := fmt, size := c.wordSize, value := v, seq := 0 }).bind next
    else
      match targetOf pa with
      | .registers _ => (match signalRegister c pa with | some d => next (t.replayWrite d v) | none => fail 2)
      | .device =>
        if op ≠ 0 && t.rowStalls pa then none
        else
        let t := if op = 0 then t else t.readSectors pa c.wordSize
        if t.poisoned pa c.wordSize && op ≠ 0 then fail 7
        else next (t.post core key (pa / 128) l.cls (.atomic pa op fmt c.wordSize v) l.rdup)
      | _ => next (t.storeBytes pa (leBytes (combine op fmt (t.mem.readN pa c.wordSize) v.toNat) c.wordSize))

/-- SIGNAL: its release, its write once the release is acknowledged, and, at a peer, the commit of a plain write. -/
def signalCmd (core q slot : Nat) (s : State) : Option State :=
  match s.goingEntry core q slot with
  | none => none
  | some (key, c) =>
    if c.kind ≠ kSIGNAL ∨ c.state ≠ .running ∨ c.stage = 4 ∨ c.replay.isSome ∨ (c.cancelling ∧ !s.made core c) then none
    else if c.stage = 0 then
      let (s, ids) := s.releaseFor core c true
      s.keep core key { c with stage := 1, waits := ids }
    else if !s.acked core c then none
    else if c.stage = 1 then s.signalWrite core key c
    else if c.remoteFault ≠ 0 then s.remoteFailed core key { c with stage := 1 } (if cOP (c.w 0) = 0 then 1 else 2) (c.vaOf 2)
    else if s.openRequests core key then none
    else
      let peers := if cOP (c.w 0) = 0 then c.peers else []
      match c.stage, peers with
      | 2, p :: _ =>
        (s.request { core := core, key := key, elem := 1, peer := p, index := 0, va := c.vaOf 2, kind := 4, op := 0, fmt := 0, size := 0, value := 0, seq := 0 }).bind
          (fun s => match s.cmd? core key with | some c => s.keep core key { c with stage := 3 } | none => none)
      | _, _ => s.keep core key { c with stage := 4 }

def execSignalCmd (c q slot : Nat) (s : State) := happen (signalCmd c q slot) s

/-- COPY_FENCE: once every earlier command of its queue is complete, its release and then its acquire. -/
def copyFence (core q slot : Nat) (s : State) : Option State :=
  match s.goingEntry core q slot with
  | none => none
  | some (key, c) =>
    if c.kind ≠ kFENCE ∨ c.state ≠ .running ∨ c.stage = 4 ∨ c.cancelling ∨ ((s.m.core core).before q c).any Cmd.open_ then none
    else if c.stage = 0 then
      let (s, ids) := s.releaseFor core c (cREL (c.w 0))
      s.keep core key { c with stage := 1, waits := ids }
    else if !s.acked core c then none
    else
      let (s, t) := s.bumpFor core c (cACQ (c.w 0))
      s.keep core key { c with stage := 4, token := t }

def execCopyFence (c q slot : Nat) (s : State) := happen (copyFence c q slot) s

/-! ## FLUSH and HINT (R166, R184, R194) -/

/-- The parts of a range of n bytes from a virtual address, page by page: start and length. -/
def pageParts (va n : Nat) : List (Nat × Nat) :=
  if n = 0 then []
  else (List.range ((va + n - 1) / 65536 - va / 65536 + 1)).map (fun k =>
    let lo := max va ((va / 65536 + k) * 65536)
    (lo, min (va + n) ((va / 65536 + k + 1) * 65536) - lo))

/-- The physical pieces in device memory of a range, those of its pages that `use` lets through, and whether some part is dropped. -/
def State.rangePieces (s : State) (core aspace va n : Nat) (use : Leaf → Bool) : State × List (Nat × Nat × Leaf) × Bool :=
  (pageParts va n).foldl (fun (r : State × List (Nat × Nat × Leaf) × Bool) p =>
    let d := dieOf core
    let s := if 2 ^ 55 ≤ p.1 then r.1 else r.1.readEach (r.1.walkReads d aspace p.1)
    let t := if 2 ^ 55 ≤ p.1 then (s.die d, none) else xlat s.mem s.sys.asroot (s.die d) aspace p.1
    let s := s.setDie d t.1
    match t.2 with
    | none => (s, r.2.1, true)
    | some l =>
      if !use l then (s, r.2.1, true)
      else if l.remote || !inDevice (l.pa p.1) then (s, r.2.1, r.2.2)
      else (s, r.2.1 ++ [(l.pa p.1, p.2, l)], r.2.2)) (s, [], false)

/-- Whether the translation of a range waits for a row under test (R322). -/
def State.rangeWaits (s : State) (core aspace va n : Nat) : Bool :=
  (pageParts va n).any (fun p => decide (p.1 < 2 ^ 55) && (s.walkReads (dieOf core) aspace p.1).any s.rowStalls)

/-- The first page of a range that is migrating. -/
def State.migrating (s : State) (core aspace va n : Nat) : Option Nat :=
  ((pageParts va n).find? (fun p => decide (p.1 < 2 ^ 55) &&
    ((xlat s.mem s.sys.asroot (s.die (dieOf core)) aspace p.1).2.any Leaf.mig))).map Prod.fst

/-- Whether a line overlaps one of the pieces. -/
def inPieces (ps : List (Nat × Nat × Leaf)) (line : Nat) : Bool :=
  ps.any (fun p => decide (128 * line < p.1 + p.2.1) && decide (p.1 < 128 * line + 128))

/-- FLUSH: write-backs of the range's dirty lines; once they are acknowledged its clean lines are dropped, with ACQ. -/
def flushCmd (core q slot : Nat) (s : State) : Option State :=
  match s.goingEntry core q slot with
  | none => none
  | some (key, c) =>
    if c.kind ≠ kFLUSH ∨ c.state ≠ .running ∨ c.stage = 4 ∨ c.cancelling ∨
        s.rangeWaits core (s.m.groupAt core c.group).aspace (c.vaOf 2) (bits (c.w 4) 39 0) then none
    else
      let d := dieOf core
      let (s, ps, drop) := s.rangePieces core (s.m.groupAt core c.group).aspace (c.vaOf 2) (bits (c.w 4) 39 0) (fun _ => true)
      if c.stage = 0 then
        let s := s.sendWriteBacks d (fun l _ => inPieces ps l)
        s.keep core key { c with stage := 1, waits := (s.die d).msgs.map Msg.id, hintDrop := drop }
      else if !s.acked core c then none
      else
        let x := s.die d
        let s := if cACQ (c.w 0) then s.setDie d { x with lines := x.lines.filter (fun l v => v.dirty ≠ 0 || !inPieces ps l) } else s
        s.keep core key { c with stage := 4 }

def execFlushCmd (c q slot : Nat) (s : State) := happen (flushCmd c q slot) s

/-- The lines of the pieces. -/
def pieceLines (ps : List (Nat × Nat × Leaf)) : List (Nat × Leaf) :=
  ps.flatMap (fun p => (List.range ((p.1 + p.2.1 - 1) / 128 - p.1 / 128 + 1)).map (fun k => (p.1 / 128 + k, p.2.2)))

/-- A HINT of one operation over its range. A migrating page of it makes it wait, as any other access (R199, R270); it drops the parts that R166
names. -/
def hintEvent (op : Nat) (f : Nat → State → Nat × Leaf → State) (core q slot : Nat) (s : State) : Option State :=
  match s.goingEntry core q slot with
  | none => none
  | some (key, c) =>
    let aspace := (s.m.groupAt core c.group).aspace
    let va := c.vaOf 1
    let n := bits (c.w 4) 39 0
    if c.kind ≠ kHINT ∨ cHINTOP (c.w 0) ≠ op ∨ c.state ≠ .running ∨ c.stage = 4 ∨ c.cancelling ∨ c.replay.isSome ∨ s.rangeWaits core aspace va n then none
    else
      match s.migrating core aspace va n with
      | some page => State.halted core key (s.awaitPage core key c aspace page)
      | none =>
        let (s, ps, drop) := s.rangePieces core aspace va n (fun l => l.read && !l.own)
        let s := (pieceLines ps).foldl (f (dieOf core)) s
        s.keep core key { c with hintDrop := drop, stage := 4 }

/-- A prefetch of a line into a die's L2: fills of its sectors are requested, for no command. -/
def prefetchLine (d : Nat) (s : State) (p : Nat × Leaf) : State :=
  (List.range 4).foldl (fun (s : State) k =>
    let pa := 128 * p.1 + 32 * k
    if ((s.die d).serve pa 32 p.2.cls).isSome then s else s.askSector (80 * d) 256 d pa p.2 1) s

/-- A line made resident: present, filled, with RET 2, or 1 when its set already holds four such lines. -/
def keepLine (d : Nat) (s : State) (p : Nat × Leaf) : State :=
  let line := p.1
  let x := s.die d
  let kept := (x.setMates line).filter (fun _ l => l.ret = 2)
  let ret := if 4 ≤ kept.length then 1 else 2
  let s := if ((s.die d).serve (128 * line) 128 p.2.cls).isSome then s
    else (List.range 4).foldl (fun (s : State) k =>
      let pa := 128 * line + 32 * k
      let s := s.readSectors pa 32
      if s.poisoned pa 32 then s
      else (s.fillSector d { pa := pa, cls := p.2.cls, gen := (s.die d).gen p.2.cls, rd := p.2.rdup, ret := ret, core := 0, key := 256 }).1) s
  s.setDie d { s.die d with lines := (s.die d).lines.modify line (fun l => { l with ret := ret }) }

def execHintPrefetchL2 (c q slot : Nat) (s : State) := happen (hintEvent 0 prefetchLine c q slot) s
def execHintPrefetchHome (c q slot : Nat) (s : State) := happen (hintEvent 1 (fun _ s p => s.touchLine (128 * p.1)) c q slot) s
def execHintKeepResident (c q slot : Nat) (s : State) := happen (hintEvent 2 keepLine c q slot) s
def execHintReleaseResidency (c q slot : Nat) (s : State) :=
  happen (hintEvent 3 (fun d s p => s.setDie d { s.die d with lines := (s.die d).lines.modify p.1 (fun l => { l with ret := 0 }) }) c q slot) s

/-! ## Completion and cancellation (R170, R174, R177) -/

/-- Whether a running command has done all that it does. -/
def Cmd.finished (c : Cmd) : Bool := if c.kind ≤ kFILL then decide (c.total ≤ c.done) else c.stage = 4

/-- COMMAND_COMPLETE (R174). -/
def commandComplete (core q slot : Nat) (s : State) : Option State :=
  match s.goingEntry core q slot with
  | none => none
  | some (key, c) =>
    let bumped := match c.token with | some t => !s.m.bumps.any (fun b => b.token = t) | none => true
    if c.state ≠ .running ∨ !c.finished ∨ (c.cancelling ∧ !s.made core c) ∨ !s.acked core c ∨ s.openRequests core key ∨ !bumped then none
    else
      let bad := cCRCM (c.w 0) ≠ 0 && cCRCCHK (c.w 0) && decide ((crcFinal c.crc).toNat ≠ bits (c.w 5) 31 0)
      some { s with m := s.m.endCmd core key { c with state := .done, done := c.total, crcBad := bad } }

def execCommandComplete (c q slot : Nat) (s : State) := happen (commandComplete c q slot) s

/-- CANCELLATION_COMPLETE (R177): what is retired is drained, and what a FENCE or SIGNAL has not made yet is withdrawn; then the command ends with STATE
CANCELLED. -/
def cancellationComplete (core q slot : Nat) (s : State) : Option State :=
  match s.entry core q slot with
  | none => none
  | some (key, c) =>
    let made := s.made core c
    let s := s.withdraw core c
    if !c.cancelling ∨ !c.open_ ∨ !c.accepted ∨ made ∨ !s.acked core c ∨
        (c.kind ≤ kFILL ∧ c.stage = 2 ∧ c.state = .running ∧ c.remoteFault = 0 ∧ s.openRequests core key) then none
    else
      let d := dieOf core
      let s := (s.disarm (.command core key)).notice core key c.peers .cancel
      let s := s.setDie d { s.die d with replayQ := (s.die d).replayQ.filter (fun p => p ≠ (core, key)) }
      some { s with m := s.m.endCancelled core key c }

def execCancellationComplete (c q slot : Nat) (s : State) := happen (cancellationComplete c q slot) s

end Sys2Proof.Machine
end

