-- ==== Sys2Proof/Machine/EvXlat.lean ====
section
/-! DEFINITION. The events of translation and of fault service: page walks, REPLAY, TLBINV, HANDOVER and FQSVC (R199, R271 to R273, R279). -/

namespace Sys2Proof.Machine

/-- Whether a port's function may write the registers that are not launch queues (R293), on a device that has come up (R318). -/
def Sys.ctl (y : Sys) (port : Nat) : Bool := port = y.ctlPort && y.boot = 0 && y.pstate ≠ 3

/-! ## Walking ahead (R271) -/

/-- The element of an operand that element n of a command names, as its index list stands now; a walk ahead meets no fault. -/
def State.peekIndex (s : State) (core : Nat) (c : Cmd) (n : Nat) : Nat :=
  match s.m.spotOf core c.group c.tid false (c.w 3) with
  | none => n
  | some sp => ((s.m.core sp.reach.core).bytes sp.reach.tile).readN (s.m.phys sp.reach (sp.off + 4 * (n / c.rowLen : Nat))) 4 * c.rowLen + n % c.rowLen

/-- Where element n of a global operand in word `word` lies. -/
def State.elemVa (s : State) (core : Nat) (c : Cmd) (word fmt : Nat) (lay : Option (List Word)) (ix : Bool) (n : Nat) : List Nat :=
  match s.m.operandOf core c word fmt c.total lay with
  | none => []
  | some o => if o.spot.global then [(o.at (if ix then s.peekIndex core c n else n)).toNat] else []

/-- The addresses that a command's n-th next element, or the n-th page of its range, reaches. -/
def State.nextVas (s : State) (core : Nat) (c : Cmd) (n : Nat) : List Nat :=
  if c.kind ≤ kFILL then
    (if c.kind = kFILL then [] else s.elemVa core c 1 c.sfmt c.src (c.kind = kGATHER) (c.done + n)) ++
      s.elemVa core c 2 c.dfmt c.dst (c.kind = kSCATTER) (c.done + n)
  else if c.kind = kWATCH then [c.vaOf 1]
  else if c.kind = kSIGNAL then [c.vaOf 2]
  else if c.kind = kFENCE then []
  else [c.vaOf (if c.kind = kFLUSH then 2 else 1) / 65536 * 65536 + 65536 * n]

/-- How many of them there are. -/
def Cmd.nextCount (c : Cmd) : Nat :=
  if c.kind ≤ kFILL then c.total - c.done
  else if c.kind = kFLUSH ∨ c.kind = kHINT then
    (c.vaOf (if c.kind = kFLUSH then 2 else 1) % 65536 + bits (c.w 4) 39 0 + 65535) / 65536
  else 1

/-- Whether a page is among the first 64 that some addresses reach, in their order. -/
def pageAhead (at_ : Nat → List Nat) (page : Nat) : (left n : Nat) → (seen : List Nat) → Bool
  | 0, _, _ => false
  | left + 1, n, seen =>
    let ps := (at_ n).map (· / 65536)
    let seen := distinct (seen ++ ps)
    decide (seen.length ≤ 64) && (ps.contains page || pageAhead at_ page left (n + 1) seen)

/-- Whether a die's translator may walk a page ahead: for a running command of its cores, or for the window of a collective there. -/
def State.walksAhead (s : State) (d aspace va : Nat) : Bool :=
  s.m.cores.any (fun p => dieOf p.1 = d && List.any p.2.cmds (fun q =>
    q.2.state = .running && (p.2.group q.2.group).aspace = aspace && pageAhead (s.nextVas p.1 q.2) (va / 65536) q.2.nextCount 0 [])) ||
  s.m.colls.any (fun k => dieOf k.core = d && !k.done && (s.m.groupAt k.core k.group).aspace = aspace && bits k.window 54 0 / 65536 = va / 65536)

/-- PAGE_WALK: the translator walks ahead of a running command, up to 64 pages; a valid translation is kept (R271). -/
def pageWalk (d aspace va : Nat) (s : State) : Option State :=
  let path := s.walkReads d aspace va
  if 4 ≤ d ∨ 16 ≤ aspace ∨ 2 ^ 55 ≤ va ∨ (tlbFind (s.die d).tlb aspace va).isSome ∨ !s.walksAhead d aspace va ∨ path.any s.rowStalls then none
  else
    let s := s.readEach path
    let x := xlat s.mem s.sys.asroot (s.die d) aspace va
    if x.2.isSome then some (s.setDie d x.1) else none

def execPageWalk (d aspace va : Nat) (s : State) := happen (pageWalk d aspace va) s

/-- REPLAY: a host write of a die's REPLAY register (R199). -/
def replay (d : Nat) (v : Word) (port : Nat) (s : State) : Option State :=
  if s.sys.ctl port ∧ d < 4 then some (s.replayWrite d v) else none

def execReplay (d : Nat) (v : Word) (port : Nat) (s : State) := happen (replay d v port) s

/-! ## TLBINV (R272) -/

/-- Whether a TLB entry falls under an invalidation: its address space, and all of it or a range of pages. -/
def TlbEntry.under (e : TlbEntry) (aspace : Nat) (all : Bool) (page n : Nat) : Bool :=
  let lo := e.tag * 2 ^ levelBits e.level
  e.aspace = aspace && (all || (decide (lo < (page + n) * 65536) && decide (page * 65536 < lo + 2 ^ levelBits e.level)))

/-- A die's TLB without the entries of an invalidation. -/
def Die.invalidate (x : Die) (aspace : Nat) (all : Bool) (page n : Nat) : Die :=
  { x with tlb := x.tlb.filter (fun e => !e.under aspace all page n) }

/-- TLBINV: a write of w1 starts an invalidation, or leaves it waiting behind the one in progress. -/
def tlbinvWrite (d : Nat) (w1 : Word) (s : State) : State :=
  let x := s.die d
  let w1 := BitVec.ofNat 64 (bits w1 31 0)
  s.setDie d { x with inv1 := w1, invDone := false, invQueue := x.invQueue ++ [(x.inv0, w1)] }

def tlbinv (d : Nat) (w1 : Word) (port : Nat) (s : State) : Option State :=
  if s.sys.ctl port ∧ d < 4 then some (tlbinvWrite d w1 s) else none

def execTlbinv (d : Nat) (w1 : Word) (port : Nat) (s : State) := happen (tlbinv d w1 port) s

/-- A write that peers have staged for a command, and that is not committed yet. -/
def Cmd.staged (c : Cmd) : Bool :=
  c.state = .running && (if c.kind ≤ kFILL then c.stage ≠ 0 else c.kind = kSIGNAL && cOP (c.w 0) = 0 && c.stage = 2 && !c.peers.isEmpty)

/-- Every access of a die that was translated is performed: none is on its way to a home or a peer or staged there, and no watch has still to
arm. -/
def State.drained (s : State) (d : Nat) : Bool :=
  (s.die d).performedAll && (s.die d).fills.isEmpty && !s.fab.remotes.any (fun r => dieOf r.req.core = d && !r.held) &&
  !s.l2.homes.any (fun h => h.2.watches.any (fun w => !w.armed && (match w.owner with | .command core _ => dieOf core = d | .remote _ _ => false))) &&
  !s.m.cores.any (fun p => dieOf p.1 = d && List.any p.2.cmds (fun q => q.2.staged))

/-- TLBINV_COMPLETE: the oldest invalidation's entries are removed once every access translated under them is performed. -/
def tlbinvComplete (d : Nat) (s : State) : Option State :=
  let x := s.die d
  match x.invQueue with
  | [] => none
  | (w0, w1) :: rest =>
    if !s.drained d then none
    else
      let x := x.invalidate (bits w0 63 60) (bitOf w0 59) (bits w0 54 16) (bits w1 31 0)
      some (s.setDie d { x with invQueue := rest, invDone := rest.isEmpty })

def execTlbinvComplete (d : Nat) (s : State) := happen (tlbinvComplete d) s

/-! ## HANDOVER (R273) -/

/-- The lines of device memory that a range of pages of an address space maps. -/
def State.pagePieces (s : State) (aspace page n : Nat) : List (Nat × Nat × Leaf) :=
  (List.range n).filterMap (fun k =>
    match walk s.mem s.sys.asroot aspace ((page + k) * 65536) with
    | none => none
    | some (level, w) =>
      let l := leafFields level w
      if l.remote || !inDevice (l.pa ((page + k) * 65536)) then none else some (l.pa ((page + k) * 65536), 65536, l))

/-- The page-table entries that a handover's steps read. -/
def State.handReads (s : State) : List Nat :=
  (List.range (bits s.sys.hoRun.2 31 0)).flatMap (fun k =>
    walkPath s.mem s.sys.asroot (bits s.sys.hoRun.1 62 59) ((bits s.sys.hoRun.1 54 16 + k) * 65536))

/-- On a die: the range's translations removed, its dirty bytes written back and SV of its lines cleared. -/
def State.handDie (s : State) (d : Nat) : State :=
  let aspace := bits s.sys.hoRun.1 62 59
  let page := bits s.sys.hoRun.1 54 16
  let n := bits s.sys.hoRun.2 31 0
  let ps := s.pagePieces aspace page n
  let s := s.setDie d ((s.die d).invalidate aspace false page n)
  ((s.die d).lines.filter (fun l _ => inPieces ps l)).keys.foldl (fun (s : State) l =>
    let s := s.writeBackLine d l
    s.setDie d { s.die d with lines := (s.die d).lines.modify l (fun x => { x with sv := 0 }) }) s

/-- A write of HANDOVER's w1 starts a handover in the direction that w0 holds, with both words as they stand then (R291); one that is in progress goes
on, and the write starts none. -/
def handoverWrite (w1 : Word) (s : State) : State :=
  if !s.sys.hoDone then s
  else { s with sys := { s.sys with ho1 := BitVec.ofNat 64 (bits w1 31 0), hoDone := false, hoRun := (s.sys.ho0, BitVec.ofNat 64 (bits w1 31 0)) } }

/-- A handover of a direction. -/
def handover (toHost : Bool) (w1 : Word) (port : Nat) (s : State) : Option State :=
  if s.sys.ctl port ∧ bitOf s.sys.ho0 63 = toHost ∧ s.sys.hoDone then some (handoverWrite w1 s) else none

def execHandoverTodevice (w1 : Word) (port : Nat) (s : State) := happen (handover false w1 port) s
def execHandoverTohost (w1 : Word) (port : Nat) (s : State) := happen (handover true w1 port) s

/-- HANDOVER_COMPLETE: its steps on every die, once nothing that was translated before is on its way. -/
def handoverComplete (s : State) : Option State :=
  let reads := s.handReads
  if s.sys.hoDone ∨ !(List.range 4).all s.drained ∨ reads.any s.rowStalls then none
  else
    let s := s.readEach reads
    let s := (List.range 4).foldl State.handDie s
    some { s with sys := { s.sys with hoDone := true } }

def execHandoverComplete (s : State) := happen handoverComplete s

/-! ## FQSVC (R176, R177, R279) -/

/-- The suspended command of a resident group that an identity names. -/
def Mach.serviced (m : Mach) (grid idx q slot : Nat) : Option (Nat × Nat × Cmd) :=
  List.findSome? (fun p : Nat × Core => List.findSome? (fun e : Nat × Cmd =>
    let g := p.2.group e.2.group
    if e.2.state = .suspended ∧ e.2.idQueue = q ∧ e.2.idSlot = slot ∧ g.grid = grid ∧ g.idx = idx then some (p.1, e.1, e.2) else none) p.2.cmds) m.cores

/-- A suspended command resumes at DONE. -/
def State.resume (s : State) (core key : Nat) (c : Cmd) : State :=
  let s := s.notice core key c.peers .resume
  { s with m := s.m.report core key { c with state := .running, fault := 0, remoteFault := 0 } }

/-- First byte of a save slot (R283). -/
def Sys.slotBase (y : Sys) (slot : Nat) : Nat := bits y.pool 51 22 * 2 ^ 22 + slot * 2 ^ 22

/-- The addresses of a group record's queue entries. -/
def entryAt (base k : Nat) : Nat := base + 0x25000 + 256 * k

/-- A service request recorded in the saved record of a group; a resume does not take the place of a cancel that stands there (R177, R279). -/
def State.serviceSaved (s : State) (ref : SavedRef) (q slot action : Nat) : State :=
  let base := s.sys.slotBase ref.slot
  let s := s.readEach [base + 16]
  let n := bits (s.mem.readD (base + 16)) 63 55
  (List.range n).foldl (fun (s : State) k =>
    let s := s.readEach [entryAt base k + 64]
    let w := s.mem.readD (entryAt base k + 64)
    if bits w 41 40 = q ∧ bits w 39 34 = slot ∧ bits w 63 62 ≠ 2 then s.storeD (entryAt base k + 64) (setBits w 63 62 action) else s) s

/-- A write of FQSVC's w1 submits the request that w0 holds; one that names no suspended command is ignored. -/
def fqsvcWrite (w1 : Word) (s : State) : State :=
  let w0 := s.sys.svc0
  let action := bits w0 63 62
  let q := bits w0 61 60
  let slot := bits w0 59 54
  let idx := bits w0 31 0
  let grid := bits w1 31 0
  let s := { s with sys := { s.sys with svc1 := BitVec.ofNat 64 grid } }
  if action = 0 ∨ action = 3 then s
  else
    match s.m.serviced grid idx q slot with
    | some (core, key, c) =>
      if action = 1 then (if c.cancelling then s else s.resume core key c)
      else { s with m := s.m.setCore core ((s.m.core core).cancel key) }
    | none =>
      match (s.m.grids.find? grid).bind (fun g => g.saved.find? (fun r => r.idx = idx)) with
      | some ref => s.serviceSaved ref q slot action
      | none => s

/-- An FQSVC request of an action. -/
def fqsvc (action : Nat) (w1 : Word) (port : Nat) (s : State) : Option State :=
  if s.sys.ctl port ∧ bits s.sys.svc0 63 62 = action then some (fqsvcWrite w1 s) else none

def execFqsvcResume (w1 : Word) (port : Nat) (s : State) := happen (fqsvc 1 w1 port) s
def execFqsvcCancel (w1 : Word) (port : Nat) (s : State) := happen (fqsvc 2 w1 port) s

end Sys2Proof.Machine
end

