-- ==== Sys2Proof/Machine/RunMgmt.lean ====
section
/-! DEFINITION. Run management, major 0x0C (R69, R73, R93, R94, R444, R445). -/

namespace Sys2Proof.Machine

/-- A scalar result of a vector instruction. -/
def scalarOut (t : Team) (d : Nat) (v : Word) (passes : Nat) : VOut :=
  { team := t.ws d v, passes := passes, flags := 0, cls := .scalar, num := d }

/-- VCOAL (R93). MODEL'S CHOICE: a register of tag U or A counts as one run for the pass count, which R93 gives per run; R69 counts LANES runs for
an A register and the two rules do not say which is meant (log entry 110). -/
def execVcoal (d : Reg) (s : State) : Host.Outcome State Fault Refusal :=
  word (onVector fun t =>
    if !t.vecOk [d.toNat] then reserved (.vcoal d)
    else
      let v := t.rv d.toNat
      let runs := match v.shape with | .g rs => rs.length | _ => 1
      .ok { team := { t with v := t.v.set d.toNat v.coalesce }, passes := passCount (runs * if v.w then 2 else 1) 32,
            flags := 0, cls := .vector, num := d.toNat }) s

/-- TAG of a shape (R65). -/
def Shape.tag : Shape → Nat
  | .u _ => 0
  | .a _ _ => 1
  | .g _ => 2

/-- VINFO (R69). -/
def execVinfo (d a : Reg) (s : State) : Host.Outcome State Fault Refusal :=
  word (onVector fun t =>
    if !t.vecOk [a.toNat] then reserved (.vinfo d a)
    else
      let v := t.rv a.toNat
      .ok (scalarOut t d.toNat
        (wordOf [(32, v.cost), (16, v.nruns t.lanes), (2, b2n v.w), (0, v.shape.tag)]) 1)) s

/-- VFREE (R94). -/
def execVfree (d : Reg) (s : State) : Host.Outcome State Fault Refusal :=
  word (onVector fun t =>
    if !t.vecOk [d.toNat] then reserved (.vfree d)
    else .ok { team := { t with v := t.v.set d.toNat (VReg.uniform 0) }, passes := 1, flags := 0, cls := .vector, num := d.toNat }) s

/-- Slots granted to the teams of a core (R70). A group that has left DRAINING has no team here. -/
def Core.granted (x : Core) : Nat := (List.map (fun p => p.2.allot) x.teams).sum

/-- Free slots of a core's pool. -/
def Core.poolFree (x : Core) : Nat := 65536 - x.granted

/-- VRUN (R445). -/
def execVrun (d a b : Reg) (s : State) : Host.Outcome State Fault Refusal :=
  word (onVector fun t =>
    if !t.vecOk [a.toNat] then reserved (.vrun d a b)
    else
      let k := (t.rs b.toNat).toNat
      let ends := (t.rv a.toNat).ends t.lanes
      let start := if k = 0 then 0 else ends.getD (k - 1) 0
      let r := if k < ends.length then wordOf [(16, start), (0, ends.getD k 0)] else 0
      .ok (scalarOut t d.toNat r 1)) s

/-- VEXT (R445): sign-extended for INT types, zero-extended otherwise. -/
def execVext (d a b : Reg) (s : State) : Host.Outcome State Fault Refusal :=
  word (onVector fun t =>
    if !t.vecOk [a.toNat] then reserved (.vext d a b)
    else
      let n := t.width
      let x := (t.rv a.toNat).lane n ((t.rs b.toNat).toNat % t.lanes)
      .ok (scalarOut t d.toNat (if t.etype ≤ 3 then wordOfInt (signed x.toNat n) else x) 1)) s

/-- VINS (R445): one computed segment, the lane written; an A register becomes G with one run per lane, but that the lane merges with a neighbour
of the same value (R78, R439). A lane outside m0 changes nothing. -/
def execVins (d a b : Reg) (s : State) : Host.Outcome State Fault Refusal :=
  word (onVector fun t =>
    if !t.vecOk [d.toNat] then reserved (.vins d a b)
    else
      let n := t.width
      let l := (t.rs b.toNat).toNat % t.lanes
      let x := (t.rs a.toNat).toNat % 2 ^ n
      if !maskAt t.em l then .ok { team := t, passes := 1, flags := 0, cls := .vector, num := d.toNat }
      else
        elementWise t d.toNat (maskRange t.lanes l (l + 1)) [] (segsPerPass (n = 64)) (n = 64) (fun _ => (x, 0))) s

end Sys2Proof.Machine
end

