-- ==== Sys2Proof/Machine/Place.lean ====
section
/-! DEFINITION. Placing a group on a core: what a core can grant, which core is chosen, and the state a team starts in
(R26 to R29, R35, R37, R43, R144, R227), and VBUDGET, which draws on the same pool (R47, R73). -/

namespace Sys2Proof.Machine

/-! ## Grants (R27, R28, R43, R144) -/

/-- What a core grants a group: its place, the first units of its partitions, its accumulators and its team places. -/
structure Grant where
  group : Nat
  sp : Nat
  tile : Nat
  accs : List Nat
  places : List Nat
  deriving DecidableEq, Repr

/-- The lowest start at which `need` units fit among the spans in use. -/
def lowestFit (spans : List (Nat × Nat)) (total need : Nat) : Option Nat :=
  if need = 0 then some 0
  else if total < need then none
  else (List.range (total - need + 1)).find? (fun s => spans.all (fun p => decide (s + need ≤ p.1) || decide (p.1 + p.2 ≤ s) || p.2 = 0))

/-- The n lowest numbers below `bound` that are not in use, if there are so many. -/
def lowestFree (used : Nat → Bool) (bound n : Nat) : Option (List Nat) :=
  let fs := ((List.range bound).filter (fun k => !used k)).take n
  if fs.length = n then some fs else none

/-- What a core needs to hold for a group beyond its launch record: a saved group's own allotments and table entries (R75, R285). -/
structure Needs where
  allots : List Nat
  locks : Nat
  queues : List Nat
  deriving DecidableEq, Repr

/-- What a first placement needs: every team its declared allotment. -/
def LaunchRec.needs (r : LaunchRec) : Needs := { allots := List.replicate r.teams r.allot, locks := 0, queues := [0, 0, 0, 0] }

/-- The grant of a core for a group, if it can give all of it at once. -/
def Core.grant? (x : Core) (r : LaunchRec) (n : Needs) : Option Grant :=
  let gs := List.map Prod.snd x.groups
  if x.lost ∨ x.poolFree < n.allots.sum ∨ x.freeLocks < n.locks ∨
      (List.range 4).any (fun q => decide (64 < (x.queueCmds q).length + n.queues.getD q 0)) then none
  else
    match lowestFree x.groups.has 16 1, lowestFree x.teams.has 48 r.teams, lowestFree (fun a => gs.any (fun g => g.accs.contains a)) 16 r.nacc,
        lowestFit (gs.map (fun g => (g.spUnit, g.spUnits))) 128 r.spUnits, lowestFit (gs.map (fun g => (g.tileUnit, g.tileUnits))) 64 r.tileUnits with
    | some gp, some ps, some as, some sp, some tile => some { group := gp.headD 0, sp := sp, tile := tile, accs := as, places := ps }
    | _, _, _, _, _ => none

/-- The members of a set on the lowest of some cores that can take them, each on its own. -/
def Mach.fillCluster (m : Mach) (r : LaunchRec) : List Nat → List Needs → Option (List (Nat × Grant))
  | _, [] => some []
  | [], _ => none
  | c :: cs, n :: ns =>
    match (m.core c).grant? r n with
    | some g => (m.fillCluster r cs ns).map (fun rest => (c, g) :: rest)
    | none => m.fillCluster r cs (n :: ns)

/-- The cores that take the k groups of a set, with their grants: the lowest core of those offered, or, for a set, the lowest cores of the
lowest cluster that can take them all (R43). `need` gives each member's needs, by its position in the set. -/
def Mach.chooseCores (m : Mach) (cores : List Nat) (r : LaunchRec) (need : List Needs) : Option (List (Nat × Grant)) :=
  match need with
  | [n] => (cores.findSome? (fun c => ((m.core c).grant? r n).map (fun g => [(c, g)])))
  | _ =>
    (distinct (cores.map clusterOf)).findSome? (fun k => m.fillCluster r (cores.filter (fun c => clusterOf c = k)) need)

/-- The cores of a die. -/
def dieCores (d : Nat) : List Nat := (List.range 80).map (· + 80 * d)

/-! ## Placement (R35, R144, R227) -/

/-- A team at its start (R35). MODEL'S CHOICE: its age is 0 (log entry 129). -/
def startTeam (r : LaunchRec) (g : Group) (place tid : Nat) : Team :=
  let top := mkPtr 0x8 0 0 g.privSize
  { Team.blank with
    group := place, tid := tid, lanes := widthLanes r.width, nv := 8 * r.vregs, allot := r.allot, pc := BitVec.ofNat 64 r.entry,
    s := if top = 0 then Tab.set [] 1 r.arg else Tab.set (Tab.set [] 1 r.arg) 63 top }

/-- A group as its placement makes it. -/
def newGroup (grid idx prio queue aspace depth now time : Nat) (r : LaunchRec) (g : Grant) : Group :=
  let fill := max (16 * r.spUnits) (64 * r.tileUnits)
  { Group.blank with
    grid := grid, idx := idx, prio := prio, queue := queue, aspace := aspace, depth := depth, lrec := r, spUnit := g.sp,
    spUnits := r.spUnits, tileUnit := g.tile, tileUnits := r.tileUnits, accs := g.accs, placedAt := time,
    filling := if fill = 0 then none else some (now + fill) }

/-- A group's partitions and accumulators filled with zeros (R144, R227). -/
def Core.zeroGroup (x : Core) (g : Group) : Core :=
  let inSp (w : Nat) : Bool := decide (g.spBase ≤ 8 * w) && decide (8 * w < g.spBase + g.spSize)
  let inTile (w : Nat) : Bool := decide (g.tileBase ≤ 8 * w) && decide (8 * w < g.tileBase + g.tileSize)
  { x with
    scratch := x.scratch.clear g.spBase (g.spBase + g.spSize), tile := x.tile.clear g.tileBase (g.tileBase + g.tileSize),
    badScratch := x.badScratch.filter (fun w => !(decide (w < 65536) && inSp w)), badTile := x.badTile.filter (fun w => !inTile w),
    accs := x.accs.filter (fun k _ => !g.accs.contains k) }

/-- A group and its teams put on a core. -/
def Core.install (x : Core) (place : Nat) (g : Group) (teams : List (Nat × Team)) : Core :=
  teams.foldl (fun (x : Core) p => x.setTeam p.1 p.2) (x.setGroup place g)

/-- A fresh group placed on a core under a grant. -/
def Mach.place (m : Mach) (core : Nat) (g : Grant) (grp : Group) : Mach :=
  let r := grp.lrec
  let x := (m.core core).zeroGroup grp
  m.setCore core (x.install g.group grp ((g.places.zip (List.range r.teams)).map (fun p => (p.1, startTeam r grp g.group p.2))))

/-- Groups of a grid placed together on a die, if it can take them: the members of a set, or one group. -/
def Mach.placeSet (m : Mach) (d : Nat) (h : List Handed) : Option Mach :=
  match (h.head?).bind (fun a => m.grids.find? a.grid) with
  | none => none
  | some g =>
    match m.chooseCores (dieCores d) g.lrec (h.map (fun _ => g.lrec.needs)) with
    | none => none
    | some cs => some ((cs.zip h).foldl (fun (m : Mach) p =>
        m.place p.1.1 p.1.2 (newGroup p.2.grid p.2.idx p.2.prio g.queue g.aspace g.depth m.now m.time g.lrec p.1.2)) m)

/-- The groups handed to a die and not yet placed. -/
def Mach.handedTo (m : Mach) (d : Nat) : List Handed := m.handed.get [] d

/-- The next groups of a die's list that are placed together: a set, or one group. -/
def Mach.nextHanded (m : Mach) (d : Nat) : List Handed :=
  match m.handedTo d with
  | [] => []
  | h :: rest =>
    match m.grids.find? h.grid with
    | none => [h]
    | some g => h :: rest.take (g.lrec.factor - 1)

/-- The oldest handed groups of a die placed. -/
def Mach.placeNext (m : Mach) (d : Nat) : Option Mach :=
  let h := m.nextHanded d
  if h.isEmpty then none
  else (m.placeSet d h).map (fun m => { m with handed := m.handed.set d ((m.handedTo d).drop h.length) })

/-- A die with every group handed to it placed, as far as that goes. -/
def Mach.settleDie (d : Nat) : (fuel : Nat) → Mach → Mach
  | 0, m => m
  | n + 1, m => match m.placeNext d with
    | some m => Mach.settleDie d n m
    | none => m

/-- Sets of a grid, from group i on, that a die can take: at most `fuel`. -/
def Mach.countSets (d grid k : Nat) : (fuel : Nat) → Nat → Mach → Nat
  | 0, _, _ => 0
  | n + 1, i, m =>
    match m.placeSet d ((List.range k).map (fun j => ⟨grid, i + j, 0⟩)) with
    | some m => 1 + Mach.countSets d grid k n (i + k) m
    | none => 0

/-- How many further groups of a grid a die can place at once, up to `limit` (R42). -/
def Mach.dieCount (m : Mach) (d grid limit : Nat) : Nat :=
  match m.grids.find? grid with
  | none => 0
  | some g =>
    let k := g.lrec.factor
    let m := m.settleDie d ((m.handedTo d).length) 
    if !(m.handedTo d).isEmpty then 0
    else k * m.countSets d grid k (min (limit / k) ((g.lrec.groups - g.next) / k)) g.next

/-! ## VBUDGET (R73) and what a COOP grid has reserved (R47) -/

/-- A COOP grid of which some groups are handed out, or still to be, and not yet placed. -/
def Mach.placingCoop (m : Mach) (id : Nat) (g : Grid) : Bool :=
  g.lrec.coop && decide (0 < g.next) &&
    (decide (g.next < g.lrec.groups) || (List.range 4).any (fun d => (m.handedTo d).any (fun h => h.grid = id)))

/-- Whether every group of the COOP grids being placed still has its room, with every group placed that was handed out before. -/
def Mach.coopHolds (m : Mach) : Bool :=
  List.all m.grids (fun p => !m.placingCoop p.1 p.2 ||
    ((List.range 4).all (fun d => ((m.settleDie d (m.handedTo d).length).handedTo d).isEmpty) &&
      decide (p.2.lrec.groups - p.2.next ≤ sumTo (fun d => m.dieCount d p.1 p.2.lrec.groups) 4)))

/-- Whether the current team's allotment can grow by n slots that are free and no COOP grid's reserve (R47, R70, R73). -/
def Mach.poolGives (m : Mach) (n : Nat) : Bool :=
  decide (n ≤ m.myCore.poolFree) && ((m.setTeam { m.team with allot := m.team.allot + n }).coopHolds || !m.coopHolds)

/-- VBUDGET (R73): all or nothing. -/
def execVbudget (d a : Reg) (s : State) : Host.Outcome State Fault Refusal :=
  word (onVectorM fun m =>
    let t := m.team
    let n : Int := (t.rs a.toNat).toInt
    let ok := if 0 ≤ n then decide ((t.allot : Int) + n ≤ 65536) && m.poolGives n.toNat else decide (-n ≤ t.free)
    if ok then .ok (scalarOut { t with allot := ((t.allot : Int) + n).toNat } d.toNat (t.rs a.toNat) 1)
    else .ok (scalarOut t d.toNat 0 1)) s

end Sys2Proof.Machine
end

