-- ==== Sys2Proof/Machine/Retire.lean ====
section
/-! DEFINITION. How a group leaves DRAINING, and how a grid retires: its release, its completion signal, the status of a child and the
child counter of its parent (R41, R44, R48, R49, R53, R404). -/

namespace Sys2Proof.Machine

/-! ## Groups by name -/

/-- The core and the place of a group that has a place on a core. -/
def Mach.findGroup (m : Mach) (grid idx : Nat) : Option (Nat × Nat) :=
  List.findSome? (fun p : Nat × Core => List.findSome? (fun g : Nat × Group =>
    if g.2.grid = grid ∧ g.2.idx = idx ∧ g.2.phase ≠ .gone then some (p.1, g.1) else none) p.2.groups) m.cores

/-- A grid changed, while it is live. -/
def State.onGrid (s : State) (grid : Nat) (f : Grid → Grid) : State := { s with m := { s.m with grids := s.m.grids.modify grid f } }

/-- The saved form of a group, if it is SAVED. -/
def Mach.savedRef (m : Mach) (grid idx : Nat) : Option SavedRef :=
  (m.grids.find? grid).bind (fun g => g.saved.find? (fun r => r.idx = idx))

/-! ## The completion signal (R41) -/

/-- SIGVAL written to SIGADDR: none while its page migrates; dropped, with a GRID_FAULT, where translation or the checks refuse it. -/
def State.signalGrid (s : State) (grid : Nat) (g : Grid) : Option State :=
  let va := g.lrec.sigaddr
  if va = 0 then some s
  else
    let path := walkPath s.mem s.sys.asroot g.aspace va
    if path.any s.rowStalls then none
    else
    let s := s.readEach path
    let l := (walk s.mem s.sys.asroot g.aspace va).bind (fun p => decodeLeaf p.1 p.2)
    let drop : State := { s with m := s.m.gridFault grid }
    match checkAccess l va .write with
    | .wait | .stall => none
    | .page | .ownership | .protection => some drop
    | .ok l =>
      if l.remote then
        let ask (kind : Nat) (s : Option State) (p : Nat) : Option State :=
          s.bind (fun s => s.request { core := deviceCore, key := grid, elem := 1, peer := p, index := l.key, va := va, kind := kind, op := 0, fmt := 7,
                                       size := 8, value := g.lrec.sigval, seq := 0 })
        (s.leafPeers l).foldl (ask 4) ((s.leafPeers l).foldl (ask 1) (some s))
      else
        match targetOf (l.pa va) with
        | .device => some ((if l.rdup then s.invalidateOthers (l.pa va) 4 else s).storeD (l.pa va) g.lrec.sigval)
        | .host _ => some (s.storeD (l.pa va) g.lrec.sigval)
        | _ => some drop

/-! ## The parent of a child grid (R404) -/

/-- Where a saved group's scratchpad image begins in its slot (R283). -/
def imageAt (base : Nat) : Nat := base + 0x35000

/-- The child status word written into the parent's partition, or into its saved image; not at all for a PLACEHOLDER. -/
def State.parentStatus (s : State) (p : Parent) (w : Word) : State :=
  match s.m.findGroup p.grid p.idx with
  | some (c, g) =>
    let v := s.m.groupAt c g
    if v.phase = .waitingPlaceholder then s
    else { s with m := s.m.setCore c ((s.m.core c).engineD v (p.off + 64) w s.m.now) }
  | none =>
    match s.m.savedRef p.grid p.idx with
    | some r => s.storeD (imageAt (s.sys.slotBase r.slot) + p.off + 64) w
    | none => s

/-- A placeholder's entry freed: the group that waits for one on the die takes it. -/
def Mach.freeHolder (m : Mach) (grid idx : Nat) : Mach :=
  match m.placeholders.find? (fun h => h.grid = grid && h.idx = idx) with
  | none => m
  | some h =>
    let m := { m with placeholders := m.placeholders.filter (fun h => !(h.grid = grid && h.idx = idx)) }
    let waiting := List.findSome? (fun p : Nat × Core =>
      if dieOf p.1 = h.die then List.findSome? (fun g : Nat × Group => if g.2.phase = .waitingPlaceholder then some (p.1, g.1, g.2) else none) p.2.groups
      else none) m.cores
    match waiting with
    | none => m
    | some (c, g, v) =>
      { m.setGroupAt c g { v with phase := .gone } with placeholders := m.placeholders ++ [⟨h.die, v.grid, v.idx, v.children⟩] }

/-- The parent's child counter goes down by one, wherever the group is; whether the parent is complete with it. -/
def State.childGone (s : State) (p : Parent) : State × Bool :=
  match s.m.findGroup p.grid p.idx with
  | some (c, g) =>
    let v := s.m.groupAt c g
    let v := { v with children := v.children - 1 }
    if v.phase = .waitingPlaceholder ∧ v.children = 0 then ({ s with m := s.m.setGroupAt c g { v with phase := .gone } }, true)
    else ({ s with m := s.m.setGroupAt c g v }, false)
  | none =>
    match s.m.placeholders.find? (fun h => h.grid = p.grid && h.idx = p.idx) with
    | some h =>
      if h.children ≤ 1 then ({ s with m := s.m.freeHolder p.grid p.idx }, true)
      else ({ s with m := { s.m with placeholders := s.m.placeholders.map (fun h =>
                if h.grid = p.grid ∧ h.idx = p.idx then { h with children := h.children - 1 } else h) } }, false)
    | none =>
      match s.m.savedRef p.grid p.idx with
      | some r =>
        let a := s.sys.slotBase r.slot + 8
        let s := s.readEach [a]
        let w := s.mem.readD a
        (s.storeD a (setBits w 31 0 (bits w 31 0 - 1)), false)
      | none => (s, false)

/-! ## Retirement (R41, R44, R48) -/

/-- A grid is live no more; the launch that had to follow it may be handed out. -/
def Mach.forgetGrid (m : Mach) (grid : Nat) : Mach :=
  let after (g : Grid) : Grid := if g.after = some grid then { g with after := none } else g
  let last (q : LaunchQ) : LaunchQ := if q.last = some grid then { q with last := none } else q
  { m with grids := (m.grids.erase grid).map (fun _ g => after g), queues := m.queues.map (fun _ q => last q),
           children := m.children.filter (· ≠ grid) }

/-- A grid whose groups are all complete retires, once all that its dies have sent is performed: the release, the signal, and for a child its
status and its parent's counter, which may complete a group of the parent grid and let that one retire in turn. While it cannot, the grid stays
live, and the next `State.tick` tries again. `fuel` bounds the depth. -/
def retireGrid : (fuel grid : Nat) → State → State
  | 0, _, s => s
  | fuel + 1, grid, s =>
    match s.m.grids.find? grid with
    | none => s
    | some g =>
      if g.complete < g.lrec.groups ∨ !g.dies.all (fun d => (s.die d).performedAll) then s
      else
        match (g.dies.foldl (fun (s : State) d => s.releaseNow d) s).signalGrid grid g with
        | none => s
        | some s =>
          let s := { s with m := s.m.forgetGrid grid }
          match g.parent with
          | none => s
          | some p =>
            let r := (s.parentStatus p (childStatus (if g.faulted then 4 else 2) 0 grid)).childGone p
            if r.2 then retireGrid fuel p.grid (r.1.onGrid p.grid (fun g => { g with complete := g.complete + 1 })) else r.1

/-- Nesting levels, the top one among them. -/
def levels : Nat := 11

/-- One more group of a grid is complete (R48). -/
def completeOne (grid : Nat) (s : State) : State := s.onGrid grid (fun g => { g with complete := g.complete + 1 })

/-- Grids whose groups are all complete retire at the end of the cycle, if they can: an LWAIT that issues in it reads the status word as it stood
before (R408). -/
def State.retireAll (s : State) : State :=
  (List.filter (fun p : Nat × Grid => decide (p.2.lrec.groups ≤ p.2.complete)) s.m.grids).foldl (fun s p => retireGrid levels p.1 s) s

/-! ## GROUP_COMPLETE (R48, R49) -/

/-- Matrix operations of a group are queued or under way. -/
def Core.matBusy (x : Core) (g : Nat) : Bool := x.matQ.any (fun op => op.group = g) || x.matRun.toList.any (fun op => op.group = g)

/-- An arrival of this cycle has still to land on a barrier of a group. -/
def Core.arriving (x : Core) (g : Nat) : Bool :=
  let v := x.group g
  x.arrivals.any (fun a => decide (v.spBase ≤ a.off) && decide (a.off < v.spBase + v.spSize))

/-- What a group issued to the engines is done: matrix operations, copy commands, collectives. MODEL'S CHOICE: it waits as well for a launch that a
terminated team issued and that is not accepted yet, which R48 does not name (log entry 153). -/
def Mach.enginesDone (m : Mach) (c g : Nat) : Bool :=
  let x := m.core c
  !x.matBusy g && !(List.any x.cmds (fun p => p.2.group = g)) && !x.arriving g &&
  !m.colls.any (fun k => k.core = c && k.group = g && !k.done) && !m.launches.any (fun r => r.core = c && r.group = g)

/-- Whether a queued store writes to a group's partitions. -/
def QueuedStore.into (q : QueuedStore) (c : Nat) (v : Group) : Bool :=
  let lo := if q.tile then v.tileBase else v.spBase
  let n := if q.tile then v.tileSize else v.spSize
  q.core = c && q.bytes.any (fun b => decide (lo ≤ b.1) && decide (b.1 < lo + n))

/-- What is left of a queue whose stores to a group's partitions are performed. -/
def dropInto (c : Nat) (v : Group) (qs : List QueuedStore) : List QueuedStore :=
  qs.map (fun q => if q.into c v then { q with bytes := [], left := [] } else q)

/-- What the group's exited teams have still queued is performed, and so is what others have queued for its partitions or sent there: all of it issued
before this cycle (R130). Nothing in R48 makes the group wait for either (log entry 115). -/
def Mach.flushStores (m : Mach) (c g : Nat) : Mach :=
  let mine := List.filter (fun p : Nat × Team => p.2.group = g) (m.core c).teams
  let m := mine.foldl (fun (m : Mach) p =>
    let m := (p.2.flight ++ p.2.storeQ).foldl (fun (m : Mach) q => m.performStore q) m
    m.setTeamAt c p.1 { m.teamAt c p.1 with flight := [], storeQ := [] }) m
  let v := m.groupAt c g
  let sent := List.flatMap (fun p : Nat × Core => List.flatMap (fun t : Nat × Team => (t.2.flight ++ t.2.storeQ).filter (fun q => q.into c v)) p.2.teams) m.cores
  let m := sent.foldl (fun (m : Mach) q => m.performStore q) m
  { m with cores := m.cores.map (fun _ x => { x with
      teams := x.teams.map (fun _ t => { t with flight := dropInto c v t.flight, storeQ := dropInto c v t.storeQ }) }) }

/-- A group's entries of its core's range-lock table freed (R49). -/
def Mach.dropLocks (m : Mach) (c g : Nat) : Mach :=
  m.setCore c { m.core c with locks := (m.core c).locks.filter (fun _ l => l.group ≠ g) }

/-- The place is free from the next cycle on, with all that the group held (R29, R49). -/
def Mach.leave (m : Mach) (c g : Nat) : Mach := m.setGroupAt c g { m.groupAt c g with phase := .gone }

/-- Entries in use of a die's placeholder table of 1,024 (R49). -/
def Mach.holders (m : Mach) (d : Nat) : Nat := (m.placeholders.filter (fun h => h.die = d)).length

/-- A group without children is complete; one with children is a PLACEHOLDER. -/
def State.leaveDraining (s : State) (c g : Nat) : State :=
  let v := s.m.groupAt c g
  let m := (s.m.flushStores c g).dropLocks c g
  if v.children = 0 then completeOne v.grid { s with m := m.leave c g }
  else if s.m.holders (dieOf c) < 1024 then
    { s with m := { m.leave c g with placeholders := s.m.placeholders ++ [⟨dieOf c, v.grid, v.idx, v.children⟩] } }
  else { s with m := m.setGroupAt c g { v with phase := .waitingPlaceholder } }

/-- GROUP_COMPLETE. -/
def groupComplete (c g : Nat) (s : State) : Option State :=
  match (s.m.core c).groups.find? g with
  | none => none
  | some v =>
    if v.phase = .draining ∧ s.m.enginesDone c g then some (s.leaveDraining c g) else none

def execGroupComplete (c g : Nat) (s : State) := happen (groupComplete c g) s

end Sys2Proof.Machine
end

