-- ==== Sys2Proof/Machine/EvDispatch.lean ====
section
/-! DEFINITION. The launch queues and what dispatch does beside handing out and saving: doorbells, the reading of launch records, placement,
acceptance of child launches, notifications and the device fault queue (R32, R38 to R46, R53, R144, R294 to R297, R403). -/

namespace Sys2Proof.Machine

/-! ## Queue registers (R39, R46, R294, R319) -/

/-- Whether a port's function may write a launch queue's registers: it owns the queue, and the device has come up and has not powered off. -/
def State.queueOwner (s : State) (q port : Nat) : Bool := decide (q < 64) && (s.m.queue q).ownPort = port && s.sys.boot = 0 && s.sys.pstate ≠ 3

/-- Every die's ramp level starts again at 1 (R321). -/
def State.rampReset (s : State) : State :=
  (List.range 4).foldl (fun (s : State) d => s.setDie d { s.die d with ramp := 1 }) s

/-- Whether a TAIL value submits records: the queue accepts doorbells, the value is an index of the ring, and it lies ahead of the present
tail without meeting HEAD. -/
def LaunchQ.advances (k : LaunchQ) (tail : Nat) : Bool :=
  let size := 2 ^ k.log2
  let ahead (x : Nat) : Nat := (x + size - k.head % size) % size
  k.enable && decide (tail < size) && decide (ahead k.tail < ahead tail)

/-- A TAIL write. In P2 and P3 doorbells are ignored; in P1 the device returns to P0. -/
def State.ring (s : State) (q tail : Nat) : State :=
  let k := s.m.queue q
  if !k.advances tail ∨ 2 ≤ s.sys.pstate then s
  else
    let s := if s.sys.pstate = 1 then { s.rampReset with sys := { s.sys with pstate := 0, preqPending := s.sys.preqPending && s.sys.preq ≠ 0 } } else s
    { s with m := s.m.setQueue q { k with tail := tail } }

/-- DOORBELL. -/
def doorbell (q tail port : Nat) (s : State) : Option State := if s.queueOwner q port then some (s.ring q tail) else none

def execDoorbell (q tail port : Nat) (s : State) := happen (doorbell q tail port) s

/-- QUEUE_PRIORITY_WRITE: every group not yet handed out has the new priority from now on (R46). -/
def queuePriorityWrite (q prio port : Nat) (s : State) : Option State :=
  if s.queueOwner q port ∧ prio < 8 then some { s with m := s.m.setQueue q { s.m.queue q with prio := prio } } else none

def execQueuePriorityWrite (q prio port : Nat) (s : State) := happen (queuePriorityWrite q prio port) s

/-- QUEUE_OWNPORT_MOVE: only while HEAD equals TAIL. -/
def queueOwnportMove (q newPort port : Nat) (s : State) : Option State :=
  let k := s.m.queue q
  if s.queueOwner q port ∧ k.head = k.tail ∧ newPort < 2 then some { s with m := s.m.setQueue q { k with ownPort := newPort } } else none

def execQueueOwnportMove (q newPort port : Nat) (s : State) := happen (queueOwnportMove q newPort port) s

/-! ## Rings in memory (R294, R295, R297) -/

/-- Whether the device can read or write memory at an address: device memory, or a host's. -/
def answers (pa : Nat) : Bool :=
  match targetOf pa with
  | .device | .host _ => true
  | _ => false

/-- A doubleword of a ring. -/
def State.ringWord (s : State) (pa : Nat) : Word := if answers pa && !s.poisoned pa 8 then s.mem.readD pa else Config.noData s.free pa

/-- Bytes that the device itself writes to a ring. -/
def State.ringStore (s : State) (pa : Nat) (ws : List Word) : State :=
  if answers pa then s.storeBytes pa (ws.flatMap (fun w => leBytes w.toNat 8)) else s

/-- An MSI-X vector raised on a port's function. -/
def State.msix (s : State) (port vector : Nat) : State := { s with sys := { s.sys with outputs := s.sys.outputs ++ [.msix port vector] } }

/-! ## Grids (R32, R36, R38) -/

/-- The first number from `start` on that names no live grid. -/
def freshFrom (grids : Tab Grid) : (fuel start : Nat) → Nat
  | 0, start => start
  | fuel + 1, start => if grids.has start then freshFrom grids fuel ((start + 1) % 2 ^ 32) else start

/-- A new grid's identifier. -/
def Mach.freshGrid (m : Mach) : Nat := freshFrom m.grids m.grids.length (Config.freeGridId m.gridCount).toNat

/-- A grid as its launch is accepted. -/
def newGrid (r : LaunchRec) (queue aspace depth : Nat) (parent : Option Parent) (prio : Nat) (after : Option Nat) (needAcq : Bool) : Grid :=
  { lrec := r, queue := queue, aspace := aspace, depth := depth, parent := parent, prio := prio, next := 0, complete := 0, saved := [],
    faulted := false, faultPosted := false, stallSince := none, stallPosted := false, dies := [], after := after, needAcq := needAcq,
    acquire := none }

/-- LAUNCH_RECORD_READ: the record becomes the head launch of its queue, HEAD moves past it, and it is rejected or makes a grid. -/
def launchRecordRead (q : Nat) (s : State) : Option State :=
  let k := s.m.queue q
  let base := bits k.rbase 51 6 * 64 + 64 * k.head
  if 64 ≤ q ∨ k.head = k.tail ∨ k.current.isSome ∨ s.sys.pstate ≠ 0 ∨ s.sys.boot ≠ 0 ∨ s.rowStalls base ∨ s.rowStalls (base + 32) then none
  else
    let s := s.readSectors base 64
    let ws := (List.range 8).map (fun i => s.ringWord (base + 8 * i))
    let r := launchRec ws
    let k := { k with head := (k.head + 1) % 2 ^ k.log2 }
    let s := { s with free := s.free + 1 }
    match s.m.rejects ws with
    | some reason => some { s with m := (s.m.setQueue q k).notify q 1 reason 0 r.user }
    | none =>
      let id := s.m.freshGrid
      let g := newGrid r q k.aspace 0 none r.prio (if r.overlap then none else k.last) (!r.overlap && k.had)
      let m := s.m.setQueue q { k with current := some id, last := some id, had := true }
      some { s with m := { m with grids := m.grids.set id g, gridCount := m.gridCount + 1 } }

def execLaunchRecordRead (q : Nat) (s : State) := happen (launchRecordRead q) s

/-! ## Placement (R43, R44, R144) -/

/-- Whether a group of a grid that was handed out earlier, to another die, is still to be placed (R56, R479). -/
def Mach.handedBefore (m : Mach) (h : Handed) : Bool :=
  (List.range 4).any (fun d => (m.handedTo d).any (fun k => k.grid = h.grid && decide (k.idx < h.idx)))

/-- GROUP_PLACEMENT: in P0 (R319), the oldest groups handed to a die are placed, once the acquire that their grid waits for is made and the grid's groups of
lower index are placed. -/
def groupPlacement (d : Nat) (s : State) : Option State :=
  match s.m.nextHanded d with
  | [] => none
  | h :: _ =>
    match s.m.grids.find? h.grid with
    | none => none
    | some g =>
      let waits : Bool := match g.acquire with | some t => s.m.bumps.any (fun b => b.token = t) | none => false
      if waits ∨ 4 ≤ d ∨ s.m.handedBefore h ∨ s.sys.pstate ≠ 0 then none
      else
        (s.m.placeNext d).map (fun m =>
          { s with m := { m with grids := m.grids.modify h.grid (fun g => { g with dies := if g.dies.contains d then g.dies else d :: g.dies }) } })

def execGroupPlacement (d : Nat) (s : State) := happen (groupPlacement d) s

/-- PARTITION_FILL_END: the group's teams may issue, once a restore's acquire is made as well (R285). -/
def partitionFillEnd (c g : Nat) (m : Mach) : Option Mach :=
  match (m.core c).groups.find? g with
  | none => none
  | some v =>
    match v.filling with
    | none => none
    | some t =>
      let waits : Bool := match v.acquire with | some k => m.bumps.any (fun b => b.token = k) | none => false
      -- the watches of a restored group are armed first (R285)
      let unarmed : Bool := List.any (m.core c).cmds (fun p => p.2.group = g && p.2.kind = kWATCH && p.2.state = .running && p.2.stage = 0 &&
        !p.2.cancelling && p.2.replay.isNone)
      if m.now < t ∨ waits ∨ unarmed then none else some (m.setGroupAt c g { v with filling := none, acquire := none })

def execPartitionFillEnd (c g : Nat) (s : State) := machEvent (partitionFillEnd c g) s

/-! ## Child launches (R53, R403) -/

/-- The launching team has its handle, and its flag count falls. -/
def Core.giveHandle (x : Core) (r : LaunchReq) (handle : Word) : Core :=
  let t := x.team r.place
  let mine (p : Pend) : Bool := p.due = never && p.num = r.dst && p.flag = some r.flag && p.cls = .scalar
  let pend := match takeLast mine t.pend with | some (_, ps) => ps | none => t.pend
  (x.setTeam r.place ({ t with pend := pend }.ws r.dst handle |>.countDown r.flag)).settle r.place

/-- LAUNCH_ACCEPT: the oldest launch of a group, 64 cycles after its issue or later. -/
def launchAccept (c g : Nat) (m : Mach) : Option Mach :=
  match takeFirst (fun (r : LaunchReq) => r.core = c && r.group = g) m.launches with
  | none => none
  | some (r, rest) =>
    if m.now < r.issued + 64 then none
    else
      let m := { m with launches := rest }
      let v := m.groupAt c g
      match m.rejects r.words with
      | some reason =>
        some (m.setCore c (((m.core c).engineD v (r.off + 64) (childStatus 3 reason 0) m.now).giveHandle r (launchHandle 0 true r.off)))
      | none =>
        let l := launchRec r.words
        let id := m.freshGrid
        let gr := newGrid l v.queue v.aspace (v.depth + 1) (some ⟨v.grid, v.idx, r.off⟩) (min l.prio v.prio) none false
        let m := { m with grids := m.grids.set id gr, gridCount := m.gridCount + 1, children := m.children ++ [id] }
        let x := (m.core c).setGroup g { v with children := v.children + 1 }
        some (m.setCore c ((x.engineD v (r.off + 64) (childStatus 1 0 id) m.now).giveHandle r (launchHandle id false r.off)))

def execLaunchAccept (c g : Nat) (s : State) := machEvent (launchAccept c g) s

/-! ## Notifications and fault records (R40, R295 to R297) -/

/-- NOTIFICATION_POST: the oldest notification of a queue is written while its ring has room. -/
def notificationPost (q : Nat) (s : State) : Option State :=
  let k := s.m.queue q
  let size := 2 ^ k.nlog2
  match k.notes with
  | [] => none
  | n :: rest =>
    if 64 ≤ q ∨ (k.ntail + 1) % size = k.nhead then none
    else
      let s := s.ringStore (bits k.nbase 51 4 * 16 + 16 * k.ntail) [n.w0, n.w1]
      let k := { s.m.queue q with notes := rest, ntail := (k.ntail + 1) % size }
      some ({ s with m := s.m.setQueue q k }.msix k.ownPort q)

def execNotificationPost (q : Nat) (s : State) := happen (notificationPost q) s

/-- FAULT_RECORD_POST: the oldest record is written to the device fault queue while it has room, on a device that has come up (R318). -/
def faultRecordPost (s : State) : Option State :=
  let size := 2 ^ s.sys.fqLog2
  match s.m.faults with
  | [] => none
  | r :: rest =>
    if s.sys.boot ≠ 0 ∨ (s.sys.fqTail + 1) % size = s.sys.fqHead then none
    else
      let s := s.ringStore (bits s.sys.fqBase 51 5 * 32 + 32 * s.sys.fqTail) r.words
      some ({ s with m := { s.m with faults := rest }, sys := { s.sys with fqTail := (s.sys.fqTail + 1) % size } }.msix s.sys.ctlPort r.vector)

def execFaultRecordPost (s : State) := happen faultRecordPost s

end Sys2Proof.Machine
end

