-- ==== Sys2Proof/Machine/Task.lean ====
section
/-! DEFINITION. The task unit: task control blocks, ready order, TSUB, TTAKE, TDONE, TRETRY and TCANCEL, major 0x1B
(R249 to R264, R432 to R435). -/

namespace Sys2Proof.Machine

/-! ## Task control blocks (R249) -/

/-- Word k of a TCB. -/
def Core.tcb (x : Core) (g : Group) (i k : Nat) : Word := x.readSp g (tcbOff i + 8 * k)

/-- STATE values: 0 EMPTY, 1 WAITING, 2 READY, 3 RUNNING, 4 DONE, 5 FAULTED, 6 CANCELLED. -/
def setTcbState (w : Word) (st : Nat) : Word := setBits w 63 61 st
def tcbPrio (w : Word) : Nat := bits w 60 58
def tcbList (w : Word) : Bool := bitOf w 57
def tcbNsucc (w : Word) : Nat := bits w 56 54
def tcbNin (w : Word) : Nat := bits w 53 51
def tcbCount (w : Word) : Nat := bits w 31 16
def tcbRunner (w : Word) : Nat := bits w 15 10
def setTcbCount (w : Word) (n : Nat) : Word := setBits w 31 16 n
def setTcbRunner (w : Word) (p : Nat) : Word := setBits w 15 10 p
def clearTcbFault (w : Word) : Word := setBits w 47 40 0

/-- Whether an index is valid for a group. -/
def Group.taskOk (g : Group) (i : Nat) : Bool := decide (64 * (i + 1) ≤ g.lrec.sharedBytes)

/-- Field k of sixteen bits in a doubleword. -/
def field16 (w : Word) (k : Nat) : Nat := bits w (16 * k + 15) (16 * k)

/-- LCOUNT and LOFF of the long form. -/
def listCount (w6 : Word) : Nat := bits w6 63 48
def listOff (w6 : Word) : Nat := bits w6 18 0

/-- Whether a successor list is well placed: 1 to 8,192 entries, 2-byte aligned. -/
def listShape (w6 : Word) : Bool := decide (1 ≤ listCount w6) && decide (listCount w6 ≤ 8192) && listOff w6 % 2 = 0

/-- Whether the whole list lies inside the shared region. -/
def Group.listInside (g : Group) (w6 : Word) : Bool := decide (listOff w6 + 2 * listCount w6 ≤ g.lrec.sharedBytes)

/-- Entry k of a successor list. -/
def Core.listEntry (x : Core) (g : Group) (w6 : Word) (k : Nat) : Nat := x.scratch.readN (g.spBase + listOff w6 + 2 * k) 2

/-- The successors that words 0 and 6 name, in order. -/
def Core.successors (x : Core) (g : Group) (i : Nat) : List Nat :=
  let w0 := x.tcb0 g i
  let w6 := x.tcb g i 6
  if tcbList w0 then (List.range (listCount w6)).map (x.listEntry g w6)
  else (List.range (min (tcbNsucc w0) 4)).map (field16 w6)

/-- Input range k of word 7, in bytes. -/
def inputRange (w7 : Word) (k : Nat) : Nat × Nat :=
  let f := field16 w7 k
  (1024 * (f / 64), 1024 * (f / 64 + f % 64 + 1))

/-- The declared input ranges of a task. -/
def Core.inputs (x : Core) (g : Group) (i : Nat) : List (Nat × Nat) :=
  (List.range (min (tcbNin (x.tcb0 g i)) 4)).map (inputRange (x.tcb g i 7))

/-- Resident (R251): no tile-store entry of the group covers a byte of an input range; an entry freed in this cycle still counts (R253). -/
def Core.isResident (x : Core) (gi i : Nat) : Bool :=
  (x.inputs (x.group gi) i).all (fun r => (lockHit x.locks true gi r.1 (r.2 - r.1) true).isNone &&
    (lockHit (x.freed.map (fun l => (0, l))) true gi r.1 (r.2 - r.1) true).isNone)

/-! ## States (R251, R252) -/

/-- A task becomes READY in a cycle, its stamp. -/
def Core.taskReady (x : Core) (gi i stamp : Nat) : Core :=
  let g := x.group gi
  let x := x.setTcb0 g i (stamp + 1) (setTcbState (x.tcb0 g i) 2)
  x.setGroup gi { g with stamps := g.stamps.set i stamp }

/-- A task leaves READY. -/
def Core.unready (x : Core) (gi i : Nat) : Core :=
  let g := x.group gi
  x.setGroup gi { g with stamps := g.stamps.erase i }

/-- A task is live no more. -/
def Core.unlive (x : Core) (gi i : Nat) : Core :=
  let g := x.group gi
  x.setGroup gi { g with live := g.live.filter (· ≠ i), stamps := g.stamps.erase i }

/-- The team that holds a task lets go of it. -/
def Core.releaseHold (x : Core) (gi i : Nat) : Core :=
  { x with teams := x.teams.map (fun _ t => if t.group = gi ∧ t.held = some i then { t with held := none } else t) }

/-- The task unit reads a TCB: errors in its words are noted and repaired (R142). -/
def Core.senseTcb (x : Core) (g : Group) (i : Nat) : Core := x.sense (wordsAt (g.spBase + tcbOff i) 64)

/-- A decrement (R252). -/
def Core.decrement (x : Core) (gi now : Nat) (j : Nat) : Core :=
  let g := x.group gi
  let x := x.senseTcb g j
  let w := x.tcb0 g j
  if tcbState w = 6 then x
  else if tcbCount w = 0 then x.setTcb0 g j (now + 1) (setBits w 50 50 1)
  else
    let x := x.setTcb0 g j (now + 1) (setTcbCount w (tcbCount w - 1))
    if tcbCount w = 1 ∧ tcbState w = 1 ∧ g.live.contains j ∧ x.isResident gi j then x.taskReady gi j now else x

/-- The order of R254: higher PRIO, then earlier stamp, then lower index. -/
def taskBefore (a b : Nat × Nat × Nat) : Bool :=
  decide (b.1 < a.1) || (a.1 = b.1 && (decide (a.2.1 < b.2.1) || (a.2.1 = b.2.1 && decide (a.2.2 < b.2.2))))

/-- The READY task that is taken next. -/
def Core.nextTask (x : Core) (gi : Nat) : Option Nat :=
  let g := x.group gi
  (List.foldl (fun (best : Option (Nat × Nat × Nat)) (p : Nat × Nat) =>
    let k := (tcbPrio (x.tcb0 g p.1), p.2, p.1)
    match best with
    | none => some k
    | some b => if taskBefore k b then some k else some b) none g.stamps).map (fun k => k.2.2)

/-- TTAKE's results, sD before sE. -/
def Team.taskResult (t : Team) (d e : Nat) (i entry : Word) : Team := (t.ws d i).ws e entry

/-- A team takes a READY task in a cycle (R259). -/
def Core.take (x : Core) (now gi p d e i : Nat) : Core :=
  let g := x.group gi
  let x := (x.senseTcb g i).setTcb0 g i (now + 1) (setTcbRunner (setTcbState (x.tcb0 g i) 3) p)
  let x := x.unready gi i
  x.setTeam p { (x.team p).taskResult d e (BitVec.ofNat 64 i) (va55 (x.tcb g i 1)) with held := some i }

/-- Results when nothing is READY. -/
def noTask : Word := 0xFFFFFFFFFFFFFFFF#64
def notYet : Word := 0xFFFFFFFFFFFFFFFE#64

/-- The parked TTAKE.wait of a group at the lowest team place. -/
def Core.parkedTake (x : Core) (gi : Nat) : Option (Nat × Nat × Nat) :=
  (List.findSome? (fun (p : Nat × Team) => match p.2.phase with
    | .parked (.ttake d e) => if p.2.group = gi then some (p.1, d, e) else none
    | _ => none) x.teams)

/-- Tasks go to parked teams, lowest place first; when no TCB is live the parked teams are told so (R255, R259). -/
def Core.deliver (now gi : Nat) : (fuel : Nat) → Core → Core
  | 0, x => x
  | fuel + 1, x =>
    match x.parkedTake gi with
    | none => x
    | some (p, d, e) =>
      let wake (x : Core) : Core := x.setTeam p { x.team p with phase := .running, nextIssue := now + 1 }
      match x.nextTask gi with
      | some i => Core.deliver now gi fuel (wake (x.take now gi p d e i))
      | none =>
        if (x.group gi).live.isEmpty then
          Core.deliver now gi fuel (wake (x.setTeam p ((x.team p).taskResult d e noTask 0)))
        else x

/-- Tasks whose last covering lock is gone become READY (R251, R253). -/
def Core.settleTasks (x : Core) (now gi : Nat) : Core :=
  let x := (x.group gi).live.foldl (fun x i =>
    let w := x.tcb0 (x.group gi) i
    if tcbState w = 1 ∧ tcbCount w = 0 ∧ x.isResident gi i then x.taskReady gi i now else x) x
  x.deliver now gi 48

/-! ## Checks (R257, R433, R434) -/

/-- TASK_FAULT. -/
def taskFault (state index reason : Nat) : TrapReq := ⟨cTASK_FAULT, taskInfo state index reason⟩

/-- The offsets of the words of a TCB and, when asked, of those of its list. -/
def Core.taskOffs (x : Core) (g : Group) (i : Nat) (list : Bool) : List Nat :=
  let w6 := x.tcb g i 6
  recordOffs (tcbOff i) 8 ++ (if list && tcbList (x.tcb0 g i) then
    (List.range (listCount w6)).filterMap (fun k => if listOff w6 + 2 * k + 2 ≤ g.spSize then some (listOff w6 + 2 * k) else none) else [])

/-- The bytes of a named TCB, and of its list when asked, tested as reads. -/
def Core.taskLocks (x : Core) (now gi i : Nat) (list : Bool) : Option TrapReq :=
  let g := x.group gi
  let test (lo n : Nat) : Option TrapReq :=
    (lockHit (x.seenLocks now) false gi lo n false).map (fun e => ⟨cRANGE_LOCK, lockInfo e lo false⟩)
  match test (tcbOff i) 64 with
  | some r => some r
  | none =>
    let w6 := x.tcb g i 6
    if list && tcbList (x.tcb0 g i) && decide (0 < listCount w6) then test (listOff w6) (2 * listCount w6) else none

/-- Checks 3 and 4 of R434 on an index operand: the index, and the core with the TCB read (R142). -/
def Core.taskIndex (x : Core) (now gi : Nat) (v : Word) (list : Bool) : Except TrapReq (Nat × Core) :=
  if !(x.group gi).taskOk v.toNat then .error (taskFault 7 v.toNat 1)
  else
    match x.taskLocks now gi v.toNat list with
    | some r => .error r
    | none => (x.readWords (x.group gi) (x.taskOffs (x.group gi) v.toNat list)).map (fun y => (v.toNat, y))

/-! ## The five instructions -/

/-- A task operation: the core after it, and the cycles it occupies the task unit beyond the first (R435). -/
abbrev TaskOp := Nat → Nat → Nat → Core → Except TrapReq (Core × Nat)

/-- What an operation has written is seen by thread loads once it is over (R253): the words written since `old` of them were. -/
def Core.veilUntil (x : Core) (old from_ : Nat) : Core :=
  { x with veil := x.veil.take old ++ (x.veil.drop old).map (fun v => { v with from_ := from_ }) }

/-- Run a task operation for the current team: it waits until the operation ends, and tasks made READY are delivered. -/
def runTask (op : TaskOp) (m : Mach) : Mach :=
  let p := m.cur.place
  let gi := m.team.group
  match op m.now gi p m.myCore with
  | .error r => m.trapRecord r
  | .ok (x, extra) =>
    let t := (x.team p).retire
    let x := x.setTeam p { t with nextIssue := m.now + 1 + extra }
    m.setCore m.cur.core (({ x with taskFree := m.now + 1 + extra }.deliver m.now gi 48).veilUntil m.myCore.veil.length (m.now + 1 + extra))

/-- The fields that TSUB checks (R258). -/
def Core.tcbFieldsOk (x : Core) (g : Group) (i : Nat) : Bool :=
  let w0 := x.tcb g i 0
  let w1 := x.tcb g i 1
  let w6 := x.tcb g i 6
  let w7 := x.tcb g i 7
  let unused (w : Word) (n : Nat) : Bool := (List.range 4).all (fun k => decide (k < n) || field16 w k = 0)
  bits w0 49 48 = 0 && bits w0 39 32 = 0 && bits w0 9 0 = 0 && bits w1 63 55 = 0 &&
  decide (tcbNin w0 ≤ 4) && unused w7 (tcbNin w0) &&
  (List.range (tcbNin w0)).all (fun k => decide ((inputRange w7 k).2 ≤ g.tileSize)) &&
  (if tcbList w0 then tcbNsucc w0 = 0 && bits w6 47 19 = 0 && listShape w6 && g.listInside w6
   else decide (tcbNsucc w0 ≤ 4) && unused w6 (tcbNsucc w0) &&
     (List.range (tcbNsucc w0)).all (fun k => g.taskOk (field16 w6 k)))

/-- TSUB (R258). -/
def tsub (v : Word) : TaskOp := fun now gi _ x =>
  match x.taskIndex now gi v true with
  | .error r => .error r
  | .ok (i, x) =>
    let g := x.group gi
    let w := x.tcb0 g i
    if tcbState w ≠ 0 then .error (taskFault (tcbState w) i 2)
    else if !x.tcbFieldsOk g i then .error (taskFault 0 i 6)
    else
      let w := setBits (clearTcbFault w) 50 50 0
      let x := x.setTcb0 g i (now + 1) (setTcbState w 1)
      let x := x.setGroup gi { g with live := i :: g.live.filter (· ≠ i) }
      .ok (if tcbCount w = 0 ∧ x.isResident gi i then x.taskReady gi i now else x, 0)

def execTsub (a : Reg) (s : State) : Host.Outcome State Fault Refusal := word (fun m => runTask (tsub (m.team.rs a.toNat)) m) s

/-- TTAKE (R259). -/
def ttake (d e : Nat) (try_ : Bool) : TaskOp := fun now gi p x =>
  let t := x.team p
  if t.held.isSome then .error (taskFault 7 0 5)
  else
    match x.nextTask gi with
    | some i => .ok (x.take now gi p d e i, 0)
    | none =>
      if (x.group gi).live.isEmpty then .ok (x.setTeam p (t.taskResult d e noTask 0), 0)
      else if try_ then .ok (x.setTeam p (t.taskResult d e notYet 0), 0)
      else .ok (x.setTeam p { t with phase := .parked (.ttake d e) }, 0)

def execTtake (d a : Reg) (md : Bool) (s : State) : Host.Outcome State Fault Refusal :=
  word (fun m => runTask (ttake d.toNat a.toNat md) m) s

/-- The first invalid successor at TDONE, or the task itself for a list that is not well placed (R260). -/
def Core.badSuccessor (x : Core) (g : Group) (i : Nat) : Option Nat :=
  let w6 := x.tcb g i 6
  if tcbList (x.tcb0 g i) && !(listShape w6 && g.listInside w6) then some i
  else (x.successors g i).find? (fun j => !g.taskOk j)

/-- Further cycles of an operation that reads a task's list (R435). -/
def Core.listCycles (x : Core) (g : Group) (i : Nat) : Nat :=
  if tcbList (x.tcb0 g i) then (listCount (x.tcb g i 6) + 7) / 8 else 0

/-- TDONE (R260). -/
def tdone (v : Word) : TaskOp := fun now gi p x =>
  match x.taskIndex now gi v true with
  | .error r => .error r
  | .ok (i, x) =>
    let g := x.group gi
    let w := x.tcb0 g i
    if tcbState w ≠ 3 then .error (taskFault (tcbState w) i 3)
    else if (x.team p).held ≠ some i then .error (taskFault 3 i 4)
    else
      match x.badSuccessor g i with
      | some j => .error (taskFault 3 j 6)
      | none =>
        let js := x.successors g i
        let extra := (js.filter (fun j => tcbState (x.tcb0 g j) ≠ 6)).length + x.listCycles g i
        let x := x.setTcb0 g i (now + 1) (setTcbRunner (setTcbState w 4) 0)
        let x := (x.releaseHold gi i).unlive gi i
        .ok (js.foldl (fun x j => x.decrement gi now j) x, extra)

def execTdone (a : Reg) (s : State) : Host.Outcome State Fault Refusal := word (fun m => runTask (tdone (m.team.rs a.toNat)) m) s

/-- TRETRY and TRETRY.run (R261). -/
def tretry (v : Word) (run : Bool) : TaskOp := fun now gi p x =>
  match x.taskIndex now gi v false with
  | .error r => .error r
  | .ok (i, x) =>
    let g := x.group gi
    let w := x.tcb0 g i
    if tcbState w ≠ 5 then .error (taskFault (tcbState w) i 3)
    else if run then
      if tcbRunner w ≠ p then .error (taskFault 5 i 4)
      else .ok (x.setTcb0 g i (now + 1) (setTcbState (clearTcbFault w) 3), 0)
    else
      let x := x.setTcb0 g i (now + 1) (setTcbRunner (setTcbState (clearTcbFault w) 1) 0)
      let x := x.releaseHold gi i
      .ok (if x.isResident gi i then x.taskReady gi i now else x, 0)

def execTretry (a : Reg) (md : Bool) (s : State) : Host.Outcome State Fault Refusal :=
  word (fun m => runTask (tretry (m.team.rs a.toNat) md) m) s

/-- Further cycles that the cancel walk spends on a task's list: for the entries it reads (R435). -/
def Core.walkCycles (x : Core) (g : Group) (i : Nat) : Nat :=
  let w6 := x.tcb g i 6
  if tcbList (x.tcb0 g i) && listShape w6 then
    (((List.range (listCount w6)).filter (fun k => decide (listOff w6 + 2 * k + 2 ≤ g.lrec.sharedBytes))).length + 7) / 8
  else 0

/-- The successors that the cancel walk visits from a task: invalid indices and entries outside the shared region are passed over
(R262). -/
def Core.walkSuccessors (x : Core) (g : Group) (i : Nat) : List Nat :=
  let w6 := x.tcb g i 6
  if tcbList (x.tcb0 g i) then
    if listShape w6 then
      (((List.range (listCount w6)).filter (fun k => decide (listOff w6 + 2 * k + 2 ≤ g.lrec.sharedBytes))).map
        (x.listEntry g w6)).filter g.taskOk
    else []
  else (x.successors g i).filter g.taskOk

/-- The cancel walk (R262), with the number of tasks cancelled and of list cycles so far. -/
def cancelWalk (now gi : Nat) : (fuel : Nat) → Core × Nat → Nat → Core × Nat
  | 0, s, _ => s
  | fuel + 1, (x, n), i =>
    let g := x.group gi
    let x := (x.senseTcb g i).sense ((x.taskOffs g i true).map (fun o => (g.spBase + o) / 8))
    let w := x.tcb0 g i
    let js := x.walkSuccessors g i
    let n := n + 1 + x.walkCycles g i
    let x := if tcbState w = 5 then x.releaseHold gi i else x
    let x := (x.setTcb0 g i (now + 1) (setTcbRunner (setTcbState w 6) 0)).unlive gi i
    js.foldl (fun (s : Core × Nat) j =>
      let st := tcbState (s.1.tcb0 g j)
      if st ≤ 2 then cancelWalk now gi fuel s j else s) (x, n)

/-- TCANCEL (R262). -/
def tcancel (v : Word) : TaskOp := fun now gi _ x =>
  match x.taskIndex now gi v false with
  | .error r => .error r
  | .ok (i, x) =>
    let st := tcbState (x.tcb0 (x.group gi) i)
    if st ≤ 2 ∨ st = 5 then
      let r := cancelWalk now gi 8192 (x, 0) i
      .ok (r.1, r.2 - 1)
    else .error (taskFault st i 3)

def execTcancel (a : Reg) (s : State) : Host.Outcome State Fault Refusal :=
  word (fun m => runTask (tcancel (m.team.rs a.toNat)) m) s

/-- A task instruction can issue: the task unit is free, and all but TTAKE need an empty store queue (R258, R260, R433, R435). -/
def Mach.taskReadyToIssue (m : Mach) (stores : Bool) : Bool :=
  decide (m.myCore.taskFree ≤ m.now) && (!stores || m.team.storeQ.isEmpty)

end Sys2Proof.Machine
end

