-- ==== Sys2Proof/Machine/Save.lean ====
section
/-! DEFINITION. Group records: galleys, register records, and what a save writes and a restore reads (R75, R95, R96, R223, R264,
R282 to R286, R288). -/

namespace Sys2Proof.Machine

/-! ## Register records (R61, R65, R95) -/

/-- A slot: 32 bits of value and an end lane. -/
def slotWord (v stop : Nat) : Word := packed [(47, 16, v), (15, 0, stop)]

/-- The slots of one value. -/
def valueSlots (w : Bool) (v : Word) (stop : Nat) : List Word :=
  if w then [slotWord v.toNat stop, slotWord (v.toNat / 2 ^ 32) stop] else [slotWord v.toNat stop]

/-- A vector register's slots, in the order of R65. -/
def VReg.slots (v : VReg) (lanes : Nat) : List Word :=
  match v.shape with
  | .u x => valueSlots v.w x lanes
  | .a b s => valueSlots v.w b lanes ++ valueSlots v.w s lanes
  | .g rs => rs.flatMap (fun r => valueSlots v.w r.val r.stop)

/-- A shape's code. -/
def Shape.code : Shape → Nat
  | .u _ => 0
  | .a _ _ => 1
  | .g _ => 2

/-- A register record. -/
def regRecord (tag : Nat) (w mask : Bool) (reg : Nat) (slots : List Word) : List Word :=
  packed [(31, 16, slots.length), (15, 14, tag), (13, 13, b2n w), (6, 6, b2n mask), (5, 0, reg)] :: slots

/-- The values and ends that slots hold; none when a reserved bit is set or the halves of a wide value disagree. -/
def slotValues (w : Bool) : List Word → Option (List Run)
  | [] => some []
  | a :: rest =>
    if bits a 63 48 ≠ 0 then none
    else if !w then (slotValues w rest).map (fun rs => ⟨BitVec.ofNat 64 (bits a 47 16), bits a 15 0⟩ :: rs)
    else match rest with
      | b :: rest =>
        if bits b 63 48 ≠ 0 ∨ bits a 15 0 ≠ bits b 15 0 then none
        else (slotValues w rest).map (fun rs => ⟨BitVec.ofNat 64 (bits a 47 16 + bits b 47 16 * 2 ^ 32), bits a 15 0⟩ :: rs)
      | [] => none

/-- The vector register that a record's tag, width bit and slots stand for, if they are canonical (R96). -/
def parseShape (lanes tag : Nat) (w : Bool) (slots : List Word) : Option VReg :=
  let shape := match slotValues w slots, tag with
    | some [r], 0 => if r.stop = lanes then some (Shape.u r.val) else none
    | some [b, s], 1 => if b.stop = lanes ∧ s.stop = lanes then some (Shape.a b.val s.val) else none
    | some rs, 2 => some (Shape.g rs)
    | _, _ => none
  shape.bind (fun x => if (VReg.mk w x).isCanonical lanes then some ⟨w, x⟩ else none)

/-- A record's header fits a register: its reserved fields are zero and it names it. -/
def headerFits (h : Word) (mask : Bool) (reg : Nat) : Bool :=
  bits h 63 32 = 0 && bits h 12 7 = 0 && bitOf h 6 = mask && bits h 5 0 = reg

/-- The slots after a header at index k. -/
def slotsAt (rd : Nat → Word) (k : Nat) : List Word := (List.range (bits (rd k) 31 16)).map (fun j => rd (k + 1 + j))

/-- `n` mask records from index k on, the first for register `reg`: the registers and the index after them. -/
def parseMasks (rd : Nat → Word) (lanes : Nat) : (n reg k : Nat) → Option (Tab (List MRun) × Nat)
  | 0, _, k => some ([], k)
  | n + 1, reg, k =>
    let h := rd k
    if !headerFits h true reg ∨ bits h 15 13 ≠ 0 then none
    else match allSome slotMask (slotsAt rd k) with
      | none => none
      | some rs =>
        if !maskCanonical lanes rs then none
        else (parseMasks rd lanes n (reg + 1) (k + 1 + rs.length)).map (fun p => ((reg, rs) :: p.1, p.2))

/-- `n` vector records from index k on. -/
def parseVecs (rd : Nat → Word) (lanes : Nat) : (n reg k : Nat) → Option (Tab VReg × Nat)
  | 0, _, k => some ([], k)
  | n + 1, reg, k =>
    let h := rd k
    if !headerFits h false reg then none
    else match parseShape lanes (bits h 15 14) (bitOf h 13) (slotsAt rd k) with
      | none => none
      | some v => (parseVecs rd lanes n (reg + 1) (k + 1 + bits h 31 16)).map (fun p => ((reg, v) :: p.1, p.2))

/-- `n` stack entries from index k on, oldest first. -/
def parseStack (rd : Nat → Word) (lanes : Nat) : (n k : Nat) → Option (List StackEntry × Nat)
  | 0, k => some ([], k)
  | n + 1, k =>
    match parseEntry (fun j => rd (k + j)) lanes (2 ^ 22) with
    | none => none
    | some e => (parseStack rd lanes n (k + 2 + e.cost)).map (fun p => (e :: p.1, p.2))

/-! ## Galleys (R284) -/

/-- STATE of a team. At a save a team that runs waits for nothing but the end of a YIELD, and is then WAITING (R458); any other is READY. -/
def Team.stateCode (t : Team) : Nat :=
  match t.phase with
  | .running => if t.yielding.isSome then 1 else 0
  | .parked _ => 2
  | .halted _ => 3
  | _ => 4

/-- What a team is parked in, if it is, or was before it was halted. -/
def Phase.park : Phase → Option Park
  | .parked p => some p
  | .halted p => p
  | _ => none

/-- PARK. -/
def Park.code : Park → Nat
  | .bwait _ _ => 1
  | .ttake _ _ => 2
  | _ => 3

/-- PARKOP: the barrier's offset in the low half and the awaited phase in the high half; LWAIT's handle. -/
def Park.op : Park → Word
  | .bwait off p => wordOf [(32, p), (0, off)]
  | .lwait h _ => h
  | _ => 0

/-- The galley of a team that has not exited: its fixed part, its register records and its held stack entries, oldest first. `headerLo` reads the
header at a clause start, whose low bits HDRLO holds when the PC is one. -/
def Team.galley (headerLo : Word → BitVec 14) (t : Team) : List Word :=
  let pk := t.phase.park
  [packed [(63, 60, t.tid), (59, 57, t.stateCode), (49, 48, (pk.map Park.code).getD 0), (40, 34, t.stack.length), (33, 17, t.allot), (16, 0, t.inUse)],
   BitVec.ofNat 64 (bits t.wordAddr 54 0),
   packed [(51, 48, t.wordPos), (45, 32, (if t.wordPos = 0 then headerLo t.wordAddr else t.hdr).toNat),
     (31, 20, sumTo (fun f => if t.flagCount f = 0 then 0 else 2 ^ f) 12), (13, 8, t.repCnt)],
   t.mode, t.status, t.trapPc, t.trapCause, t.trapInfo, t.trapVec, (pk.map Park.op).getD 0] ++
  (List.range 64).map t.rs ++
  (List.range 16).flatMap (fun k => regRecord 0 false true k ((t.rm k).map maskSlot)) ++
  (List.range t.nv).flatMap (fun r => let v := t.rv r; regRecord v.shape.code v.w false r (v.slots t.lanes)) ++
  t.stack.reverse.flatMap spillRecord

/-- The galley of an exited team. -/
def exitedGalley (tid : Nat) : List Word := packed [(63, 60, tid), (59, 57, 4)] :: List.replicate 73 0

/-- A team's galley. -/
def Team.saved (headerLo : Word → BitVec 14) (t : Team) : List Word := if t.phase = .exited then exitedGalley t.tid else t.galley headerLo

/-- What a saved team keeps beside its galley. -/
def Team.extra (t : Team) : TeamExtra := { park := t.phase.park, spilled := t.spilled, spillEnd := t.spillEnd, trapClause := t.trapClause }

/-- The parked state that PARK and PARKOP stand for; the registers that a TTAKE or LWAIT writes come from what the team kept. -/
def parkOf (code : Nat) (op : Word) (x : TeamExtra) : Option Park :=
  match code, x.park with
  | 0, _ => none
  | 1, _ => some (.bwait (bits op 31 0) (bits op 47 32))
  | 2, some (.ttake d e) => some (.ttake d e)
  | 2, _ => some (.ttake 0 0)
  | _, some (.lwait _ d) => some (.lwait op d)
  | _, _ => some (.lwait op 0)

/-- The team that a galley stands for, and its length in doublewords, when it passes R96 and R286; `base` gives what the group's launch
fixes. Reserved bits of the registers are ignored (R7). A PARK or a STATE that does not go with the other is no failure: a team that is PARKED in
nothing is READY, and one that is not PARKED or HALTED waits for nothing (log entry 116). -/
def parseGalley (rd : Nat → Word) (base : Team) (x : TeamExtra) : Option (Team × Nat) :=
  let w0 := rd 0
  let st := bits w0 59 57
  let pk := bits w0 49 48
  let ns := bits w0 40 34
  let allot := bits w0 33 17
  if 4 < st ∨ 32 < ns ∨ allot < bits w0 16 0 then none
  else if st = 4 then some ({ base with phase := .exited, allot := 0 }, 74)
  else
    match parseMasks rd base.lanes 16 0 74 with
    | none => none
    | some (ms, k) =>
      match parseVecs rd base.lanes base.nv 0 k with
      | none => none
      | some (vs, k) =>
        match parseStack rd base.lanes ns k with
        | none => none
        | some (es, k) =>
          let park := parkOf pk (rd 9) x
          let t : Team := { base with
            s := (List.range 64).foldl (fun s r => if r = 0 then s else s.set r (rd (10 + r))) [],
            v := vs, m := ms, mode := keepBits (rd 3) [(18, 0)], status := keepBits (rd 4) [(4, 0)], trapPc := keepBits (rd 5) [(54, 2)],
            trapCause := keepBits (rd 6) [(63, 63), (51, 48), (45, 32), (7, 0)], trapInfo := rd 7, trapVec := keepBits (rd 8) [(54, 2)],
            flags := (List.range 12).foldl (fun fs f => if bitOf (rd 2) (20 + f) then fs.set f 1 else fs) [],
            trapClause := x.trapClause, pc := BitVec.ofNat 64 (bits (rd 1) 54 0), pos := bits (rd 2) 51 48,
            hdr := BitVec.ofNat 14 (bits (rd 2) 45 32), repCnt := bits (rd 2) 13 8, stack := es.reverse, spilled := x.spilled,
            spillEnd := x.spillEnd, allot := allot,
            phase := match st, park with
              | 2, some p => .parked p
              | 3, p => .halted p
              | _, _ => .running }
          if allot < t.inUse then none else some (t, k)

/-! ## The group record (R283) -/

/-- Offsets within a slot. -/
def oLOCKS : Nat := 0x100
def oHELD : Nat := 0x300
def oGALLEY : Nat := 0x380
def oREADY : Nat := 0x1000
def oACC : Nat := 0x5000
def oTILE : Nat := 0xB5000
def oTEAMS : Nat := 0x1B5000
def slotBytes : Nat := 2 ^ 22

/-- A range-lock entry as it is saved (R145). -/
def Lock.word (l : Lock) : Word :=
  packed [(63, 63, 1), (62, 62, b2n l.tile), (61, 61, b2n l.rw), (60, 59, l.queue), (58, 53, l.slot), (52, 49, l.group), (40, 20, l.stop), (19, 0, l.start)]

/-- Accumulator tag codes. -/
def AccTag.code : AccTag → Nat
  | .fp32 => 0
  | .fp64 => 1
  | .int32 => 2

def accTagOf (k : Nat) : AccTag := if k = 0 then .fp32 else if k = 1 then .fp64 else .int32

/-- A group's own entries of its core's range-lock table, in entry order. -/
def Core.ownLocks (x : Core) (core g : Nat) : List Lock :=
  (List.map Prod.snd (x.locks.filter (fun _ l => l.group = g && l.ocore = core)))

/-- A group's commands that have not ended: queue by queue, in acceptance order. -/
def Core.ownCmds (x : Core) (g : Nat) : List (Nat × Cmd) :=
  let mine := List.filter (fun p : Nat × Cmd => p.2.group = g && p.2.open_) x.cmds
  (List.range 4).flatMap (fun q => sortBy (mine.filter (fun p => p.1 / 64 = q)) (fun a b => decide (a.2.order ≤ b.2.order)))

/-- A group's teams, by TEAMID. -/
def Core.ownTeams (x : Core) (g : Nat) : List (Nat × Team) :=
  sortBy (List.filter (fun p : Nat × Team => p.2.group = g) x.teams) (fun a b => decide (a.2.tid ≤ b.2.tid))

/-- The header. -/
def headerWords (x : Core) (core g : Nat) : List Word :=
  let v := x.group g
  let r := v.lrec
  [packed [(63, 32, v.grid), (31, 0, v.idx)],
   packed [(63, 61, v.prio), (60, 55, v.queue), (54, 51, v.aspace), (50, 49, r.coloc), (48, 45, r.nacc), (44, 41, r.teams - 1), (40, 38, r.width),
     (31, 0, v.children)],
   packed [(63, 55, (x.ownCmds g).length), (54, 47, v.spUnits), (46, 40, v.tileUnits), (39, 33, (x.ownLocks core g).length),
     (15, 0, sumTo (fun k => (x.acc (v.accs.getD k 0)).tag.code * 4 ^ k) r.nacc)]] ++ List.replicate 29 0

/-- A saved queue entry: words 0 to 6, progress, the CRC with the identity and the pending service, and the captured layouts. -/
def Cmd.entryWords (c : Cmd) : List Word :=
  let layout (l : Option (List Word)) : List Word := (List.range 8).map (fun k => (l.getD []).getD k 0)
  (List.range 7).map c.w ++ [c.progress, packed [(63, 62, c.svc), (41, 40, c.idQueue), (39, 34, c.idSlot), (31, 0, c.crc.toNat)]] ++
  List.replicate 7 0 ++ layout c.src ++ layout c.dst

/-- READY tasks in ready order (R254). -/
def readyOrder (x : Core) (g : Nat) : List Nat :=
  let v := x.group g
  let key (p : Nat × Nat) : Nat × Nat × Nat := (tcbPrio (x.tcb0 v p.1), p.2, p.1)
  (sortBy v.stamps (fun a b => !taskBefore (key b) (key a))).map Prod.fst

/-- Doublewords written at a home, one after another. -/
def State.storeDs (s : State) (pa : Nat) : List Word → State
  | [] => s
  | w :: ws => (s.storeD pa w).storeDs (pa + 8) ws

/-- `lines` times 128 bytes of a local memory written from an address up. -/
def State.storeImage (s : State) (pa : Nat) (mem : Mem) (lo : Nat) : (lines : Nat) → State
  | 0 => s
  | n + 1 => (s.storeBytes pa (mem.readBytes lo 128)).storeImage (pa + 128) mem (lo + 128) n

/-- The galleys written one after another, each with its offset in the table. -/
def State.storeGalleys (s : State) (headerLo : Word → BitVec 14) (base : Nat) : (tid off : Nat) → List Team → State
  | _, _, [] => s
  | tid, off, t :: ts =>
    let ws := t.saved headerLo
    ((s.storeD (base + oGALLEY + 8 * tid) (BitVec.ofNat 64 off)).storeDs (base + off) ws).storeGalleys headerLo base (tid + 1) (off + 8 * ws.length) ts

/-- A queue entry's place in the record. -/
def entryBase (base k : Nat) : Nat := entryAt base k

/-- Queue entries written from the k-th on. -/
def State.storeEntries (s : State) (base : Nat) : (k : Nat) → List (Nat × Cmd) → State
  | _, [] => s
  | k, p :: ps => (s.storeDs (entryBase base k) p.2.entryWords).storeEntries base (k + 1) ps

/-- Accumulators written from the k-th on, 16 KiB each. -/
def State.storeAccs (s : State) (base : Nat) (x : Core) : (k : Nat) → List Nat → State
  | _, [] => s
  | k, a :: as => (s.storeImage (base + oACC + 16384 * k) (x.acc a).mem 0 128).storeAccs base x (k + 1) as

/-- Numbers of 16 bits, four to a doubleword. -/
def halfWords : List Nat → List Word
  | a :: b :: c :: d :: rest => packed [(15, 0, a), (31, 16, b), (47, 32, c), (63, 48, d)] :: halfWords rest
  | [] => []
  | rest => [packed ((rest.zip [0, 16, 32]).map (fun p => (p.2 + 15, p.2, p.1)))]

/-- The whole record of a group written into a slot: every part keeps to its place. A list of 8,192 READY tasks fills its place, and no end mark
follows it (log entry 117). -/
def State.writeRecord (s : State) (base core g : Nat) : State :=
  let x := s.m.core core
  let v := x.group g
  let locks := x.ownLocks core g
  let teams := (x.ownTeams g).map Prod.snd
  let held (t : Team) : Word := match t.held with | some i => packed [(63, 63, 1), (12, 0, i)] | none => 0
  let headerLo := s.headerAt v.aspace
  let s := (s.storeAccs base x 0 (v.accs.take 8)).storeImage (base + oTILE) x.tile v.tileBase (min v.tileUnits 64 * 128)
  let s := s.storeGalleys headerLo base 0 oTEAMS (teams.take 16)
  let s := s.storeDs base (headerWords x core g)
  let s := s.storeDs (base + oLOCKS) ((locks.map Lock.word ++ List.replicate 64 0).take 64)
  let s := s.storeDs (base + oHELD) ((teams.map held ++ List.replicate 16 0).take 16)
  let s := s.storeDs (base + oREADY) (halfWords ((readyOrder x g ++ [0xFFFF]).take 8192))
  (s.storeEntries base 0 ((x.ownCmds g).take 256)).storeImage (imageAt base) x.scratch v.spBase (min v.spUnits 128 * 32)

/-! ## Saving (R282) -/

/-- A team stands where a save may take it: exited, halted or parked, or before a clause or between REP steps, with nothing
outstanding, what named no flag included (R333). -/
def Team.still (t : Team) : Bool :=
  match t.phase with
  | .exited => t.quiet && t.storeQ.isEmpty && t.flight.isEmpty
  | .ending => false
  | p => t.quiet && t.pend.isEmpty && t.passes.isEmpty && t.storeQ.isEmpty && t.flight.isEmpty &&
      (p ≠ .running || t.atBoundary)

/-- A command can be suspended where it stands: what it has retired is performed, and it is between two of its steps. -/
def State.cmdStill (s : State) (core key : Nat) (c : Cmd) : Bool :=
  c.open_ && c.accepted && !c.cancelling && s.acked core c &&
  (if c.kind ≤ kFILL then c.stage ≠ 2 || !s.openRequests core key
   else c.stage ≠ 4 && c.watchVal.isNone && !(c.kind = kSIGNAL && decide (2 ≤ c.stage)))

/-- Whether everything of a group has come to rest for a save. -/
def State.groupStill (s : State) (core g : Nat) : Bool :=
  let x := s.m.core core
  (x.group g).filling.isNone && (x.ownTeams g).all (fun p => p.2.still) && !x.matBusy g && !x.arriving g &&
  List.all (x.cmds.filter (fun _ c => c.group = g)) (fun p => s.cmdStill core p.1 p.2) && (s.die (dieOf core)).performedAll &&
  !(s.m.cores.any (fun p => p.2.teams.any (fun t => (t.2.flight ++ t.2.storeQ).any (fun q => q.into core (x.group g)))))

/-- A command suspended with FAULT PREEMPT, unless it is suspended already; its watch is disarmed, at a
peer's home too, which discards what it holds staged, and its word 7 says so (R282, R302). -/
def State.preemptCmd (s : State) (core key : Nat) (c : Cmd) : State :=
  let s := (s.disarm (.command core key)).notice core key c.peers .cancel
  let s := s.setDie (dieOf core) { s.die (dieOf core) with replayQ := (s.die (dieOf core)).replayQ.filter (fun p => p ≠ (core, key)) }
  let c := { c with fills := [], asked := [], answers := [], replay := none, peers := [], waits := [], token := none, stage := 0 }
  { s with m := s.m.report core key (if c.state = .suspended then c else { c with state := .suspended, fault := 9 }) }

/-- Save slots in use or about to be. -/
def Sys.freeSlots (y : Sys) : List Nat := (List.range y.nslot).filter (fun k => !y.usedSlots.contains k)

/-- Lowest free slot. -/
def Sys.freeSlot? (y : Sys) : Option Nat := (List.range y.nslot).find? (fun k => !y.usedSlots.contains k)

/-- A resting group saved into the lowest free slot; all that it held is free. -/
def State.saveGroup (s : State) (core g : Nat) : Option State :=
  match s.sys.freeSlot? with
  | none => none
  | some slot =>
    let d := dieOf core
    let x := s.m.core core
    let v := x.group g
    let cmds := x.ownCmds g
    let s := cmds.foldl (fun (s : State) p => s.preemptCmd core p.1 p.2) s
    let s := s.writeRecord (s.sys.slotBase slot) core g
    let s := s.releaseNow d
    let x := s.m.core core
    let ref : SavedRef := { extras := (x.ownTeams g).map (fun p => (p.2.tid, p.2.extra)), live := v.live, cmds := cmds, idx := v.idx, slot := slot,
                            die := d, prio := v.prio, at_ := s.m.time }
    let m := s.m.freeLocks (fun l => (l.ocore = core && cmds.any (fun p => p.1 = cmdKey l.queue l.slot)))
    let x := m.core core
    let m := (m.setCore core { x with cmds := x.cmds.filter (fun _ c => c.group ≠ g) }).leave core g
    some ({ s with m := m, sys := { s.sys with usedSlots := slot :: s.sys.usedSlots } }.onGrid v.grid
      (fun gr => { gr with saved := gr.saved ++ [ref] }))

/-- The groups of a unit saved one after another. -/
def State.saveUnit (s : State) : List (Nat × Nat) → Option State
  | [] => some s
  | (c, g) :: us => (s.saveGroup c g).bind (fun s => s.saveUnit us)

/-! ## Reading a record back (R285, R286) -/

/-- Doubleword k of a record's part. -/
def State.recWord (s : State) (base off k : Nat) : Word := s.mem.readD (base + off + 8 * k)

/-- A galley as a function of its doublewords. -/
def State.galleyAt (s : State) (base tid : Nat) : Nat → Word :=
  let off := (s.recWord base oGALLEY tid).toNat
  fun k => s.mem.readD (base + off + 8 * k)

/-- The queue of a saved entry, as its identity gives it. -/
def State.entryQueue (s : State) (base k : Nat) : Nat := bits (s.recWord (entryBase base k) 0 8) 41 40

/-- What a restore needs of a core: the saved allotments, lock entries and queue entries (R75, R285). -/
def State.savedNeeds (s : State) (r : LaunchRec) (ref : SavedRef) : Needs :=
  let base := s.sys.slotBase ref.slot
  { allots := (List.range r.teams).map (fun t => bits (s.galleyAt base t 0) 33 17),
    locks := bits (s.recWord base 0 2) 39 33,
    queues := (List.range 4).map (fun q => ((List.range (min 256 (bits (s.recWord base 0 2) 63 55))).filter (fun k => s.entryQueue base k = q)).length) }

/-- The launch-given fields of a header, and its reserved ones (R286). -/
def headerOk (w : Nat → Word) (gr : Grid) (grid : Nat) (ref : SavedRef) : Bool :=
  let r := gr.lrec
  bits (w 0) 63 32 = grid && bits (w 0) 31 0 = ref.idx && bits (w 1) 63 61 = ref.prio && bits (w 1) 60 55 = gr.queue &&
  bits (w 1) 54 51 = gr.aspace && bits (w 1) 50 49 = r.coloc && bits (w 1) 48 45 = r.nacc && bits (w 1) 44 41 = r.teams - 1 &&
  bits (w 1) 40 38 = r.width && bits (w 1) 37 32 = 0 && bits (w 2) 54 47 = r.spUnits && bits (w 2) 46 40 = r.tileUnits &&
  bits (w 2) 32 16 = 0 && decide (bits (w 2) 63 55 ≤ 256) && decide (bits (w 2) 39 33 ≤ 64) &&
  (List.range 8).all (fun k => if k < r.nacc then decide (bits (w 2) (2 * k + 1) (2 * k) < 3) else bits (w 2) (2 * k + 1) (2 * k) = 0) &&
  (List.range 29).all (fun k => w (3 + k) = 0)

/-- A lock entry of a record, read back. -/
def lockOf (w : Word) (core g : Nat) : Lock :=
  { tile := bitOf w 62, rw := bitOf w 61, queue := bits w 60 59, slot := bits w 58 53, group := g, start := bits w 19 0, stop := bits w 40 20,
    ocore := core, coll := none, from_ := 0 }

/-- A saved lock entry is valid for a group; `keys` names the saved entries. -/
def lockOk (w : Word) (r : LaunchRec) (keys : List Nat) : Bool :=
  let l := lockOf w 0 0
  bitOf w 63 && decide (l.start < l.stop) && decide (l.stop ≤ (if l.tile then r.tileUnits * 16384 else r.spUnits * 4096)) &&
  keys.contains (cmdKey l.queue l.slot)

/-- The ready list, up to its end mark, or the whole of it when it is full. -/
def readyList (rd : Nat → Nat) : (n k : Nat) → List Nat
  | 0, _ => []
  | n + 1, k => if rd k = 0xFFFF then [] else rd k :: readyList rd n (k + 1)

/-- A record's 16-bit number. -/
def State.recHalf (s : State) (base off k : Nat) : Nat := s.mem.readN (base + off + 2 * k) 2

/-- What the group kept of a saved entry. For an entry that the record names beyond those that were saved nothing was kept: its record's offset is
a free value (log entry 116). -/
def State.keptOf (s : State) (base : Nat) (r : LaunchRec) (ref : SavedRef) (k : Nat) : Nat × Cmd :=
  match List.head? (ref.cmds.drop k) with
  | some p => p
  | none =>
    let w := s.recWord (entryBase base k) 0
    (cmdKey (s.entryQueue base k) (bits (w 8) 39 34),
      newCmd 0 0 0 12 ((Config.noData s.free (entryBase base k)).toNat % max 1 (r.sharedBytes / 64) * 64) s.m.now [] none none)

/-- The command that a saved entry stands for; the poster and the record's offset come from what the group kept. -/
def cmdOf (w : Nat → Word) (kept : Cmd) : Cmd :=
  let p := w 7
  let st := bits p 63 60
  let fault := bits p 59 52
  let lay (k : Nat) : List Word := (List.range 8).map (fun j => w (k + j))
  let preempted := st = 2 && fault = 9
  { kept with
    words := (List.range 7).map w, src := if isHandle (w 1) then some (lay 16) else none, dst := if isHandle (w 2) then some (lay 24) else none,
    started := if st = 0 then false else if preempted then kept.started else true,
    state := if st = 0 then .posted else if st = 1 then .running
      else if preempted then (if kept.started then .running else .posted) else .suspended,
    fault := if preempted then 0 else fault, done := bits p 39 0, crc := BitVec.ofNat 32 (bits (w 8) 31 0), cvtInv := bitOf p 49, cvtOvf := bitOf p 48,
    hintDrop := bitOf p 51, crcBad := bitOf p 50, idQueue := bits (w 8) 41 40, idSlot := bits (w 8) 39 34, svc := bits (w 8) 63 62,
    fills := [], asked := [], answers := [], replay := none, peers := [], waits := [], token := none, stage := 0 }

/-- Whether a saved entry has a valid word 7, DONE and service action. -/
def entryOk (w : Nat → Word) (c : Cmd) : Bool :=
  decide (bits (w 7) 63 60 ≤ 2) && bits (w 7) 47 40 = 0 && decide (c.done ≤ c.total) && decide (bits (w 8) 63 62 ≤ 2)

/-- Whether some sector of a slot is marked poisoned. -/
def State.slotPoisoned (s : State) (base : Nat) : Bool :=
  (List.range 8).any (fun h => (s.home h).poison.any (fun sec =>
    decide (base ≤ unstack h (32 * sec)) && decide (unstack h (32 * sec) < base + slotBytes)))

/-- Whether spans of a slot do not overlap. -/
def spansApart : List (Nat × Nat) → Bool
  | [] => true
  | (a, n) :: rest => rest.all (fun p => decide (a + n ≤ p.1) || decide (p.1 + p.2 ≤ a)) && spansApart rest

/-- A team of a group before its galley is read. -/
def blankTeam (r : LaunchRec) (place tid : Nat) : Team :=
  { Team.blank with group := place, tid := tid, lanes := widthLanes r.width, nv := 8 * r.vregs }

/-- The teams of a record, if every galley passes. -/
def State.savedTeams (s : State) (base : Nat) (r : LaunchRec) (ref : SavedRef) (place : Nat) : Option (List Team) :=
  let offs := (List.range r.teams).map (fun t => (s.recWord base oGALLEY t).toNat)
  match allSome (fun tid => parseGalley (s.galleyAt base tid) (blankTeam r place tid)
      (ref.extras.get { park := none, spilled := [], spillEnd := 0, trapClause := none } tid)) (List.range r.teams) with
  | none => none
  | some ps =>
    let spans := offs.zip (ps.map (fun p => 8 * p.2))
    if spans.all (fun p => decide (oTEAMS ≤ p.1) && decide (p.1 + p.2 ≤ slotBytes)) && spansApart spans then some (ps.map Prod.fst) else none

/-- Everything of a record that does not depend on where the group is restored, if it passes R286: teams, locks, commands by old key, held
tasks by TEAMID, and ready tasks. -/
structure Saved where
  teams : List Team
  locks : List Lock
  cmds : List (Nat × Cmd)
  held : List (Option Nat)
  ready : List Nat
  deriving DecidableEq, Repr

/-- A record checked and read. -/
def State.readRecord (s : State) (grid : Nat) (gr : Grid) (ref : SavedRef) (place : Nat) : Option Saved :=
  let base := s.sys.slotBase ref.slot
  let r := gr.lrec
  let hw := s.recWord base 0
  let nlock := bits (hw 2) 39 33
  let lockWs := (List.range nlock).map (s.recWord base oLOCKS)
  let ncmd := bits (hw 2) 63 55
  let cmds := (List.range ncmd).map (fun k =>
    let w := s.recWord (entryBase base k) 0
    let kept := s.keptOf base r ref k
    (kept.1, w, cmdOf w kept.2))
  let full (q : Nat) : Bool := decide (64 < (cmds.filter (fun p => p.2.2.idQueue = q)).length)
  let heldWs := (List.range r.teams).map (s.recWord base oHELD)
  let tcbW (i : Nat) : Word := s.mem.readD (imageAt base + tcbOff i)
  let valid (i : Nat) : Bool := decide (64 * (i + 1) ≤ r.sharedBytes)
  let heldOk (w : Word) : Bool := !bitOf w 63 || (valid (bits w 12 0) && (tcbState (tcbW (bits w 12 0)) = 3 || tcbState (tcbW (bits w 12 0)) = 5))
  let readyOk (is : List Nat) : Bool := is.all (fun i => valid i && tcbState (tcbW i) = 2) && (distinct is).length = is.length
  if s.slotPoisoned base ∨ !headerOk hw gr grid ref ∨ 256 < ncmd ∨ (List.range 4).any full ∨
      !lockWs.all (fun w => lockOk w r (cmds.map Prod.fst)) ∨ !heldWs.all heldOk ∨ !cmds.all (fun p => entryOk p.2.1 p.2.2) then none
  else
    let is := readyList (s.recHalf base oREADY) 8192 0
    match s.savedTeams base r ref place with
    | some ts =>
      if readyOk is then
        some { teams := ts, locks := lockWs.map (fun w => lockOf w 0 place), cmds := cmds.map (fun p => (p.1, p.2.2)),
               held := heldWs.map (fun w => if bitOf w 63 then some (bits w 12 0) else none), ready := is }
      else none
    | none => none

/-! ## Restoring (R285) -/

/-- `n` bytes of a record put into a local memory. -/
def Mem.copyIn (local_ mem : Mem) (from_ dst n : Nat) : Mem :=
  (List.range n).foldl (fun (a : Mem) k => a.write (dst + k) (mem.read (from_ + k))) local_

/-- The accumulators of a record. -/
def State.loadAccs (s : State) (base tags : Nat) (x : Core) (as : List Nat) : Core :=
  (as.zip (List.range as.length)).foldl (fun (x : Core) p =>
    { x with accs := x.accs.set p.1 { tag := accTagOf (tags / 4 ^ p.2 % 4), mem := Mem.copyIn [] s.mem (base + oACC + 16384 * p.2) 0 16384 } }) x

/-- New entries for saved commands, in the queues that their identities name: each takes the lowest free entry of its queue and comes after those accepted already. -/
def placeCmds (place : Nat) (teamAt : Nat → Nat) : List (Nat × Cmd) → Core → Core × List (Nat × Nat)
  | [], x => (x, [])
  | (old, c) :: cs, x =>
    match x.freeSlot c.idQueue with
    | none => placeCmds place teamAt cs x
    | some slot =>
      let key := cmdKey c.idQueue slot
      let c := { c with group := place, team := teamAt c.tid, accepted := true, order := x.nextOrder,
                        cancelling := c.svc = 2, state := if c.svc = 1 && c.state = .suspended then .running else c.state, svc := 0 }
      let r := placeCmds place teamAt cs { x with cmds := x.cmds.set key c, nextOrder := x.nextOrder + 1 }
      (r.1, (old, key) :: r.2)

/-- A restored group's own locks, under its commands' new entries. -/
def placeLocks (core : Nat) (keys : List (Nat × Nat)) : List Lock → Core → Core
  | [], x => x
  | l :: ls, x =>
    match x.locks.firstFree 64 0, Tab.find? keys (cmdKey l.queue l.slot) with
    | some e, some key => placeLocks core keys ls { x with locks := x.locks.set e { l with ocore := core, queue := key / 64, slot := key % 64 } }
    | _, _ => placeLocks core keys ls x

/-- The cluster-window ranges of restored commands registered again in their targets' tables, where they fit (R145). -/
def Mach.clusterLocks (m : Mach) (core place : Nat) : List (Nat × Nat) → Option Mach
  | [] => some m
  | (_, key) :: ks =>
    match (m.core core).cmds.find? key with
    | none => m.clusterLocks core place ks
    | some c =>
      let rs := (m.checkRecord core place c.tid false c.words c.src c.dst).ranges.filter (fun r => r.core ≠ core)
      if m.locksFit rs then (m.addLocks core (key / 64) (key % 64) none rs).clusterLocks core place ks else none

/-- Held tasks name their team's new place (R249). -/
def runnerPlaces (g : Group) : List (Nat × Option Nat) → Core → Core
  | [], x => x
  | (p, some i) :: ps, x => runnerPlaces g ps (x.setTcb0 g i 0 (setTcbRunner (x.tcb0 g i) p))
  | (_, none) :: ps, x => runnerPlaces g ps x

/-- A checked record put on a core: images, accumulators, locks, tasks, commands, teams. The commands' words 7 are written, and the
acquire's token is kept while its bumps are outstanding. MODEL'S CHOICE: the group counts as placed now, for its quantum and for the order in which
groups are preempted (R54), and its teams' ages are 0 (log entries 129 and 132). -/
def State.install (s : State) (core : Nat) (gr : Grid) (grid : Nat) (ref : SavedRef) (v : Saved) (gt : Grant) (token : Option Nat) : State :=
  let base := s.sys.slotBase ref.slot
  let hw := s.recWord base 0
  let g0 := newGroup grid ref.idx ref.prio gr.queue gr.aspace gr.depth s.m.now s.m.time gr.lrec gt
  let g := { g0 with children := bits (hw 1) 31 0, live := ref.live, acquire := token,
                     stamps := v.ready.zip (List.range v.ready.length), filling := g0.filling.orElse (fun _ => token.map (fun _ => s.m.now)) }
  let x := (s.m.core core).zeroGroup g
  let x := { x with scratch := x.scratch.copyIn s.mem (imageAt base) g.spBase g.spSize, tile := x.tile.copyIn s.mem (base + oTILE) g.tileBase g.tileSize }
  let x := s.loadAccs base (bits (hw 2) 15 0) x gt.accs
  let teams := gt.places.zip ((v.teams.zip v.held).map (fun p => { p.1 with held := p.2 }))
  let x := x.install gt.group g teams
  let x := runnerPlaces g (gt.places.zip v.held) x
  let r := placeCmds gt.group (fun tid => gt.places.getD tid 0) v.cmds x
  let x := placeLocks core r.2 v.locks r.1
  let m := s.m.setCore core x
  let m := r.2.foldl (fun (m : Mach) p => match (m.core core).cmds.find? p.2 with
    | some c => m.report core p.2 c
    | none => m) m
  { s with m := m }

/-- A saved group that is live no more as such: its slot is free. -/
def State.unsave (s : State) (grid : Nat) (ref : SavedRef) : State :=
  { s with sys := { s.sys with usedSlots := s.sys.usedSlots.filter (· ≠ ref.slot) } }.onGrid grid
    (fun g => { g with saved := g.saved.filter (fun r => r.idx ≠ ref.idx) })

/-- A group whose record fails its checks completes as a faulted group: a record of CODE 17, a GRID_FAULT, and nothing restored (R286). -/
def State.restoreFault (s : State) (grid core place : Nat) (ref : SavedRef) : State :=
  let children := bits (s.recWord (s.sys.slotBase ref.slot) 0 1) 31 0
  let m := s.m.gridFault grid
  let s := { s with m := { m with faults := m.faults ++ [teamFault 17 core place 0 0 0 grid ref.idx 0] } }
  let s := s.unsave grid ref
  if children = 0 then completeOne grid s
  else { s with m := { s.m with placeholders := s.m.placeholders ++ [⟨dieOf core, grid, ref.idx, children⟩] } }

/-- A checked group put back under a grant on a core; the acquire comes first on another die. -/
def State.putBack (s : State) (grid : Nat) (gr : Grid) (ref : SavedRef) (core : Nat) (gt : Grant) (v : Saved) : State :=
  let d := dieOf core
  let tk := if d = ref.die then (s.m, none) else
    let t := s.m.freshToken
    (t.1.requestBumps d (List.range 16) t.2, some t.2)
  let t := ({ s with m := tk.1 }).install core gr grid ref v gt tk.2
  (t.unsave grid ref).onGrid grid (fun g => { g with dies := if g.dies.contains d then g.dies else d :: g.dies })

/-- Whether every command of a restored group passes the validation of R149 against the restored images. -/
def Mach.cmdsValid (m : Mach) (core place : Nat) : Bool :=
  !(List.any ((m.core core).cmds) fun p => p.2.group = place &&
    (leastFailure (m.checkRecord core place p.2.tid false p.2.words p.2.src p.2.dst).failures).isSome)

/-- The groups of a set restored together, each under its grant, or completed as faulted. A command may name a member through the cluster
window, so each is validated with all of them in place (R131, R147). -/
def State.restoreSet (s : State) (grid : Nat) (gr : Grid) (set : List (SavedRef × Nat × Grant)) : State :=
  let read := set.map (fun x => (x, s.readRecord grid gr x.1 x.2.2.group))
  let trial := read.foldl (fun (t : State) p => match p.2 with
    | some v => t.putBack grid gr p.1.1 p.1.2.1 p.1.2.2 v
    | none => t) s
  read.foldl (fun (t : State) p =>
    let c := p.1.2.1
    let gt := p.1.2.2
    match p.2 with
    | some v => if trial.m.cmdsValid c gt.group then t.putBack grid gr p.1.1 c gt v else t.restoreFault grid c gt.group p.1.1
    | none => t.restoreFault grid c gt.group p.1.1) s

end Sys2Proof.Machine
end

