-- ==== Sys2Proof/Machine/EvDebug.lean ====
section
/-! DEFINITION. Debug: DBGCTL's commands, snapshots and their reload (R287, R288). -/

namespace Sys2Proof.Machine

/-- Debug commands are honoured: through CTLPORT's function, in OWNER-OPEN or VENDOR-OPEN. -/
def Sys.debugOpen (y : Sys) (port : Nat) : Bool := y.ctl port && decide (y.dbg ≠ 0)

/-! ## Halt, resume, step (R287) -/

/-- CMD is under way until the team has stopped; without such a team it is done at once. -/
def Core.haltTeam (x : Core) (p : Nat) : Core :=
  let x := { x with dbgPlace := p, dbgCmd := 0 }
  match x.teams.find? p with
  | none => x
  | some t => match t.phase with
    | .running | .parked _ => { x.setTeam p { t with haltReq := true } with dbgCmd := 1 }
    | .halted _ => { x with dbgCmd := 1 }
    | _ => x

/-- What a halted team was halted from. -/
def Phase.resume : Phase → Phase
  | .halted none => .running
  | .halted (some p) => .parked p
  | ph => ph

/-- A halted team returns to the state it was halted from. -/
def Core.resumeTeam (x : Core) (p : Nat) : Core :=
  let x := { x with dbgPlace := p, dbgCmd := 0 }
  match x.teams.find? p with
  | none => x
  | some t => x.setTeam p { t with phase := t.phase.resume, haltReq := false }

/-- A halted team issues one instruction word, or one REP step, and halts again. -/
def Core.stepTeam (x : Core) (p : Nat) : Core :=
  let x := { x with dbgPlace := p, dbgCmd := 0 }
  match x.teams.find? p with
  | none => x
  | some t => match t.phase with
    | .halted _ => { x.setTeam p { t with phase := t.phase.resume, haltReq := false, stepping := true } with dbgCmd := 3 }
    | _ => x

/-- A team asked to halt is HALTED at a clause boundary or between REP steps, once its group's matrix operations are complete (R248). -/
def Team.haltNow (busy : Bool) (t : Team) : Team :=
  if t.haltReq && t.atBoundary && !busy then
    match t.phase with
    | .running => { t with phase := .halted none, haltReq := false }
    | .parked p => { t with phase := .halted (some p), haltReq := false }
    | _ => { t with haltReq := false }
  else t

/-- Each cycle: the teams of a core that have come to where they halt. -/
def Core.halts (x : Core) : Core :=
  if !(List.any x.teams (fun p => p.2.haltReq)) then x
  else
    { x with teams := x.teams.map (fun _ t => t.haltNow (x.matBusy t.group)) }

/-- CMD reads as 0 once the team has halted, or made its step, and the matrix operations of its group are complete (R248, R287). -/
def Core.reportHalt (x : Core) : Core :=
  let t := x.team x.dbgPlace
  if x.dbgCmd = 0 ∨ t.haltReq ∨ t.stepping ∨ x.matBusy t.group then x else { x with dbgCmd := 0 }

/-- A debug command on a team. -/
def debugTeam (f : Core → Nat → Core) (c p port : Nat) (s : State) : Option State :=
  if s.sys.debugOpen port ∧ c < 320 then some { s with m := s.m.setCore c (f (s.m.core c) p) } else none

def execDebugHalt (c p port : Nat) (s : State) := happen (debugTeam Core.haltTeam c p port) s
def execDebugResume (c p port : Nat) (s : State) := happen (debugTeam Core.resumeTeam c p port) s
def execDebugStep (c p port : Nat) (s : State) := happen (debugTeam Core.stepTeam c p port) s

/-! ## Snapshots (R288) -/

/-- Every team of a group is HALTED or EXITED, and the group's matrix operations are complete: before that no halt is shown (R248). -/
def Core.allHalted (x : Core) (g : Nat) : Bool :=
  !x.matBusy g && (x.ownTeams g).all (fun p => match p.2.phase with | .halted _ | .exited => true | _ => false)

/-- SNAP: the record of a group whose teams are halted is written to the lowest free slot, and the group stays. MODEL'S CHOICE: the slot is in use from
then on, since R288 does not say when a snapshot's slot is free again (log entry 148). -/
def State.snapGroup (s : State) (c g : Nat) : State :=
  let x := s.m.core c
  let s := { s with m := s.m.setCore c { x with dbgGroup := g } }
  match s.sys.freeSlot? with
  | none => s
  | some slot =>
    if !((x.group g).phase = .resident || (x.group g).phase = .draining) ∨ !x.groups.has g ∨ !x.allHalted g then s
    else
      let s := s.writeRecord (s.sys.slotBase slot) c g
      { s with m := s.m.setCore c { s.m.core c with snapSlot := slot }, sys := { s.sys with usedSlots := slot :: s.sys.usedSlots } }

def snap (c g port : Nat) (s : State) : Option State := if s.sys.debugOpen port ∧ c < 320 then some (s.snapGroup c g) else none

def execSnap (c g port : Nat) (s : State) := happen (snap c g port) s

/-- The outstanding operations of a reloaded team: of a flag that the galley has set at least one, and of one that it has clear none. -/
def reloadFlags (old new : Tab Nat) : Tab Nat :=
  (List.range 13).foldl (fun fs f =>
    if f = 12 then fs.set f (old.get 0 f) else if new.get 0 f = 0 then fs else fs.set f (max 1 (old.get 0 f))) []

/-- A halted team with the state of a galley, its STATE and its clause flags among it; what is under way for it stays. -/
def Team.reloaded (old new : Team) : Team :=
  { new with group := old.group, tid := old.tid, flags := reloadFlags old.flags new.flags, pend := old.pend, passes := old.passes,
             holds := old.holds, storeQ := old.storeQ, flight := old.flight, held := old.held, age := old.age, nextIssue := old.nextIssue,
             haltReq := false, stepping := false }

/-- A team's galley in a record, when the team is halted: the team it makes. -/
def State.reloadTeam (s : State) (base : Nat) (r : LaunchRec) (t : Team) : Option Team :=
  match t.phase with
  | .halted _ =>
    (parseGalley (s.galleyAt base t.tid) (blankTeam r t.group t.tid) t.extra).map (fun p => t.reloaded p.1)
  | _ => some t

/-- SNAP_RELOAD: the galleys of the core's last snapshot replace the halted teams' state, if all of them pass and the core's pool holds their
allotments. -/
def snapReload (c g : Nat) (s : State) : Option State :=
  let x := s.m.core c
  let v := x.group g
  let base := s.sys.slotBase x.snapSlot
  let mine := x.ownTeams g
  let s := s.readRange base oACC
  if s.sys.dbg = 0 ∨ !x.groups.has g ∨ !x.allHalted g ∨ s.recWord base 0 0 ≠ packed [(63, 32, v.grid), (31, 0, v.idx)] then none
  else
    match allSome (fun p : Nat × Team => (s.reloadTeam base v.lrec p.2).map (fun t => (p.1, t))) mine with
    | none => none
    | some ts =>
      let x := (ts.foldl (fun (x : Core) p => x.setTeam p.1 p.2) x).drain g
      if 65536 < x.granted then none else some { s with m := s.m.setCore c x }

def execSnapReload (c g : Nat) (s : State) := happen (snapReload c g) s

end Sys2Proof.Machine
end

