-- ==== Sys2Proof/Machine/EvSave.lean ====
section
/-! DEFINITION. The global dispatcher's choices: which launch is handed out, which groups are saved to make room, which saved groups return,
and when a grid is stalled (R42 to R47, R54, R55, R57, R280, R281, R285). -/

namespace Sys2Proof.Machine

/-! ## Launches ready to hand out (R39, R44 to R47, R53) -/

/-- The effective priority of a grid's groups not yet handed out (R39, R46, R53). -/
def Mach.prioOf (m : Mach) (g : Grid) : Nat := if g.parent.isSome then g.prio else max g.lrec.prio (m.queue g.queue).prio

/-- Grids with groups to hand out: accepted children in order, then the launch at each queue's head, whether or not R44 still holds it back. -/
def Mach.pendingGrids (m : Mach) : List (Nat × Grid) :=
  (m.children ++ (List.range 64).filterMap (fun q => (m.queue q).current)).filterMap (fun id =>
    (m.grids.find? id).bind (fun g => if g.next < g.lrec.groups then some (id, g) else none))

/-- Whether a grid is another one or descends from it. -/
def Mach.within (m : Mach) (a : Nat) : (fuel grid : Nat) → Bool
  | 0, _ => false
  | n + 1, grid => grid = a || (match (m.grids.find? grid).bind Grid.parent with
    | some p => m.within a n p.grid
    | none => false)

/-- Whether a launch that R44 holds back waits for the end of a grid, or of an ancestor of it. MODEL'S CHOICE: such a launch does not stand before
that grid in R45 and R55, since neither could then ever go on (log entry 118). -/
def Mach.awaits (m : Mach) (g : Grid) (grid : Nat) : Bool :=
  match g.after with
  | some a => m.within a levels grid
  | none => false

/-- Whether a die can take the next groups of a grid. -/
def Mach.takes (m : Mach) (d id : Nat) (g : Grid) : Bool := m.dieCount d id g.lrec.factor ≠ 0

/-- Whether the next groups of a grid can be placed: on some die, or, for a COOP grid, all its groups at once (R47). The room of a COOP grid whose
first batch is out is reserved. -/
def Mach.fits (m : Mach) (id : Nat) (g : Grid) : Bool :=
  if g.lrec.coop && g.next = 0 then decide (g.lrec.groups ≤ sumTo (fun d => m.dieCount d id g.lrec.groups) 4) else (List.range 4).any (fun d => m.takes d id g)

/-- Launches ready to hand out: a COOP launch that waits for the device is not (R45). -/
def Mach.readyGrids (m : Mach) : List (Nat × Grid) := m.pendingGrids.filter (fun p => !p.2.lrec.coop || m.fits p.1 p.2)

/-- The launches of the highest effective priority: no ready launch of a higher one is before them (R45). -/
def Mach.topGrids (m : Mach) : List (Nat × Grid) :=
  let ready := m.readyGrids
  m.pendingGrids.filter (fun x => x.2.after.isNone && !ready.any (fun y => decide (m.prioOf x.2 < m.prioOf y.2) && !m.awaits y.2 x.1))

/-- A COOP grid of which only some batches have been handed out: its room is reserved, and it goes first (R47). -/
def Mach.partCoop (m : Mach) : Option (Nat × Grid) := m.pendingGrids.find? (fun p => p.2.lrec.coop && decide (0 < p.2.next))

/-- The dies in round-robin order after the last one served (R42). -/
def Mach.dieOrder (m : Mach) : List Nat :=
  match m.lastDie with
  | none => List.range 4
  | some d => (List.range 4).map (fun k => (d + 1 + k) % 4)

/-- Steps from the last queue served to a queue (R45). -/
def Mach.queueTurn (m : Mach) (q : Nat) : Nat :=
  match m.lastQueue with
  | none => q
  | some l => (q + 64 - l - 1) % 64

/-- The grid served next: of the highest priority, one that some die can take, its queue the first in round-robin order. -/
def Mach.served (m : Mach) : Option (Nat × Grid) :=
  match m.partCoop with
  | some x => some x
  | none =>
    (m.topGrids.filter (fun x => m.fits x.1 x.2)).foldl (fun (b : Option (Nat × Grid)) x => match b with
      | none => some x
      | some y => if m.queueTurn x.2.queue < m.queueTurn y.2.queue then some x else some y) none

/-! ## Units that are saved and restored together (R131, R281) -/

/-- Groups that have a place and run, each with its core and place. -/
def Mach.residents (m : Mach) : List (Nat × Nat × Group) :=
  m.cores.flatMap (fun p => List.filterMap (fun g : Nat × Group => if g.2.phase = .resident then some (p.1, g.1, g.2) else none) p.2.groups)

/-- The groups saved with a group: the residents of a COOP grid, of its co-resident set, or itself. -/
def Mach.unitOf (m : Mach) (c g : Nat) : List (Nat × Nat) :=
  let v := m.groupAt c g
  let mates := m.residents.filter (fun p => if v.lrec.coop then p.2.2.grid = v.grid else sameSet v p.2.2)
  if v.lrec.coop ∨ v.lrec.coloc ≠ 0 then mates.map (fun p => (p.1, p.2.1)) else [(c, g)]

/-- Groups chosen for saving and not yet saved. -/
def Mach.stopped (m : Mach) : List (Nat × Nat) := (m.residents.filter (fun p => p.2.2.stopping)).map (fun p => (p.1, p.2.1))

/-- Whether a unit may be chosen: its groups are RESIDENT, none has an incomplete collective, and save slots are free for all of them (R280, R281). -/
def State.choosable (s : State) (u : List (Nat × Nat)) : Bool :=
  u.all (fun p =>
    let v := s.m.groupAt p.1 p.2
    v.phase = .resident && !v.stopping && !s.m.colls.any (fun k => k.core = p.1 && k.group = p.2 && !k.done)) &&
  decide (u.length + s.m.stopped.length ≤ s.sys.freeSlots.length)

/-- A unit chosen: its teams stop at their next clause boundaries. -/
def Mach.stop (m : Mach) (u : List (Nat × Nat)) : Mach :=
  u.foldl (fun (m : Mach) p => m.setGroupAt p.1 p.2 { m.groupAt p.1 p.2 with stopping := true }) m

/-- The machine as placement would see it with some groups gone. -/
def Mach.without (m : Mach) (u : List (Nat × Nat)) : Mach :=
  u.foldl (fun (m : Mach) p =>
    let x := m.core p.1
    m.setCore p.1 { x with groups := x.groups.erase p.2, teams := x.teams.filter (fun _ t => t.group ≠ p.2) }) m

/-- The chosen units that have come to rest, first one first. -/
def State.restingUnit (s : State) (p : Nat → Nat → Bool) : Option (List (Nat × Nat)) :=
  (s.m.stopped.filter (fun x => p x.1 x.2)).findSome? (fun x =>
    let u := s.m.unitOf x.1 x.2
    if u.all (fun y => s.groupStill y.1 y.2) then some u else none)

/-- A resting unit that satisfies p is saved. -/
def State.saveResting (s : State) (p : Nat → Nat → Bool) : Option State := (s.restingUnit p).bind s.saveUnit

/-! ## Making room (R54) -/

/-- Units in order until `room` holds without them. -/
def gather (room : List (Nat × Nat) → Bool) : List (List (Nat × Nat)) → List (List (Nat × Nat)) → Option (List (List (Nat × Nat)))
  | [], acc => if room acc.flatten then some acc else none
  | u :: us, acc => if room acc.flatten then some acc else gather room us (acc ++ [u])

/-- Whether two units have groups on a common core. -/
def sharesCore (u v : List (Nat × Nat)) : Bool := u.any (fun p => v.any (fun q => q.1 = p.1))

/-- The units of a choice, given last taken first, without those that do not contribute: where there is room though nothing is freed on a unit's cores,
freeing it contributes nothing. -/
def prune (room : List (Nat × Nat) → Bool) : List (List (Nat × Nat)) → List (List (Nat × Nat)) → List (List (Nat × Nat))
  | [], kept => kept
  | u :: us, kept => if room ((us ++ kept).filter (fun v => !sharesCore u v)).flatten then prune room us kept else prune room us (u :: kept)

/-- Units of a set of dies whose groups all satisfy p, in increasing order of priority, the most recently placed first. -/
def State.candidates (s : State) (onDie : Nat → Bool) (p : Group → Bool) : List (List (Nat × Nat)) :=
  let rs := s.m.residents.filter (fun x => onDie (dieOf x.1) && p x.2.2)
  let rs := sortBy rs (fun a b => decide (a.2.2.prio < b.2.2.prio) || (a.2.2.prio = b.2.2.prio && decide (b.2.2.placedAt ≤ a.2.2.placedAt)))
  ((rs.map (fun x => s.m.unitOf x.1 x.2.1)).filter (fun u => s.choosable u && u.all (fun y => p (s.m.groupAt y.1 y.2)))).eraseDups

/-- The saved groups of a grid that return with one of them: the whole of a COOP grid, a co-resident set, or the group. -/
def Grid.restoreUnit (g : Grid) (ref : SavedRef) : List SavedRef :=
  if g.lrec.coop then g.saved
  else if g.lrec.coloc ≠ 0 then g.saved.filter (fun r => r.idx / g.lrec.factor = ref.idx / g.lrec.factor) else [ref]

/-- Saved groups by co-resident set, in index order. -/
def Grid.sets (g : Grid) (refs : List SavedRef) : List (List SavedRef) :=
  let refs := sortBy refs (fun a b => decide (a.idx ≤ b.idx))
  let sets := distinct (refs.map (fun r => r.idx / g.lrec.factor))
  sets.map (fun k => refs.filter (fun r => r.idx / g.lrec.factor = k))

/-- What waits for room: groups not yet handed out, or saved ones that would return (R54). -/
inductive Waits where
  | fresh (id : Nat) (g : Grid)
  | saved (g : Grid) (sets : List (List SavedRef))
  deriving DecidableEq, Repr

/-- Whether only the whole device has room enough. -/
def Waits.whole : Waits → Bool
  | .fresh _ g => g.lrec.coop
  | .saved g _ => g.lrec.coop

/-- Whether a machine has room for what waits: on some cores of a die, or anywhere. -/
def State.roomFor (s : State) (m : Mach) (d : Option Nat) : Waits → Bool
  | .fresh id g => if g.lrec.coop then m.fits id g else (match d with | some d => m.takes d id g | none => m.fits id g)
  | .saved g sets => sets.all (fun set => (m.chooseCores (match d with | some d => dieCores d | none => List.range 320) g.lrec
      (set.map (s.savedNeeds g.lrec))).isSome)

/-- The units whose saving makes room on a die, or, for a COOP grid, on the device; none is needed when those already chosen make room. -/
def State.victimsOn (s : State) (w : Waits) (d : Nat) (p : Group → Bool) : Option (List (List (Nat × Nat))) :=
  let m := s.m.without s.m.stopped
  let room (u : List (Nat × Nat)) : Bool := s.roomFor (m.without u) (if w.whole then none else some d) w
  match gather room (s.candidates (fun k => w.whole || k = d) p) [] with
  | none => none
  | some us =>
    let us := prune room us.reverse []
    if us.flatten.length + s.m.stopped.length ≤ s.sys.freeSlots.length then some us else none

/-- On the first die in round-robin order that can make room. -/
def State.victims (s : State) (w : Waits) (p : Group → Bool) : Option (List (List (Nat × Nat))) :=
  if s.roomFor (s.m.without s.m.stopped) none w then none else s.m.dieOrder.findSome? (fun d => s.victimsOn w d p)

/-- Waiting grids that may be handed out, or are COOP and wait for the device, and cannot be placed anywhere, of the highest priority first. -/
def Mach.unplaced (m : Mach) : List (Nat × Grid) :=
  sortBy (m.topGrids.filter (fun p => !m.fits p.1 p.2)) (fun a b => decide (m.prioOf b.2 ≤ m.prioOf a.2))

/-- What waits at a priority: the grids that cannot be placed, and the oldest saved groups of each grid. -/
def Mach.waitingAt (m : Mach) (prio : Nat) : List Waits :=
  (m.unplaced.filter (fun p => m.prioOf p.2 = prio)).map (fun p => .fresh p.1 p.2) ++
  List.filterMap (fun p : Nat × Grid => match p.2.saved with
    | ref :: _ => if ref.prio = prio then some (.saved p.2 (p.2.sets (p.2.restoreUnit ref))) else none
    | [] => none) m.grids

/-- PRIORITY_PREEMPTION: groups of lower priority are chosen for the waiting group of highest priority that they can help; a chosen unit that has
come to rest is saved. -/
def priorityPreemption (s : State) : Option State :=
  match s.saveResting (fun _ _ => true) with
  | some s => some s
  | none =>
    s.m.unplaced.findSome? (fun p =>
      match s.victims (.fresh p.1 p.2) (fun v => decide (v.prio < s.m.prioOf p.2)) with
      | some (u :: us) => some { s with m := s.m.stop (u :: us).flatten }
      | _ => none)

def execPriorityPreemption (s : State) := happen priorityPreemption s

/-- Whether a group has run for its time quantum (R54, R280). -/
def State.ranOut (s : State) (v : Group) : Bool :=
  decide (s.sys.quantum ≠ 0) && decide (v.placedAt + s.sys.quantum * 100000 * nsUnits ≤ s.m.time)

/-- QUANTUM_EXPIRY: the group is among those that have run out and make room for one of their priority that waits, undispatched or SAVED (R54). -/
def quantumExpiry (c g : Nat) (s : State) : Option State :=
  match s.saveResting (fun c' g' => (s.m.unitOf c g).contains (c', g')) with
  | some s => some s
  | none =>
    let v := s.m.groupAt c g
    if v.phase ≠ .resident ∨ !s.ranOut v ∨ !((s.m.core c).groups.has g) then none
    else
      match (s.m.waitingAt v.prio).findSome? (fun w => s.victims w (fun x => x.prio = v.prio && s.ranOut x)) with
      | none => none
      | some us => (us.find? (fun u => u.contains (c, g))).map (fun u => { s with m := s.m.stop u })

def execQuantumExpiry (c g : Nat) (s : State) := happen (quantumExpiry c g) s

/-! ## Stalled grids (R57) -/

/-- Waiting groups that a grid's parked groups may stand in the way of: its own next ones, and those of its child grids that cannot be
placed. -/
def Mach.waitingFor (m : Mach) (id : Nat) (g : Grid) : List (Nat × Grid) :=
  (if g.next < g.lrec.groups then [(id, g)] else []) ++
  m.pendingGrids.filter (fun p => (p.2.parent.map Parent.grid) = some id && !m.fits p.1 p.2)

/-- Whether the word that a WATCH names satisfies it as memory stands: then it will complete, whether or not it is accepted, started and armed yet. A
peer's word is not known. -/
def State.flagSet (s : State) (core : Nat) (c : Cmd) : Bool :=
  let va := c.vaOf 1
  match (walk s.mem s.sys.asroot (s.m.groupAt core c.group).aspace va).bind (fun p => decodeLeaf p.1 p.2) with
  | none => false
  | some l =>
    let w : Watch := { owner := .command core 0, pa := l.pa va, size := c.wordSize, mask := c.w 3, cmp := c.w 5, rel := cWCMP (c.w 0), armed := false }
    !l.remote && (w.hit s.mem).isSome

/-- The commands of a queue, in acceptance order, that will complete by themselves: a WATCH that is not satisfied, a suspended command, a FENCE or
SIGNAL behind one of those, and what such a FENCE or SIGNAL holds back will not (R163, R164, R173). `set` says whether a WATCH's word satisfies it now. -/
def movingCmds (set : Cmd → Bool) : (stuck held : Bool) → List (Nat × Cmd) → List Nat
  | _, _, [] => []
  | stuck, held, (k, c) :: cs =>
    let waits : Bool := c.kind = kSIGNAL || c.kind = kFENCE
    if c.state = .suspended || (c.kind = kWATCH && c.watchVal.isNone && !set c) || (waits && stuck) || (c.state = .posted && held) then
      movingCmds set true (held || waits) cs
    else k :: movingCmds set stuck held cs

/-- A core's commands that will complete by themselves. -/
def Core.moving (x : Core) (set : Cmd → Bool) : List Nat :=
  (List.range 4).flatMap (fun q => movingCmds set false false
    (sortBy (List.filter (fun p : Nat × Cmd => p.1 / 64 = q && p.2.open_) x.cmds) (fun a b => laterThan b.2 a.2 || !laterThan a.2 b.2)))

/-- PARKED for R57. A BWAIT on a barrier that a command under way will still increment does not count: R50 names a wait on a WATCH barrier, and R481
has no GRID_STALL from a wait for a COPY (log entry 120). -/
def Core.parkedFor (x : Core) (set : Cmd → Bool) (t : Team) : Bool :=
  match t.phase with
  | .exited => true
  | .parked (.bwait off _) => !((x.moving set).any (fun k => match x.cmds.find? k with
      | some c => c.group = t.group && bits (c.w 6) 63 48 ≠ 0 && bits (c.w 6) 18 0 = off
      | none => false))
  | .parked _ => true
  | _ => false

/-- The condition of R57. -/
def State.stalled (s : State) (id : Nat) (g : Grid) : Bool :=
  let m := s.m
  let mine := m.residents.filter (fun p => p.2.2.grid = id)
  !mine.isEmpty && !m.cores.any (fun p => List.any p.2.groups (fun q => q.2.grid = id && q.2.phase = .draining)) &&
  mine.all (fun p => List.all (m.core p.1).teams (fun t => t.2.group ≠ p.2.1 || (m.core p.1).parkedFor (s.flagSet p.1) t.2)) && !(m.waitingFor id g).isEmpty

/-- The oldest unit of a grid that may be chosen. -/
def State.oldestUnit (s : State) (id : Nat) : Option (List (Nat × Nat)) :=
  let rs := sortBy (s.m.residents.filter (fun p => p.2.2.grid = id)) (fun a b => decide (a.2.2.placedAt ≤ b.2.2.placedAt))
  (rs.map (fun p => s.m.unitOf p.1 p.2.1)).find? s.choosable

/-- PARKED_EVICTION: parked groups of an EVICTABLE grid are chosen, oldest first, until one waiting group can be placed. -/
def parkedEviction (id : Nat) (s : State) : Option State :=
  match s.saveResting (fun c g => (s.m.groupAt c g).grid = id) with
  | some s => some s
  | none =>
    match s.m.grids.find? id with
    | none => none
    | some g =>
      let m := s.m.without s.m.stopped
      if !g.lrec.evictable ∨ !s.stalled id g ∨ (s.m.waitingFor id g).any (fun p => m.fits p.1 p.2) then none
      else (s.oldestUnit id).map (fun u => { s with m := s.m.stop u })

def execParkedEviction (id : Nat) (s : State) := happen (parkedEviction id) s

/-- STALLIV in units of time. -/
def LaunchRec.stallTime (r : LaunchRec) : Nat := (if r.stalliv = 0 then 1000000 else r.stalliv * 10000) * nsUnits

/-- Each cycle: since when each grid's condition of R57 has lasted. -/
def State.trackStalls (s : State) : State :=
  { s with m := { s.m with grids := s.m.grids.map (fun id g =>
      if s.stalled id g then { g with stallSince := some (g.stallSince.getD s.m.time) } else { g with stallSince := none, stallPosted := false }) } }

/-- GRID_STALL: the condition has lasted for STALLIV in a grid that is not EVICTABLE; one notification until it has ended. -/
def gridStall (id : Nat) (m : Mach) : Option Mach :=
  match m.grids.find? id with
  | none => none
  | some g =>
    match g.stallSince with
    | none => none
    | some t =>
      if g.lrec.evictable ∨ g.stallPosted ∨ m.time < t + g.lrec.stallTime then none
      else some ({ m with grids := m.grids.set id { g with stallPosted := true } }.notify g.queue 2 0 id g.lrec.user)

def execGridStall (id : Nat) (s : State) := machEvent (gridStall id) s

/-! ## A host's request (R280) -/

/-- A write of PREEMPTCTL's REQ: the resident groups of the grid that may be chosen are. -/
def preemptWrite (id : Nat) (s : State) : State :=
  let s := { s with sys := { s.sys with preReq := BitVec.ofNat 32 id } }
  let us := ((s.m.residents.filter (fun p => p.2.2.grid = id)).map (fun p => s.m.unitOf p.1 p.2.1)).eraseDups
  us.foldl (fun (s : State) u => if s.choosable u then { s with m := s.m.stop u } else s) s

/-- HOST_PREEMPT_REQUEST. -/
def hostPreemptRequest (id port : Nat) (s : State) : Option State :=
  if s.sys.ctl port then
    let s := preemptWrite id s
    some ((s.saveResting (fun c g => (s.m.groupAt c g).grid = id)).getD s)
  else none

def execHostPreemptRequest (id port : Nat) (s : State) := happen (hostPreemptRequest id port) s

/-! ## Restores (R55, R281, R285) -/

/-- The cores and grants that a set of saved groups gets. -/
def State.coresFor (s : State) (g : Grid) (set : List SavedRef) : Option (List (Nat × Grant)) :=
  s.m.chooseCores (List.range 320) g.lrec (set.map (s.savedNeeds g.lrec))

/-- The commands' ranges in other cores' partitions registered for each restored group. -/
def State.relock (s : State) : List (Nat × Nat) → Option State
  | [] => some s
  | (c, p) :: ps =>
    let keys := (List.filter (fun q : Nat × Cmd => q.2.group = p) (s.m.core c).cmds).map (fun q => (q.1, q.1))
    (s.m.clusterLocks c p keys).bind (fun m => ({ s with m := m } : State).relock ps)

/-- Sets restored one after another. -/
def State.restoreSets (s : State) (id : Nat) (g : Grid) : List (List SavedRef) → Option State
  | [] => some s
  | set :: sets =>
    match s.coresFor g set with
    | none => none
    | some cs =>
      ((s.restoreSet id g (set.zip cs)).relock (cs.map (fun p => (p.1, p.2.group)))).bind (fun s => s.restoreSets id g sets)

/-- Whether a saved group comes before every undispatched one, waiting COOP launches and those that R44 holds back among them (R55, item 1). -/
def Mach.outranks (m : Mach) (id : Nat) (ref : SavedRef) : Bool :=
  m.pendingGrids.all (fun p => decide (m.prioOf p.2 < ref.prio) || m.awaits p.2 id)

/-- Whether a saved group is of the grid being served while no undispatched group can be placed (R55, item 3). -/
def Mach.servedAfter (m : Mach) (id : Nat) : Bool := m.topGrids.any (fun p => p.1 = id) && m.topGrids.all (fun p => !m.fits p.1 p.2)

/-- The oldest saved groups of each grid that may return now, by R55, and have room. -/
def State.returning (s : State) : List (Nat × SavedRef) :=
  List.filterMap (fun p : Nat × Grid => match p.2.saved with
    | [] => none
    | ref :: _ =>
      if (s.m.outranks p.1 ref || s.m.servedAfter p.1) && (p.2.sets (p.2.restoreUnit ref)).all (fun set => (s.coresFor p.2 set).isSome)
      then some (p.1, ref) else none) s.m.grids

/-- MODEL'S CHOICE: of saved groups of several grids that could return, the one of highest priority, and then the one saved first, is first (log
entry 119). -/
def SavedRef.before (a b : SavedRef) : Bool := decide (b.prio < a.prio) || (a.prio = b.prio && decide (a.at_ < b.at_))

/-- The bytes of a group record that a restore reads (R283). -/
def LaunchRec.recordBytes (r : LaunchRec) : Nat := oTILE + 16384 * r.tileUnits

/-- GROUP_RESTORE: the oldest saved groups of a grid return, when no undispatched group comes before them and every group handed out is placed. -/
def groupRestore (id idx : Nat) (s : State) : Option State :=
  match s.m.grids.find? id with
  | none => none
  | some g =>
    match g.saved with
    | [] => none
    | ref :: _ =>
      if !((g.restoreUnit ref).any (fun r => r.idx = idx)) ∨ !(s.m.outranks id ref || s.m.servedAfter id) ∨ s.returning.any (fun r => r.2.before ref) ∨
          !(List.range 4).all (fun d => (s.m.handedTo d).isEmpty) ∨ s.m.partCoop.isSome ∨ s.sys.pstate ≠ 0 ∨
          (g.restoreUnit ref).any (fun r => s.rangeStalls (s.sys.slotBase r.slot) g.lrec.recordBytes) then none
      else
        let s := (g.restoreUnit ref).foldl (fun (s : State) r => s.readRange (s.sys.slotBase r.slot) g.lrec.recordBytes) s
        s.restoreSets id g (g.sets (g.restoreUnit ref))

def execGroupRestore (id idx : Nat) (s : State) := happen (groupRestore id idx) s

/-- Whether some saved groups that outrank every undispatched one could be restored now: freed room goes to them first (R55). -/
def State.savedFirst (s : State) : Bool := s.m.partCoop.isNone && s.returning.any (fun r => s.m.outranks r.1 r.2)

/-! ## Batches (R42 to R47) -/

/-- Groups of a grid handed to a die. -/
def Mach.hand (m : Mach) (id : Nat) (g : Grid) (d n : Nat) : Mach :=
  let tag := m.prioOf g
  let hs := (List.range n).map (fun k => (⟨id, g.next + k, tag⟩ : Handed))
  let g := { g with next := g.next + n }
  let q := m.queue g.queue
  let m := { m with handed := m.handed.set d (m.handedTo d ++ hs), grids := m.grids.set id g, lastDie := some d, lastQueue := some g.queue }
  if g.next < g.lrec.groups then m
  else { m.setQueue g.queue (if q.current = some id then { q with current := none } else q) with children := m.children.filter (· ≠ id) }

/-- The acquire before a launch's first group (R44), requested on every die. -/
def Mach.acquireFor (m : Mach) (id : Nat) (g : Grid) : Mach :=
  if !g.needAcq then m
  else
    let t := m.freshToken
    let m := (List.range 4).foldl (fun (m : Mach) d => m.requestBumps d (List.range 16) t.2) t.1
    { m with grids := m.grids.set id { g with needAcq := false, acquire := some t.2 } }

/-- BATCH_HANDOUT: n groups of the grid served go to the next die that can take any, one batch in a cycle (R494). A COOP grid whose first batch goes
out has the room of all the others reserved. -/
def batchHandout (n : Nat) (s : State) : Option State :=
  if s.savedFirst ∨ s.sys.pstate ≠ 0 ∨ s.m.now < s.m.batchFrom then none
  else
    match s.m.served with
    | none => none
    | some (id, g) =>
      let m := s.m.acquireFor id g
      match m.grids.find? id, m.dieOrder.find? (fun d => m.takes d id g) with
      | some g, some d =>
        if n = 0 ∨ 64 < n ∨ n % g.lrec.factor ≠ 0 ∨ m.dieCount d id n < n then none
        else some { s with m := { m.hand id g d n with batchFrom := s.m.now + 1 } }
      | _, _ => none

def execBatchHandout (n : Nat) (s : State) := happen (batchHandout n) s

end Sys2Proof.Machine
end

