-- ==== Sys2Proof/Machine/EvMem.lean ====
section
/-! DEFINITION. The events of the die L2s and the homes: generation bumps, messages and their acknowledgements, fills, the sweeper, the
scrubber, and how a detected error starts its self-test (R182 to R201, R322). -/

namespace Sys2Proof.Machine

/-! ## Generation bumps (R186, R187, R190) -/

/-- Whether a bump is that of a FENCE which CCANCEL has named: it is made no more (R177). -/
def Mach.givenUp (m : Mach) (b : Bump) : Bool :=
  m.cores.any (fun p => List.any p.2.cmds (fun q => q.2.cancelling && q.2.kind = kFENCE && q.2.token = some b.token))

/-- The cycle in which the request was made that a bump of a class on a die serves next: the oldest that is at least 4 cycles old. -/
def Mach.dueBump (m : Mach) (d c : Nat) : Option Nat :=
  (m.bumps.filter (fun b => b.die = d && b.cls = c && decide (b.at_ + 4 ≤ m.now) && !m.givenUp b)).foldl (fun (r : Option Nat) b => match r with
    | none => some b.at_
    | some a => some (min a b.at_)) none

/-- GENERATION_BUMP: the class's counter moves on, unless a line of the generation it moves to is still live; then it is stalled. Requests
of one cycle, and those made during a stall, are one bump. -/
def generationBump (d c : Nat) (s : State) : Option State :=
  match s.m.dueBump d c with
  | none => none
  | some at_ =>
    let x := s.die d
    let next := (x.gen c + 1) % 64
    if x.liveCount c next ≠ 0 then
      if x.stalled.has c then none else some (s.setDie d { x with stalled := x.stalled.set c s.m.now })
    else
      let s := s.setDie d { x with gens := x.gens.set c next, bumpCount := x.bumpCount.set c ((x.bumpCount.get 0 c + 1) % 65536),
                                   stalled := x.stalled.erase c }
      let merged (b : Bump) : Bool := b.at_ = at_ || (x.stalled.find? c).any (fun t => decide (t ≤ b.at_))
      some { s with m := { s.m with bumps := s.m.bumps.filter (fun b => !(b.die = d && b.cls = c && merged b && !s.m.givenUp b)) } }

def execGenerationBump (d c : Nat) (s : State) := happen (generationBump d c) s

/-! ## Messages to the homes (R167, R185, R188, R193, R195, R201) -/

/-- A message that its home may perform: no earlier one of the die to the same line is unperformed (R193). -/
def Die.turn (x : Die) (i : Nat) : Option Msg :=
  match x.msgs[i]? with
  | none => none
  | some g =>
    if g.kind = .performed ∨ (x.msgs.take i).any (fun h => h.line = g.line && h.kind ≠ .performed) then none else some g

/-- The message is performed; its acknowledgement is on its way. -/
def State.performed (s : State) (d id : Nat) : State :=
  let x := s.die d
  s.setDie d { x with msgs := x.msgs.map (fun g => if g.id = id then { g with kind := .performed } else g) }

/-- HOME_ACKNOWLEDGE. -/
def homeAcknowledge (d i : Nat) (s : State) : Option State :=
  let x := s.die d
  match x.msgs[i]? with
  | none => none
  | some g => if g.kind = .performed then some (s.setDie d { x with msgs := x.msgs.eraseIdx i }) else none

def execHomeAcknowledge (d i : Nat) (s : State) := happen (homeAcknowledge d i) s

/-- WRITE_BACK (R185). -/
def writeBack (d i : Nat) (s : State) : Option State :=
  match (s.die d).turn i with
  | none => none
  | some g => match g.kind with
    | .writeBack line => some ((s.writeBackLine d line).performed d g.id)
    | _ => none

def execWriteBack (d i : Nat) (s : State) := happen (writeBack d i) s

/-- A write-through or an atomic performed at its home. -/
def State.performMsg (s : State) (d : Nat) (g : Msg) : State :=
  (match g.kind with
    | .writeThrough pa bs => s.writeThroughAt d pa g.cls bs
    | .atomic pa op fmt size v => s.atomicAt d pa g.cls op fmt size v
    | _ => s).performed d g.id

/-- WRITE_THROUGH (R167). -/
def writeThrough (d i : Nat) (s : State) : Option State :=
  match (s.die d).turn i with
  | none => none
  | some g => match g.kind with
    | .writeThrough pa _ => if s.heldBy d pa g.rdup then none else some (s.performMsg d g)
    | _ => none

def execWriteThrough (d i : Nat) (s : State) := happen (writeThrough d i) s

/-- Whether a message is the write of a SIGNAL which CCANCEL has named: it is performed no more (R177). -/
def State.takenBack (s : State) (d : Nat) (g : Msg) : Bool :=
  s.m.cores.any (fun p => dieOf p.1 = d && List.any p.2.cmds (fun q => q.2.cancelling && q.2.kind = kSIGNAL && q.2.stage = 2 && q.2.waits.contains g.id))

/-- HOME_ATOMIC (R195). -/
def homeAtomic (d i : Nat) (s : State) : Option State :=
  match (s.die d).turn i with
  | none => none
  | some g => match g.kind with
    | .atomic pa _ _ _ _ => if s.heldBy d pa g.rdup ∨ s.rowStalls pa ∨ s.takenBack d g then none else some (s.performMsg d g)
    | _ => none

def execHomeAtomic (d i : Nat) (s : State) := happen (homeAtomic d i) s

/-- RDUP_INVALIDATE: every other holder of the granule has dropped it and acknowledged, and the write that waited for them is performed: no fill comes
between, and writes are performed in the order in which their invalidations are complete (R201). -/
def rdupInvalidate (d i : Nat) (s : State) : Option State :=
  match (s.die d).turn i with
  | none => none
  | some g => match g.kind.pa? with
    | some pa => if s.heldBy d pa g.rdup ∧ !(g.kind.atomic? && (s.rowStalls pa || s.takenBack d g)) then some ((s.invalidateOthers pa d).performMsg d g) else none
    | none => none

def execRdupInvalidate (d i : Nat) (s : State) := happen (rdupInvalidate d i) s

/-! ## Fills (R182) -/

/-- FILL_RETURN: the sector arrives from the home and its command may use it; a poisoned sector brings no bytes. -/
def fillReturn (d i : Nat) (s : State) : Option State :=
  let x := s.die d
  match x.fills[i]? with
  | none => none
  | some f =>
    if s.rowStalls f.pa then none
    else
      let s := s.setDie d { x with fills := x.fills.eraseIdx i }
      let s := s.readSectors f.pa 32
      let bad := s.poisoned f.pa 32
      let (s, bs) := if bad then (s, []) else s.fillSector d f
      let give (c : Cmd) : Cmd :=
        if c.asked.contains f.pa then { c with fills := c.fills.set f.pa bs, asked := c.asked.filter (· ≠ f.pa) } else c
      let y := s.m.core f.core
      some { s with m := s.m.setCore f.core { y with cmds := y.cmds.modify f.key give } }

def execFillReturn (d i : Nat) (s : State) := happen (fillReturn d i) s

/-! ## The sweeper (R191) -/

/-- The next lines of a slice in increasing line number, from a position on, at most eight. -/
def Die.sweepLines (x : Die) (slice : Nat) : List Nat :=
  ((x.lines.filter (fun l _ => sliceOf (128 * l) = slice && decide (x.sweep.get 0 slice ≤ l))).keys).take 8

/-- SWEEPER_VISIT: SV is cleared on the non-RD lines visited whose age is 32 or more; past the slice's last line it starts again. -/
def sweeperVisit (d slice : Nat) (s : State) : Option State :=
  let x := s.die d
  if 32 ≤ slice then none
  else
    let ls := x.sweepLines slice
    let old (l : Line) : Bool := !l.rd && decide (32 ≤ (x.gen l.cls + 64 - l.gen) % 64)
    let lines := x.lines.map (fun n l => if ls.contains n && old l then { l with sv := 0 } else l)
    let pos := if ls.length < 8 then 0 else (ls.getLast?.getD 0) + 1
    some (s.setDie d { x with lines := lines, sweep := x.sweep.set slice pos })

def execSweeperVisit (d slice : Nat) (s : State) := happen (sweeperVisit d slice) s

/-! ## The scrubber (R197, R198) -/

/-- One hour, in units of time. -/
def hourUnits : Nat := 3600 * 1000000000 * nsUnits

/-- How far a scrubber is behind its schedule, in sectors. -/
def Home.lag (h : Home) (now : Nat) : Nat :=
  min stackSectors ((now - h.passStart) * stackSectors / (max 1 h.period * hourUnits)) - h.scrubPos

/-- The scrubber's level. -/
def Home.levelAt (h : Home) (now : Nat) : Nat :=
  let lag := h.lag now
  if stackSectors / 16 ≤ lag then 2
  else if stackSectors / 64 ≤ lag then max 1 h.level
  else if lag < stackSectors / 128 then 0
  else h.level

/-- The scrubber's level brought up to a time. Between its reads the lag only grows (R198). -/
def Home.settleLevel (h : Home) (now : Nat) : Home := { h with level := h.levelAt now }

/-- The scrubber goes on to the next sector, and from the last one to a new pass. -/
def Home.scrubNext (h : Home) (now : Nat) : Home :=
  if h.scrubPos + 1 = stackSectors then { h with scrubPos := 0, passes := (h.passes + 1) % 65536, passStart := now }
  else { h with scrubPos := h.scrubPos + 1 }

/-- SCRUB_READ: the next sector in stack order is read; an error, one that arises with the read or before it, is corrected and written back, or the
sector is marked poisoned. -/
def scrubRead (h : Nat) (ecc : SectorError) (s : State) : Option State :=
  let x := s.home h
  if 8 ≤ h ∨ !x.enable ∨ s.sys.pstate = 3 ∨ x.rowTests.contains (Config.hbmRow x.scrubPos) then none
  else
    let now := s.m.time
    let y := ((x.settleLevel now).scrubNext now).settleLevel now
    some ((s.setHome h (if ecc = .none then y else { y with errors := y.errors.set x.scrubPos ecc })).meetError h x.scrubPos)

def execScrubRead (h : Nat) (ecc : SectorError) (s : State) := happen (scrubRead h ecc) s

end Sys2Proof.Machine
end

