-- ==== Sys2Proof/Machine/Collective.lean ====
section
/-! DEFINITION. The collective instructions at issue: control registers, repartition records, their checks, locks and status, major
0x1D (R305 to R313, R388 to R391). -/

namespace Sys2Proof.Machine

/-! ## The control register (R306) and the status (R310) -/

def ctlIncr (w : Word) : Nat := bits w 63 48
def ctlRoot (w : Word) : Nat := bits w 47 39
def ctlStoff (w : Word) : Nat := bits w 37 19
def ctlBoff (w : Word) : Nat := bits w 18 0

/-- A collective's status doubleword. -/
def collStatus (state fault rank nres : Nat) : Word := wordOf [(60, state), (52, fault), (32, rank), (0, nres)]

/-! ## The repartition record (R312) -/

def rMKIND (w : Word) : Nat := bits w 63 62
def rCURVE (w : Word) : Bool := bitOf w 61
def rDIM3 (w : Word) : Bool := bitOf w 60
def rBITS (w : Word) : Nat := bits w 59 55
def rCW (w : Word) : Bool := bitOf w 54
def rWUNI (w : Word) : Bool := bitOf w 53
def rTAG (w : Word) : Nat := bits w 52 47
def rFIRST (w : Word) : Nat := bits w 40 32
def rCOFF (w : Word) : Nat := bits w 31 16
def rWOFF (w : Word) : Nat := bits w 15 0
def rROWSIZE (w4 : Word) : Nat := bits w4 63 48
def rNCORE (w4 : Word) : Nat := bits w4 47 39
def rDIES (w4 : Word) : Nat := bits w4 35 32
def rDCAP (w4 : Word) : Nat := bits w4 19 0

/-- Axes. -/
def rDim (w : Word) : Nat := if rDIM3 w then 3 else 2

/-- Bytes of a coordinate. -/
def rCoord (w : Word) : Nat := if rCW w then 4 else 2

/-- The dies of a mask, lowest first. -/
def maskDies (mask : Nat) : List Nat := (List.range 4).filter (fun d => mask / 2 ^ d % 2 = 1)

/-- Members that the report array is checked for (R390). -/
def reportEntries (w0 w4 : Word) : Nat :=
  match rMKIND w0 with
  | 0 => 288
  | 1 => (maskDies (rDIES w4)).length
  | _ => rNCORE w4

/-- The dimensions of a layout record in use. -/
def layUsed (l : List Word) : List (Nat × Int) := (layDims l).take (layRank l)

/-- The rows of an INLAY. -/
def layRows (l : List Word) : Nat := extProduct (layUsed l).tail

/-- The offsets of an INLAY's rows from its base, in the order of R158. -/
def rowOffset (l : List Word) (n : Nat) : Int := dimOffset false (layUsed l).tail n

/-! ## Checks (R307, R390) -/

/-- RECORD_INVALID of a collective (R307). -/
def collBad (off word reason : Nat) : TrapReq := ⟨cRECORD_INVALID, recordInfo off (reason, word)⟩

/-- A range beyond a limit, reported by its first byte. -/
def collBounds (tile : Bool) (limit : Nat) (lo hi : Int) : List TrapReq :=
  trapIf (decide (lo < 0) || decide ((limit : Int) < hi)) ⟨if tile then cTILE_BOUNDS else cSCRATCH_BOUNDS, wordOfInt lo⟩

/-- The range-lock test of a range of a core; an empty range hits no lock. -/
def Mach.collLocks (m : Mach) (rs : List (Range × Bool)) : List TrapReq :=
  (rs.filter (fun r => decide (r.1.start < r.1.stop))).flatMap (fun r => match lockHit ((m.core r.1.core).seenLocks m.now) r.1.tile r.1.group r.1.start (r.1.stop - r.1.start) r.2 with
    | some e => [⟨cRANGE_LOCK, lockInfo e r.1.start r.2⟩]
    | none => [])

/-- Formats of CXA and CXS (R307). -/
def foldFormat (red f : Nat) : Bool :=
  [2, 6, 3, 7].contains f || (decide (red < 3) && [8, 9, 10, 11].contains f)

/-- The ranges of an in-place collective: its buffer and its status. -/
def Mach.collRanges (m : Mach) (ctl shape : Word) : List Range :=
  let g := m.team.group
  let s := shapeOf shape
  [⟨m.cur.core, g, true, true, (s.span s.base).1.toNat, (s.span s.base).2.toNat⟩,
   ⟨m.cur.core, g, false, false, ctlStoff ctl, ctlStoff ctl + 8⟩]

/-- The checks of an in-place collective. -/
def Mach.collCheck (m : Mach) (op red : Nat) (ctl shape : Word) : Except TrapReq Unit :=
  let s := shapeOf shape
  let g := m.group
  firstTrap [
    trapIf (bitOf ctl 38 || ctlIncr ctl = 0 || (op ≠ 3 && ctlRoot ctl ≠ 0)) (collBad 0 0 2),
    trapIf (fmtBits s.fmt = 0 || ((op = 0 || op = 2) && !foldFormat red s.fmt) || s.trans) (collBad 0 0 3),
    trapIf (ctlBoff ctl % 8 ≠ 0 || ctlStoff ctl % 8 ≠ 0) (collBad 0 0 6),
    collBounds true g.tileSize (s.span s.base).1 (s.span s.base).2,
    collBounds false g.spSize (ctlStoff ctl) (ctlStoff ctl + 8 : Nat),
    collBounds false g.spSize (ctlBoff ctl) (ctlBoff ctl + 8 : Nat),
    m.collLocks ((m.collRanges ctl shape).map (fun r => (r, true)))]

/-- A pointer of a CXP record: a private, scratchpad or tile-store pointer of this core (R390). -/
def Mach.ownSpot (m : Mach) (p : Word) : Option Spot :=
  if ptrWin p = 0x8 ∨ ptrWin p = 0x9 ∨ ptrWin p = 0xB then m.spotOf m.cur.core m.team.group m.team.tid true p else none

/-- A range of window offsets of a spot. -/
def Spot.range (s : Spot) (rw : Bool) (lo hi : Int) : Range :=
  ⟨s.reach.core, s.reach.group, s.reach.tile, rw, (s.reach.base + lo).toNat, (s.reach.base + hi).toNat⟩

/-- What a valid CXP record gives. -/
structure CxpOk where
  words : List Word
  lay : List Word
  ranges : List Range
  deriving DecidableEq, Repr

/-- Checks 3 and 6 of R390: limits of the fields of each word. -/
def cxpFields (off : Nat) (w : Nat → Word) : List TrapReq :=
  let mk := rMKIND (w 0)
  trapIf (mk = 3 || bits (w 0) 46 41 ≠ 0 || rBITS (w 0) = 0 || decide (21 < rBITS (w 0)) ||
    (!rWUNI (w 0) && rWOFF (w 0) % 4 ≠ 0)) (collBad off 0 2) ++
  trapIf (bits (w 4) 38 36 ≠ 0 || bits (w 4) 31 20 ≠ 0 || (mk = 1 && rDIES (w 4) = 0) ||
    (mk = 2 && (rNCORE (w 4) = 0 || decide (320 < rNCORE (w 4)) || decide (320 < rFIRST (w 0) + rNCORE (w 4))))) (collBad off 4 2) ++
  trapIf (mk ≠ 0 && w 5 ≠ 0) (collBad off 5 2) ++
  trapIf (bits (w 6) 47 19 ≠ 0) (collBad off 6 2)

/-- Check 4 of R390. -/
def cxpLayout (off : Nat) (w : Nat → Word) (lay : Option (List Word)) : List TrapReq :=
  let size := rROWSIZE (w 4)
  trapIf (decide (size < rCOFF (w 0) + rDim (w 0) * rCoord (w 0)) || (!rWUNI (w 0) && decide (size < rWOFF (w 0) + 4))) (collBad off 0 5) ++
  (match lay with
    | none => [collBad off 1 5]
    | some l => trapIf (!(layoutFailures l 4 1).isEmpty || (layDims l).headD (0, 0) ≠ (size, 1) || decide (1048575 < layRows l))
        (collBad off 1 5)) ++
  trapIf (decide (size < 8) || decide (4096 < size) || size % 4 ≠ 0) (collBad off 4 5)

/-- The checks of CXP on a record offset (R390). -/
def Mach.cxpCheck (m : Mach) (o : Int) : Except TrapReq CxpOk :=
  let x := m.myCore
  let g := m.group
  let off := (o % 524288).toNat
  if o % 64 ≠ 0 then .error (collBad off 0 6)
  else if o < 0 ∨ (g.lrec.sharedBytes : Int) < o + 64 then .error ⟨cSCRATCH_BOUNDS, wordOfInt o⟩
  else
    let words := (List.range 8).map (fun k => x.readSp g (off + 8 * k))
    let w (k : Nat) : Word := words.getD k 0
    match x.readWords g (recordOffs off 8 ++ m.layoutOffs (w 1)) with
    | .error r => .error r
    | .ok _ =>
    let lay := m.layoutOf m.cur.core m.team.group (w 1)
    match firstTrap [cxpFields off w, cxpLayout off w lay] with
    | .error r => .error r
    | .ok () =>
      let l := lay.getD []
      match m.ownSpot (l.getD 0 0), m.ownSpot (w 2), m.ownSpot (w 3) with
      | none, _, _ => .error (collBad off 1 4)
      | _, none, _ => .error (collBad off 2 4)
      | _, _, none => .error (collBad off 3 4)
      | some src, some dest, some resid =>
        let size := rROWSIZE (w 4)
        let rows := layRows l
        let span := spanFirst false (layUsed l).tail.reverse rows
        let span := if (layUsed l).tail.isEmpty then (0, 0) else span
        let sLo := src.off + span.1
        let sHi := src.off + span.2 + size
        let dHi := dest.off + (rDCAP (w 4) * size : Nat)
        let rHi := resid.off + (rows * size : Nat)
        let repEnd := off + 64 + 16 * reportEntries (w 0) (w 4)
        let boff := bits (w 6) 18 0
        -- INCR 0 names no barrier, and its BOFF is not looked at, as for a command (R155, log entry 126)
        let barrier := decide (bits (w 6) 63 48 ≠ 0)
        let rSrc := src.range false sLo sHi
        let rRec : Range := ⟨m.cur.core, m.team.group, false, false, off, repEnd⟩
        let rDest := dest.range true dest.off dHi
        let rResid := resid.range true resid.off rHi
        match firstTrap [trapIf (barrier && boff % 8 ≠ 0) (collBad off 6 6),
          collBounds false g.lrec.sharedBytes (off + 64 : Nat) repEnd,
          collBounds src.reach.tile src.reach.limit sLo sHi, collBounds dest.reach.tile dest.reach.limit dest.off dHi,
          collBounds resid.reach.tile resid.reach.limit resid.off rHi, (if barrier then collBounds false g.spSize boff (boff + 8 : Nat) else []),
          m.collLocks [(rSrc, false), (rRec, true), (rDest, true), (rResid, true)]] with
        | .error r => .error r
        | .ok () => .ok { words := words, lay := l, ranges := [rSrc, rRec, rDest, rResid] }

/-! ## Issue (R307, R389) -/

/-- A collective as it issues. -/
def Mach.newColl (m : Mach) (op red flag : Nat) (ctl shape window : Word) (off : Nat) (words lay : List Word) : Coll :=
  { id := m.nextColl, core := m.cur.core, group := m.team.group, team := m.cur.place, flag := flag, op := op, red := red, ctl := ctl,
    shape := shape, window := window, off := off, words := words, lay := lay, issued := m.now, accepted := false, ctx := [], rank := 0,
    seq := 0, data := [], done := false }

/-- The collective issues: its locks are registered, its status says RUNNING, the flag counts, and the team waits until the context
accepts it. `stoff` is where its status lies. -/
def Mach.issueColl (m : Mach) (c : Coll) (ranges : List Range) (stoff rank : Nat) : Mach :=
  let free := Config.freeLockSlot c.id
  -- an empty range locks no byte, and takes no entry (R146)
  let m := m.addLocks m.cur.core (free.toNat / 64) (free.toNat % 64) (some c.id) (ranges.filter (fun r => decide (r.start < r.stop)))
  let x := m.myCore
  let x := x.writeSp m.group stoff (collStatus 0 0 rank 0)
  let t := { (x.team m.cur.place).countUp c.flag with nextIssue := 2 ^ 64 }
  { m.setCore m.cur.core (x.setTeam m.cur.place t.retire) with colls := m.colls ++ [c], nextColl := m.nextColl + 1 }

/-- An in-place collective (R388, R389). -/
def Mach.coll (m : Mach) (op red : Nat) (d a b : Reg) (fb : Bool) : Mach :=
  let t := m.team
  let ctl := t.rs d.toNat
  let shape := t.rs a.toNat
  match m.collCheck op red ctl shape with
  | .error r => m.trap r
  | .ok () => m.issueColl (m.newColl op red (t.flagOf fb) ctl shape (t.rs b.toNat) 0 [] []) (m.collRanges ctl shape) (ctlStoff ctl) 0

def execCxa (d a b : Reg) (r : BitVec 3) (f : Bool) (s : State) : Host.Outcome State Fault Refusal :=
  word (fun m => m.coll 0 r.toNat d a b f) s
def execCxg (d a b : Reg) (f : Bool) (s : State) : Host.Outcome State Fault Refusal := word (fun m => m.coll 1 0 d a b f) s
def execCxs (d a b : Reg) (r : BitVec 3) (f : Bool) (s : State) : Host.Outcome State Fault Refusal :=
  word (fun m => m.coll 2 r.toNat d a b f) s
def execCxb (d a b : Reg) (f : Bool) (s : State) : Host.Outcome State Fault Refusal := word (fun m => m.coll 3 0 d a b f) s
def execCxt (d a b : Reg) (f : Bool) (s : State) : Host.Outcome State Fault Refusal := word (fun m => m.coll 4 0 d a b f) s

/-- The members of a CXP of MKIND 1 or 2 (R313). -/
def cxpMembers (w0 w4 : Word) : List Nat :=
  if rMKIND w0 = 1 then maskDies (rDIES w4) else (List.range (rNCORE w4)).map (· + rFIRST w0)

/-- A core's own rank there, if it is a member. -/
def cxpRank (w0 w4 : Word) (core : Nat) : Option Nat :=
  (cxpMembers w0 w4).findIdx? (· = if rMKIND w0 = 1 then dieOf core else core)

/-- CXP (R390). -/
def execCxp (a : Reg) (f : Bool) (s : State) : Host.Outcome State Fault Refusal :=
  word (fun m =>
    let t := m.team
    let o := (t.rs a.toNat).toInt
    match m.cxpCheck o with
    | .error r => m.trapRecord r
    | .ok k =>
      let w0 := k.words.getD 0 0
      let w4 := k.words.getD 4 0
      let rank := if rMKIND w0 = 0 then 0 else (cxpRank w0 w4 m.cur.core).getD 0
      let m := m.setCore m.cur.core (m.myCore.sense ((recordOffs o.toNat 8 ++ m.layoutOffs (k.words.getD 1 0)).map (fun f => (m.group.spBase + f) / 8)))
      m.issueColl (m.newColl 5 0 (t.flagOf f) 0 0 (k.words.getD 5 0) o.toNat k.words k.lay) k.ranges (o.toNat + 56) rank) s

/-- A collective can issue: an empty store queue, and entries enough in the core's lock table (R307). -/
def Mach.collReady (m : Mach) (entries : Nat) : Bool := m.team.storeQ.isEmpty && decide (entries ≤ m.myCore.freeLocks)

end Sys2Proof.Machine
end

