-- ==== Sys2Proof/Machine/Curve.lean ====
section
/-! DEFINITION. Morton and Hilbert keys (R314), for VSFC and the reel. -/

namespace Sys2Proof.Machine

/-- Bit j of each axis, first axis first, below a key: the inner loop of Interleave. -/
def interleaveBit (j : Nat) : List Nat → Nat → Nat
  | [], key => key
  | c :: cs, key => interleaveBit j cs (2 * key + c / 2 ^ j % 2)

/-- Interleave (R314), from bit j − 1 down. -/
def interleave (c : List Nat) : Nat → Nat → Nat
  | 0, key => key
  | j + 1, key => interleave c j (interleaveBit j c key)

/-- The axes after position i of one round of the undoing of excess work, axis 0 given apart: its value and the others. -/
def undoAxes (q x0 : Nat) : List Nat → Nat × List Nat
  | [] => (x0, [])
  | x :: xs =>
    let p := q - 1
    if x / q % 2 = 1 then
      let r := undoAxes q (x0 ^^^ p) xs
      (r.1, x :: r.2)
    else
      let t := (x0 ^^^ x) &&& p
      let r := undoAxes q (x0 ^^^ t) xs
      (r.1, (x ^^^ t) :: r.2)

/-- One round with bit value q: axis 0 is compared with itself first. -/
def undoRound (q : Nat) : List Nat → List Nat
  | [] => []
  | x0 :: xs =>
    let x0 := if x0 / q % 2 = 1 then x0 ^^^ (q - 1) else x0
    let r := undoAxes q x0 xs
    r.1 :: r.2

/-- The rounds from bit value 2^k down to 2. -/
def undoRounds : Nat → List Nat → List Nat
  | 0, xs => xs
  | k + 1, xs => undoRounds k (undoRound (2 ^ (k + 1)) xs)

/-- Gray encoding: each axis takes the one before it, as already encoded. -/
def grayEncode (prev : Nat) : List Nat → List Nat
  | [] => []
  | x :: xs => (x ^^^ prev) :: grayEncode (x ^^^ prev) xs

/-- The correction t over the last axis, bit values 2^k down to 2. -/
def grayFix (last : Nat) : Nat → Nat → Nat
  | 0, t => t
  | k + 1, t => grayFix last k (if last / 2 ^ (k + 1) % 2 = 1 then t ^^^ (2 ^ (k + 1) - 1) else t)

/-- HilbertTranspose (R314). -/
def hilbertTranspose (xs : List Nat) (n : Nat) : List Nat :=
  let xs := undoRounds (n - 1) xs
  let xs := match xs with | [] => [] | x :: r => x :: grayEncode x r
  let t := grayFix (xs.getLastD 0) (n - 1) 0
  xs.map (fun x => x ^^^ t)

/-- The key of a row: each axis value is taken modulo 2^BITS (R314). -/
def curveKey (hilbert : Bool) (axes : List Nat) (n : Nat) : Nat :=
  let c := axes.map (· % 2 ^ n)
  interleave (if hilbert then hilbertTranspose c n else c) n 0

/-- The bucket of a key (R314). -/
def bucketOf (key axes n : Nat) : Nat :=
  if 16 ≤ axes * n then key / 2 ^ (axes * n - 16) else key * 2 ^ (16 - axes * n)

end Sys2Proof.Machine
end

