-- ==== Sys2Proof/Machine/Reel.lean ====
section
/-! DEFINITION. What collectives compute from their members' data: the folds and moves of the in-place ones (R308, R309) and the reel
(R314 to R316). -/

namespace Sys2Proof.Machine

/-! ## The values exchanged before any data moves (R308, R313) -/

/-- OP, RED, format, element count and ROOT; for CXP, whose elements are its rows, the fields of its record beside them. -/
def Coll.params (k : Coll) : List Nat :=
  if k.op < 5 then
    let s := shapeOf k.shape
    [k.op, k.red, s.fmt, s.rows * s.cols, ctlRoot k.ctl]
  else
    let w0 := k.words.getD 0 0
    [5, 0, 4, layRows k.lay, 0, b2n (rCURVE w0), b2n (rDIM3 w0), rBITS w0, b2n (rCW w0), b2n (rWUNI w0), rCOFF w0, rWOFF w0, rROWSIZE (k.words.getD 4 0)]

/-- A member as the others see it. -/
def Coll.member (k : Coll) : MemberData := { params := k.params, data := k.data, dcap := rDCAP (k.words.getD 4 0) }

/-! ## In-place collectives (R309) -/

/-- The elements of a buffer: their codes in row-major order, of n bytes each; a four-bit one has a byte of its own. -/
def elementsOf (n : Nat) (data : List Byte) : List Nat := (pieces n data.length data).map leNat

/-- Fold of R309 over the members' values, rank 0 first. -/
def foldRanks (red fmt : Nat) : List Nat → Nat
  | [] => 0
  | x :: xs => xs.foldl (combine (red + 1) fmt) x

/-- Whether an in-place collective cannot run on N ranks: a row count that N does not divide, or no such ROOT. -/
def Coll.unfit (k : Coll) (n : Nat) : Bool :=
  match k.op with
  | 1 | 2 | 4 => (shapeOf k.shape).rows % n ≠ 0
  | 3 => decide (n ≤ ctlRoot k.ctl)
  | _ => false

/-- Rows that an in-place collective on N ranks may change on rank r. -/
def Coll.changes (k : Coll) (n r row : Nat) : Bool :=
  let block := row / ((shapeOf k.shape).rows / n)
  decide (1 < n) &&
  (match k.op with
    | 0 => true
    | 1 | 4 => block ≠ r
    | 2 => block = r
    | _ => r ≠ ctlRoot k.ctl)

/-- The new value of the element at (row, col) on rank r, from the members' elements. -/
def Coll.newElem (k : Coll) (xs : List (List Nat)) (r row col : Nat) : Nat :=
  let s := shapeOf k.shape
  let per := s.rows / xs.length
  let e := row * s.cols + col
  match k.op with
  | 0 | 2 => foldRanks k.red s.fmt (xs.map (fun x => x.getD e 0))
  | 1 => (xs.getD (row / per) []).getD e 0
  | 3 => (xs.getD (ctlRoot k.ctl) []).getD e 0
  | _ => (xs.getD (row / per) []).getD ((r * per + row % per) * s.cols + col) 0

/-! ## The reel (R314 to R316) -/

/-- A row on its way: key, bucket, weight, sender, and its bytes. -/
structure ReelRow where
  key : Nat
  bucket : Nat
  weight : Nat
  sender : Nat
  index : Nat
  bytes : List Byte
  deriving DecidableEq, Repr

/-- A row put before the first whose key is not smaller. -/
def insertRow (x : ReelRow) : List ReelRow → List ReelRow
  | [] => [x]
  | y :: ys => if x.key ≤ y.key then x :: y :: ys else y :: insertRow x ys

/-- Rows sorted by key; ties keep their order. -/
def sortRows : List ReelRow → List ReelRow
  | [] => []
  | x :: xs => insertRow x (sortRows xs)

/-- The value of n bytes at an offset of a row. -/
def rowField (row : List Byte) (off n : Nat) : Nat := leNat ((row.drop off).take n)

/-- A member's rows in its INLAY order. -/
def Coll.rowsOf (k : Coll) (sender : Nat) (data : List Byte) : List ReelRow :=
  let w0 := k.words.getD 0 0
  let d := rDim w0
  let size := rROWSIZE (k.words.getD 4 0)
  (pieces size data.length data).zipIdx.map (fun p =>
    let axes := (List.range d).map (fun a => rowField p.1 (rCOFF w0 + a * rCoord w0) (rCoord w0))
    let key := curveKey (rCURVE w0) axes (rBITS w0)
    { key := key, bucket := bucketOf key d (rBITS w0), weight := if rWUNI w0 then 1 else rowField p.1 (rWOFF w0) 4,
      sender := sender, index := p.2, bytes := p.1 })

/-- The smallest bucket b with P(b) × N at least a bound, over rows sorted by key, whose weights before them are `before` (R315). -/
def splitAt (n bound : Nat) : (before at_ : Nat) → List ReelRow → Nat
  | before, at_, [] => if bound ≤ before * n then at_ else 65536
  | before, at_, x :: xs => if bound ≤ before * n then at_ else splitAt n bound (before + x.weight) (x.bucket + 1) xs

/-- SPLIT_0 to SPLIT_{N−1} (R315). -/
def splits (n : Nat) (sorted : List ReelRow) : List Nat :=
  let w := (sorted.map ReelRow.weight).sum
  (List.range n).map (fun m => splitAt n (m * w) 0 0 sorted)

/-- The member that owns a bucket: the last whose split is not above it. -/
def ownerOf (sp : List Nat) (bucket : Nat) : Nat := (sp.filter (fun b => decide (b ≤ bucket))).length - 1

/-- What the reel gives: the splits, and for each member the rows it accepts, in order, and those it refuses. -/
structure ReelOut where
  split : List Nat
  sorted : List (List ReelRow)
  accepted : List (List ReelRow)
  refused : List (List ReelRow)
  deriving DecidableEq, Repr

/-- The reel over the members' rows and capacities. -/
def reel (rows : List (List ReelRow)) (caps : List Nat) : ReelOut :=
  let n := rows.length
  let sorted := rows.map sortRows
  let all := sortRows sorted.flatten
  let sp := splits n all
  let inbox (m : Nat) : List ReelRow := all.filter (fun x => ownerOf sp x.bucket = m)
  { split := sp, sorted := sorted, accepted := (List.range n).map (fun m => (inbox m).take (caps.getD m 0)),
    refused := (List.range n).map (fun m => (inbox m).drop (caps.getD m 0)) }

/-- The rows of a sender that were refused, in its sorted order. -/
def ReelOut.residue (o : ReelOut) (r : Nat) : List ReelRow :=
  (o.sorted.getD r []).filter (fun x => (o.refused.flatten).any (fun y => y.sender = x.sender && y.index = x.index))

/-- Rows that sender r sent to member m. -/
def ReelOut.sentTo (o : ReelOut) (r m : Nat) : Nat :=
  (((o.accepted.getD m []) ++ (o.refused.getD m [])).filter (fun x => x.sender = r)).length

/-- A report entry: SPLIT and REFUSED, ACC and SENT. -/
def ReelOut.entry (o : ReelOut) (r m : Nat) : List Word :=
  [wordOf [(32, (o.refused.getD m []).length), (0, o.split.getD m 0)], wordOf [(32, o.sentTo r m), (0, (o.accepted.getD m []).length)]]

end Sys2Proof.Machine
end

