-- ==== Sys2Proof/Machine/EvFabric.lean ====
section
/-! DEFINITION. The fabric: collectives as their contexts accept and complete them, Penuf flits, and what arrives from peers and goes to
them (R298 to R316, R388 to R391). -/

namespace Sys2Proof.Machine

/-! ## Contexts (R308, R313, R388) -/

/-- Whether a collective belongs to a multicast window. -/
def Coll.windowed (k : Coll) : Bool := k.op < 5 || rMKIND (k.words.getD 0 0) = 0

/-- The key of an accepted collective's context: its window, or its local context and the member it is. -/
def collKey (ctx : List Nat) (rank : Nat) : List Nat := if ctx.headD 0 = 0 then ctx.take 2 else ctx ++ [rank]

def Coll.key (k : Coll) : List Nat := collKey k.ctx k.rank

/-- Where a collective that is handed over belongs. -/
inductive Context where
  /-- No valid translation, or a leaf that is no multicast window: the fault code. -/
  | fault (code : Nat)
  /-- A CXP outside its own member set. -/
  | outside
  | ok (ctx : List Nat) (rank : Nat)
  deriving DecidableEq, Repr

/-- The window that a handle names, in the grid's address space (R388). -/
def State.windowOf (s : State) (k : Coll) : State × Context :=
  if bits k.window 63 55 ≠ 0 then (s, .fault 1)
  else
    let d := dieOf k.core
    let s := s.readEach (s.walkReads d (s.m.groupAt k.core k.group).aspace (bits k.window 54 0))
    let x := xlat s.mem s.sys.asroot (s.die d) (s.m.groupAt k.core k.group).aspace (bits k.window 54 0)
    let s := s.setDie d x.1
    match x.2 with
    | none => (s, .fault 1)
    | some l =>
      let w := s.fab.mcwins.get Mcwin.initial l.peer
      if !(l.remote && l.mcast) then (s, .fault 2)
      else if !bitOf w.w0 63 then (s, .fault 1)
      else if w.ranks.length ≤ bits w.w0 52 44 then (s, .outside)
      else (s, .ok (0 :: l.peer :: w.ranks) (bits w.w0 52 44))

/-- The context of a collective. -/
def State.contextOf (s : State) (k : Coll) : State × Context :=
  if k.windowed then s.windowOf k
  else
    let w0 := k.words.getD 0 0
    let w4 := k.words.getD 4 0
    match cxpRank w0 w4 k.core with
    | none => (s, .outside)
    | some r => (s, .ok (rMKIND w0 :: rTAG w0 :: cxpMembers w0 w4) r)

/-- Whether the translation of a collective's window waits for a row under test (R322). -/
def State.windowWaits (s : State) (k : Coll) : Bool :=
  k.windowed && (s.walkReads (dieOf k.core) (s.m.groupAt k.core k.group).aspace (bits k.window 54 0)).any s.rowStalls

/-- The collectives of a core, in the order of their issue. -/
def Mach.collsOf (m : Mach) (core : Nat) : List Coll := m.colls.filter (fun k => k.core = core)

/-- A collective changed. -/
def Mach.setColl (m : Mach) (k : Coll) : Mach := { m with colls := m.colls.map (fun j => if j.id = k.id then k else j) }

/-! ## The end of a collective (R310, R311) -/

/-- Where its status lies; its barrier and the arrivals there. -/
def Coll.stoff (k : Coll) : Nat := if k.op < 5 then ctlStoff k.ctl else k.off + 56
def Coll.barrier (k : Coll) : Nat × Nat :=
  if k.op < 5 then (ctlBoff k.ctl, ctlIncr k.ctl) else (bits (k.words.getD 6 0) 18 0, bits (k.words.getD 6 0) 63 48)

/-- A collective that no member of this device needs any more leaves: of a local context, once every member is done. -/
def Mach.dropColls (m : Mach) (k : Coll) : Mach :=
  let mates := m.colls.filter (fun j => j.accepted && j.ctx = k.ctx && j.seq = k.seq)
  if k.windowed || !k.accepted then { m with colls := m.colls.filter (fun j => j.id ≠ k.id) }
  else if mates.length = (k.ctx.drop 2).length && mates.all Coll.done then
    { m with colls := m.colls.filter (fun j => !(j.accepted && j.ctx = k.ctx && j.seq = k.seq)) }
  else m

/-- Its writes are performed: the status, its locks, its barrier, and it is done. -/
def State.endColl (s : State) (k : Coll) (state fault nres : Nat) : State :=
  let g := s.m.groupAt k.core k.group
  let m := s.m.setCore k.core ((s.m.core k.core).engineD g k.stoff (collStatus state fault k.rank nres) s.m.now)
  let m := (m.freeLocks (fun l => l.coll = some k.id)).arriveAt k.core k.group k.barrier.1 k.barrier.2 (256 + k.id)
  let k := { k with done := true }
  { s with m := (m.setColl k).dropColls k }

/-! ## Acceptance (R308, R389) -/

/-- The team that issued it has its flag, and goes on in the next cycle. -/
def Mach.collTaken (m : Mach) (k : Coll) : Mach :=
  let x := m.core k.core
  let t := x.team k.team
  m.setCore k.core ((x.setTeam k.team { t.countDown k.flag with nextIssue := m.now + 1 }).settle k.team)

/-- Every store and matrix operation to its ranges that came before it is performed (R211, R311). -/
def Mach.collQuiet (m : Mach) (k : Coll) : Bool :=
  m.cores.all (fun p => p.2.locks.all (fun e =>
    let l := e.2
    l.coll ≠ some k.id || (!m.storeBefore p.1 l k.issued &&
      !(l.tile && (m.core p.1).testing l.start (l.stop - l.start)) &&
      !(l.tile && (m.core p.1).matConflict l.group (l.start : Nat) (l.stop : Nat) l.rw (fun op => decide (op.issued ≤ k.issued))))))

/-- The buffer of an in-place collective. -/
def Coll.buffer (m : Mach) (k : Coll) : Reach :=
  { core := k.core, group := k.group, tile := true, base := 0, limit := (m.groupAt k.core k.group).tileSize, cluster := false }

/-- Where a pointer of a CXP leads. -/
def Coll.spot (m : Mach) (k : Coll) (p : Word) : Spot :=
  (m.spotOf k.core k.group (m.teamAt k.core k.team).tid true p).getD
    ⟨false, { core := k.core, group := k.group, tile := false, base := 0, limit := 0, cluster := false }, 0⟩

/-- What a collective reads: the reach, and the offsets and sizes of its pieces, in order. -/
def Coll.source (m : Mach) (k : Coll) : Reach × List (Int × Nat) :=
  if k.op < 5 then
    let s := shapeOf k.shape
    (k.buffer m, (List.range s.rows).flatMap (fun r => (List.range s.cols).map (fun c => (s.at s.base r c, elemBytes s.fmt))))
  else
    let sp := k.spot m (k.lay.getD 0 0)
    (sp.reach, (List.range (layRows k.lay)).map (fun n => (sp.off + rowOffset k.lay n, rROWSIZE (k.words.getD 4 0))))

/-- Bytes read by the engine, or none at the first that cannot be rebuilt (R142). -/
def State.readLocal (r : Reach) : List Int → State → State × Option (List Byte)
  | [], s => (s, some [])
  | a :: as, s =>
    match s.localRead r a 1 0 with
    | .ok (s, v) =>
      let x := State.readLocal r as s
      (x.1, x.2.map (fun bs => BitVec.ofNat 8 v :: bs))
    | .error (.fault s _ _ _) => (s, none)
    | .error (.wait s _) => (s, none)

/-- The members' data as a member gives it: bytes, but the elements of a four-bit format one by one. -/
def Coll.nibbles (k : Coll) (bs : List Byte) : List Byte :=
  let s := shapeOf k.shape
  if k.op < 5 ∧ s.four then bs.zipIdx.map (fun p => BitVec.ofNat 8 (p.1.toNat / 16 ^ (p.2 % s.cols % 2) % 16)) else bs

/-- The buffer or the rows as they stand (R311). -/
def State.capture (s : State) (k : Coll) : State × Option (List Byte) :=
  let src := k.source s.m
  let x := State.readLocal src.1 (src.2.flatMap (fun p => (List.range p.2).map (fun (j : Nat) => p.1 + (j : Int)))) s
  (x.1, x.2.map k.nibbles)

/-- Whether another collective of the core must be accepted before this one in their context: an earlier one, or one of the same cycle on
a lower team place. -/
def State.mustPrecede (s : State) (k : Coll) (key : List Nat) : Bool :=
  (s.m.collsOf k.core).any (fun j => !j.accepted && j.id ≠ k.id &&
    (decide (j.issued < k.issued) || (j.issued = k.issued && decide (j.team < k.team))) &&
    (match (s.contextOf j).2 with | .ok ctx rank => collKey ctx rank = key | _ => false))

/-- The sequence number of a context's next collective, and the table with it used. -/
def Fabric.takeSeq (f : Fabric) (key : List Nat) : Nat × Fabric :=
  let n := ((f.ctxSeq.find? (fun p => p.1 = key)).map Prod.snd).getD 0
  (n, { f with ctxSeq := (key, n + 1) :: f.ctxSeq.filter (fun p => p.1 ≠ key) })

/-- COLLECTIVE_ACCEPT: the i-th collective of core c is accepted by its context, which keeps one running and sixteen waiting; one that has
no context ends at once. -/
def collectiveAccept (c i : Nat) (s : State) : Option State :=
  match (s.m.collsOf c)[i]? with
  | none => none
  | some k =>
    if k.accepted || !s.m.collQuiet k || s.windowWaits k then none
    else
      let stop (s : State) (k : Coll) (state fault : Nat) : State := { s with m := s.m.collTaken k }.endColl k state fault 0
      match s.contextOf k with
      | (s, .fault code) => some (stop s k 6 code)
      | (s, .outside) => some (stop s k 3 0)
      | (s, .ok ctx rank) =>
        let key := collKey ctx rank
        let k := { k with ctx := ctx, rank := rank }
        if s.mustPrecede k key || decide (17 ≤ (s.m.colls.filter (fun j => j.accepted && !j.done && j.key = key)).length) then none
        else match s.capture k with
          | (s, none) => some (stop s k 6 6)
          | (s, some data) =>
            let (n, fab) := s.fab.takeSeq key
            -- a window's rank is known from here on, and RUNNING shows it (R310)
            let m := (s.m.collTaken k).setCore k.core (((s.m.collTaken k).core k.core).engineD (s.m.groupAt k.core k.group) k.stoff (collStatus 0 0 rank 0) s.m.now)
            some { s with m := m.setColl { k with accepted := true, seq := n, data := data }, fab := fab }

def execCollectiveAccept (c i : Nat) (s : State) := happen (collectiveAccept c i) s

/-! ## Completion (R308 to R316) -/

/-- The collective that runs in a context: the oldest accepted one that is not done. -/
def Mach.running (m : Mach) (key : List Nat) : Option Coll :=
  (m.colls.filter (fun j => j.accepted && !j.done && j.key = key)).foldl (fun (b : Option Coll) j => match b with
    | none => some j
    | some k => if j.seq < k.seq then some j else some k) none

/-- The members' data of a local context, when all of them have joined. -/
def Mach.localMembers (m : Mach) (k : Coll) : Option (List MemberData) :=
  allSome (fun r => (m.colls.find? (fun j => j.accepted && j.ctx = k.ctx && j.seq = k.seq && j.rank = r)).map Coll.member)
    (List.range (k.ctx.drop 2).length)

/-- The rows of a buffer written with new codes. -/
def State.writeRows (s : State) (k : Coll) (rows : List (Nat × List Nat)) : State :=
  let sh := shapeOf k.shape
  let x := s.m.core k.core
  let base := (s.m.groupAt k.core k.group).tileBase
  let ps := rows.flatMap (fun p => sh.rowBytes (fun a => (x.tile.read (base + a)).toNat) p.1 p.2)
  let ps := if sh.overlaps then resolveWrites (Config.freeWinner s.free) ps else ps
  { s with m := s.m.setCore k.core (x.store true (ps.map (fun p => (base + p.1, p.2)))), free := s.free + b2n sh.overlaps }

/-- The matched in-place collectives run (R309). -/
def State.runInPlace (s : State) (k : Coll) (ms : List MemberData) : State :=
  let sh := shapeOf k.shape
  let n := ms.length
  if k.unfit n then s.endColl k 3 0 0
  else
    let xs := ms.map (fun m => elementsOf (elemBytes sh.fmt) m.data)
    let rows := ((List.range sh.rows).filter (k.changes n k.rank)).map (fun r => (r, (List.range sh.cols).map (k.newElem xs k.rank r)))
    (s.writeRows k rows).endColl k 1 0 0

/-- Doublewords written to the group's scratchpad. -/
def State.writeReport (s : State) (k : Coll) : (off : Nat) → List Word → State
  | _, [] => s
  | off, w :: ws =>
    State.writeReport { s with m := s.m.setCore k.core ((s.m.core k.core).engineD (s.m.groupAt k.core k.group) off w s.m.now) } k (off + 8) ws

/-- The matched CXPs run (R314 to R316, R391). -/
def State.runReel (s : State) (k : Coll) (ms : List MemberData) : State :=
  let o := reel (ms.zipIdx.map (fun p => k.rowsOf p.2 p.1.data)) (ms.map MemberData.dcap)
  let dest := k.spot s.m (k.words.getD 2 0)
  let resid := k.spot s.m (k.words.getD 3 0)
  let mine := o.residue k.rank
  let s := s.localWrite dest.reach dest.off ((o.accepted.getD k.rank []).flatMap ReelRow.bytes)
  let s := s.localWrite resid.reach resid.off (mine.flatMap ReelRow.bytes)
  let s := s.writeReport k (k.off + 64) ((List.range ms.length).flatMap (o.entry k.rank))
  s.endColl k (if o.refused.flatten.isEmpty then 1 else 2) 0 mine.length

/-- The matched collectives: MISMATCH unless the exchanged values agree. -/
def State.runColl (s : State) (k : Coll) (ms : List MemberData) : State :=
  if ms.any (fun m => m.params ≠ k.params) then s.endColl k 3 0 0
  else if k.op < 5 then s.runInPlace k ms
  else s.runReel k ms

/-! ## TIMEOUT and ABORTED (R310) -/

/-- A code that may be the old one or the one that the members' data give, which this device may not have: a free value. -/
def mixed (free old : Nat) : Nat := if Config.freeMixture free then (Config.peerElement free).toNat else old

/-- Bytes of a range, each old or new. -/
def State.mixBytes (s : State) (r : Reach) (off : Int) (n : Nat) : State :=
  let old (j : Nat) : Nat := ((s.m.core r.core).bytes r.tile |>.read (s.m.phys r (off + (j : Int)))).toNat
  let bs := (List.range n).map (fun j => BitVec.ofNat 8 (mixed (s.free + j) (old j)))
  { s.localWrite r off bs with free := s.free + n }

/-- Bytes of a range, each old or the one given. -/
def State.mixOwn (s : State) (r : Reach) (off : Int) (final : List Byte) : State :=
  let old (j : Nat) : Byte := (s.m.core r.core).bytes r.tile |>.read (s.m.phys r (off + (j : Int)))
  let bs := final.zipIdx.map (fun p => if Config.freeMixture (s.free + p.2) then p.1 else old p.2)
  { s.localWrite r off bs with free := s.free + final.length }

/-- The running collective ends without every member's data: a CXP's residue can hold none but its own rows, in their sorted order, and which of them
were refused is open (R316, R391). In a buffer: every element that it may change holds its old or its new value. -/
def State.endMixed (s : State) (k : Coll) (state : Nat) : State :=
  let n := (k.ctx.drop 2).length
  if k.op < 5 then
    let sh := shapeOf k.shape
    let own := elementsOf (elemBytes sh.fmt) k.data
    let bound := 2 ^ fmtBits sh.fmt
    let row (r : Nat) : List Nat := (List.range sh.cols).map (fun c =>
      let e := r * sh.cols + c
      mixed (s.free + e) (own.getD e 0) % bound)
    let rows := if k.unfit n then [] else ((List.range sh.rows).filter (k.changes n k.rank)).map (fun r => (r, row r))
    ({ s with free := s.free + sh.rows * sh.cols }.writeRows k rows).endColl k state 0 0
  else
    let size := rROWSIZE (k.words.getD 4 0)
    let dest := k.spot s.m (k.words.getD 2 0)
    let resid := k.spot s.m (k.words.getD 3 0)
    let rep : Reach := { core := k.core, group := k.group, tile := false, base := 0, limit := 0, cluster := false }
    let s := s.mixBytes dest.reach dest.off (rDCAP (k.words.getD 4 0) * size)
    let sorted := sortRows (k.rowsOf k.rank k.data)
    let refused := (sorted.zipIdx.filter (fun p => Config.freeMixture (s.free + p.2))).map Prod.fst
    let s := { s with free := s.free + sorted.length }.mixOwn resid.reach resid.off (refused.flatMap ReelRow.bytes)
    (s.mixBytes rep (k.off + 64 : Nat) (16 * n)).endColl k state 0 0

/-- ABORT written for a window: its running collective ends with ABORTED, and the field reads as 0. -/
def State.abortWindow (s : State) (w : Nat) : State :=
  match s.m.running [0, w] with
  | none => s
  | some k => s.endMixed k 5

/-- COLLECTIVE_ABORT. -/
def collectiveAbort (w port : Nat) (s : State) : Option State :=
  if s.sys.ctl port ∧ w < 256 then some (s.abortWindow w) else none

def execCollectiveAbort (w port : Nat) (s : State) := happen (collectiveAbort w port) s

/-- What the others have contributed, for a window: one entry per rank, with data of the right size where the exchanged values agree. -/
def Coll.joined (k : Coll) (ms : List MemberData) : Option (List MemberData) :=
  let n := (k.ctx.drop 2).length
  let all := (List.range n).zip ms |>.map (fun p => if p.1 = k.rank then k.member else p.2)
  let size (m : MemberData) : Bool :=
    m.params ≠ k.params || decide (m.data.length = k.data.length)
  if ms.length = n && all.all size then some all else none

/-- COLLECTIVE_COMPLETE: the i-th collective of core c, running in its context, ends once every member has joined, or when its fabric
traffic has exhausted its retries. -/
def collectiveComplete (c i : Nat) (input : CollectiveInput) (s : State) : Option State :=
  match (s.m.collsOf c)[i]? with
  | none => none
  | some k =>
    if !k.accepted || k.done || !s.m.collQuiet k || ((s.m.running k.key).map Coll.id) ≠ some k.id then none
    else if !k.windowed then (s.m.localMembers k).map (s.runColl k)
    else match input with
      | .timeout => some (s.endMixed k 4)
      | .joined ms => (k.joined ms).map (s.runColl k)

def execCollectiveComplete (c i : Nat) (input : CollectiveInput) (s : State) := happen (collectiveComplete c i input) s

/-! ## Flits (R298, R299) -/

/-- Fields of a flit's header. -/
def flitHead (flit : List Byte) : Word := BitVec.ofNat 64 (leNat (flit.take 8))

/-- Whether a flit's CRC is right. -/
def flitGood (flit : List Byte) : Bool := leNat ((flit.drop 248).take 4) = (crc32c (flit.take 248)).toNat

/-- Flits below an acknowledged number leave the replay buffer. -/
def Port.acknowledge (x : Port) (ack : Nat) : Port :=
  let gone (q : Nat) : Bool := decide (0 < (ack + 4096 - q) % 4096) && decide ((ack + 4096 - q) % 4096 ≤ 256)
  let x := { x with replay := x.replay.filter (fun q _ => !gone q) }
  Port.drain 256 (if gone x.nakSeq then { x with naks := 0 } else x)

/-- The first port that is up, from a number on. -/
def Fabric.otherPort (f : Fabric) (k : Nat) : Option Nat :=
  let up := f.upPorts
  if up.isEmpty then none else some (up.getD (k % up.length) 0)

/-- A port is taken down: what waited for it goes to the others, by the same hash of its target and address, what was on its way is lost, and its lane is
reported (R299). -/
def State.portDown (s : State) (p : Nat) (seq : Nat) : State :=
  let x := s.fab.port p
  let f := s.fab.setPort p { x with up := false, out := [], replay := [], naks := 0 }
  let f := x.out.foldl (fun (f : Fabric) q => match f.otherPort q.1 with
    | none => f
    | some o => f.setPort o (Port.drain 1 { f.port o with out := (f.port o).out ++ [q] })) f
  { s with fab := f }.detect { unit := .penufLane, number := (Config.failedLane seq).toNat, parent := p }

/-- A NAK of a flit: it is sent again, in order with those after it; the sixteenth replay in a row that fails takes the port down. -/
def State.nakked (s : State) (p seq : Nat) : State :=
  let x := s.fab.port p
  if !x.replay.has seq then s
  else
    let n := if x.nakSeq = seq then x.naks + 1 else 1
    if 17 ≤ n then s.portDown p seq else { s with fab := s.fab.setPort p { x with nakSeq := seq, naks := n, line := x.line ++ x.from_ seq } }

/-- FLIT_NAK. -/
def flitNak (p seq : Nat) (s : State) : Option State :=
  if 16 ≤ p ∨ 4096 ≤ seq ∨ !(s.fab.port p).up ∨ s.sys.pstate = 3 then none else some (s.nakked p seq)

def execFlitNak (p seq : Nat) (s : State) := happen (flitNak p seq) s

/-- FLIT_RECEIVE: a bad one is answered with a NAK of its number; a good one acknowledges, and data in sequence is taken. Each good data flit is
acknowledged at once, by an idle flit (log entry 152). -/
def flitReceive (p : Nat) (flit : List Byte) (s : State) : Option State :=
  let x := s.fab.port p
  let h := flitHead flit
  if 16 ≤ p ∨ flit.length ≠ 256 ∨ !x.up ∨ s.sys.pstate = 3 then none
  else if !flitGood flit then some { s with fab := { s.fab.setPort p { x with line := x.line ++ [flitOf 2 (bits h 55 44) x.rxSeq noPayload] } with sent := s.fab.sent ++ [.nak p (bits h 55 44)] } }
  else
    let x := x.acknowledge (bits h 43 32)
    let x := if bits h 63 56 = 1 ∧ bits h 55 44 = x.rxSeq then
        { x with received := x.received ++ [(flit.drop 8).take 240], rxSeq := (x.rxSeq + 1) % 4096 } else x
    let x := if bits h 63 56 = 1 then { x with line := x.line ++ [flitOf 0 x.txSeq x.rxSeq noPayload] } else x
    let s := { s with fab := s.fab.setPort p x }
    some (if bits h 63 56 = 2 then s.nakked p (bits h 55 44) else s)

def execFlitReceive (p : Nat) (flit : List Byte) (s : State) := happen (flitReceive p flit) s

/-! ## Peers (R301 to R303) -/

/-- REMOTE_REQUEST: an access of a peer. In the connection-cached mode it is taken in its sequence, and one already taken is dropped. MODEL'S CHOICE: the
sequence is that of the source and the ASPACE of the key's entry (log entry 150). -/
def remoteRequest (r : RemoteAccess) (s : State) : Option State :=
  if s.sys.pstate = 3 then none
  else if !r.key.getLsbD 31 then s.remoteHandle r
  else
    let aspace := bits ((s.keyEntry (r.key.toNat / 256 % 2 ^ 23)).getD 0 0) 59 56
    let expect := seqExpect s.fab.seqs r.src aspace
    if r.seq ≠ expect then none
    else (s.remoteHandle r).map (fun s => s.useSeq r.src aspace (fun x => { x with expect := x.expect + 1 }))

def execRemoteRequest (r : RemoteAccess) (s : State) := happen (remoteRequest r) s

/-- REMOTE_COMMIT: a peer's notice about its command. -/
def execRemoteCommit (r : RemoteCommit) (s : State) := happen (fun s => if s.sys.pstate = 3 then none else some (s.remoteNotice r)) s

/-- The i-th open request changed. -/
def State.setRemote (s : State) (i : Nat) (x : Remote) : State := { s with fab := { s.fab with remotes := s.fab.remotes.set i x } }

/-- REMOTE_TIMEOUT_EXPIRY: a request is sent again with its timeout doubled; after RETRIES resends its command has REMOTE_TIMEOUT. A WATCH that its
peer holds has been answered. -/
def remoteTimeoutExpiry (i : Nat) (s : State) : Option State :=
  match s.fab.remotes[i]? with
  | none => none
  | some x =>
    if x.busy ∨ x.held ∨ s.m.time < x.due then none
    else if x.tries < s.sys.retries then
      some ((s.setRemote i { x with tries := x.tries + 1, due := s.m.time + s.rtoAfter (x.tries + 1) }).transmit x.req)
    else
      let s := { s with fab := { s.fab with remotes := s.fab.remotes.eraseIdx i } }
      some (match s.cmd? x.req.core x.req.key with
        | some c => s.setCmd x.req.core x.req.key { c with remoteFault := 5 }
        | none => s)

def execRemoteTimeoutExpiry (i : Nat) (s : State) := happen (remoteTimeoutExpiry i) s

/-- BUSY_RETRY: a microsecond after BUSY the request is sent again; it counts as no resend. -/
def busyRetry (i : Nat) (s : State) : Option State :=
  match s.fab.remotes[i]? with
  | none => none
  | some x =>
    if !x.busy ∨ s.m.time < x.due then none
    else some ((s.setRemote i { x with busy := false, due := s.m.time + s.rtoAfter x.tries }).transmit x.req)

def execBusyRetry (i : Nat) (s : State) := happen (busyRetry i) s

/-- STAGING_EXPIRY: 16 ms without a commit discard what a command has staged here. -/
def stagingExpiry (i : Nat) (s : State) : Option State :=
  match s.fab.staged[i]? with
  | none => none
  | some x =>
    if s.m.time < x.at_ + sixteenMs then none
    else some { s with fab := { s.fab with staged := s.fab.staged.filter (fun y => !(y.src = x.src && y.cmd = x.cmd)) } }

def execStagingExpiry (i : Nat) (s : State) := happen (stagingExpiry i) s

end Sys2Proof.Machine
end

