-- ==== Sys2Proof/Machine/SysReg.lean ====
section
/-! DEFINITION. System registers, major 0x1E (R30, R70, R277, R371, R436, R456, R457). -/

namespace Sys2Proof.Machine

/-- Units of `time` in a nanosecond. -/
def unitsPerNs : Nat := 144403552893600

/-- DEVTIME: nanoseconds since reset (R436). -/
def Mach.devTime (m : Mach) : Word := BitVec.ofNat 64 (m.time / unitsPerNs)

/-- CAPS (R30). -/
def Mach.caps (m : Mach) : Word :=
  wordOf [(48, 1), (40, 36), (32, m.fcur), (28, 4), (24, 10), (20, 8), (16, 8), (10, 48), (5, 16), (0, 16)]

/-- The value that a system register reads as, for the current team (R371, R456). -/
def Mach.readSys (m : Mach) (r : Nat) : Word :=
  let t := m.team
  let g := m.group
  let c := m.cur.core
  match r with
  | 0 => BitVec.ofNat 64 t.tid
  | 1 => BitVec.ofNat 64 g.idx
  | 2 => BitVec.ofNat 64 g.grid
  | 3 => BitVec.ofNat 64 c
  | 4 => BitVec.ofNat 64 (clusterOf c)
  | 5 => BitVec.ofNat 64 (dieOf c)
  | 6 => BitVec.ofNat 64 t.lanes
  | 7 => BitVec.ofNat 64 g.depth
  | 8 => t.trapCause
  | 9 => t.trapPc
  | 10 => t.trapInfo
  | 11 => t.trapVec
  | 12 => t.status
  | 13 => BitVec.ofNat 64 t.allot
  | 14 => BitVec.ofNat 64 t.free
  | 15 => m.caps
  | 16 => t.mode
  | _ => 0

/-- XRD (R456); SREG 17 to 63 are unassigned. -/
def execXrd (d sr : Reg) (s : State) : Host.Outcome State Fault Refusal :=
  word (fun m => onTeam (fun t =>
    if 17 ≤ sr.toNat then illegal (.xrd d sr) else .ok (t.ws d.toNat (m.readSys sr.toNat))) m) s

/-- A system register written by its team (R457); any other but these raises PRIVILEGE. -/
def Team.writeSys (t : Team) (i : Instr) (r : Nat) (x : Word) : Except TrapReq Team :=
  match r with
  | 8 => .ok { t with trapCause := setBits (setBits t.trapCause 51 48 (bits x 51 48)) 45 32 (bits x 45 32) }
  | 9 => if clauseAddr x then .ok { t with trapPc := x, trapClause := none } else reserved i
  | 11 => if clauseAddr x then .ok { t with trapVec := x } else reserved i
  | 12 => .ok { t with status := clearFlags t.status x }
  | _ => .error ⟨cPRIVILEGE, BitVec.ofNat 64 r⟩

/-- XWR (R457). -/
def execXwr (a sr : Reg) (s : State) : Host.Outcome State Fault Refusal :=
  word (onTeam fun t =>
    if 17 ≤ sr.toNat then illegal (.xwr a sr) else t.writeSys (.xwr a sr) sr.toNat (t.rs a.toNat)) s

/-- TIME (R436): readable 4 cycles after issue. -/
def execTime (d : Reg) (s : State) : Host.Outcome State Fault Refusal :=
  word (fun m => onTeam (fun t => .ok ((t.ws d.toNat m.devTime).awaitS d.toNat (m.now + 4) .other)) m) s

end Sys2Proof.Machine
end

