-- ==== Sys2Proof/Machine/EvHost.lean ====
section
/-! DEFINITION. Hosts: memory window 2, the registers of memory window 0, multicast windows and power requests (R192, R198, R266, R272,
R273, R279, R283, R287, R289 to R297, R303, R304, R317, R319). -/

namespace Sys2Proof.Machine

/-! ## Memory window 2 (R290) -/

/-- Whether window 2 reaches device memory: after bring-up, and before the device is off. -/
def Sys.window2 (y : Sys) : Bool := y.boot = 0 && y.pstate ≠ 3

def State.output (s : State) (o : HostOut) : State := { s with sys := { s.sys with outputs := s.sys.outputs ++ [o] } }

/-- n bytes that a poisoned read leaves open. -/
def State.noBytes (s : State) (pa n : Nat) : List Byte :=
  ((List.range ((n + 7) / 8)).flatMap (fun k => leBytes (Config.noData s.free (pa + 8 * k)).toNat 8)).take n

/-- The lines of [pa, pa + n) are in their homes' caches, as for a host's read (log entry 141). -/
def State.touchRange (s : State) (pa n : Nat) : State :=
  if n = 0 then s else (List.range ((pa + n - 1) / 128 - pa / 128 + 1)).foldl (fun (s : State) k => s.touchLine (128 * (pa / 128 + k))) s

/-- Whether some sector of [pa, pa + n) lies in a row under test. -/
def State.rowsStall (s : State) (pa n : Nat) : Bool :=
  n ≠ 0 && (List.range ((pa + n - 1) / 32 - pa / 32 + 1)).any (fun k => s.rowStalls (32 * (pa / 32 + k)))

/-- A read of n bytes of device memory: the home's values, with the poisoned-data bit; zeros on a device that did not come up (R318). -/
def hostRead (pa n port : Nat) (s : State) : Option State :=
  if 2 ≤ port ∨ 2 ^ 39 < pa + n ∨ s.sys.pstate = 3 then none
  else if !s.sys.window2 then some (s.output (.readData port (List.replicate n 0) false))
  else if s.rowsStall pa n then none
  else
    let s := s.readSectors pa n
    if n ≠ 0 ∧ s.poisoned pa n then some ({ s with free := s.free + 1 }.output (.readData port (s.noBytes pa n) true))
    else some ((s.touchRange pa n).output (.readData port (s.mem.readBytes pa n) false))

def execHostRead (pa n port : Nat) (s : State) := happen (hostRead pa n port) s

/-- A write of device memory, performed at its homes whatever OWN holds. -/
def hostWrite (pa : Nat) (bytes : List Byte) (port : Nat) (s : State) : Option State :=
  if 2 ≤ port ∨ 2 ^ 39 < pa + bytes.length ∨ s.sys.pstate = 3 then none
  else if !s.sys.window2 then some s
  else some (s.storeBytes pa bytes)

def execHostWrite (pa : Nat) (bytes : List Byte) (port : Nat) (s : State) := happen (hostWrite pa bytes port) s

/-- An AtomicOp of 4 or 8 bytes: the home's read-modify-write, and the old value in the completion. Other sizes, 16-byte CAS among them,
complete with Unsupported Request. -/
def hostAtomic (pa n port : Nat) (f : Nat → Nat) (s : State) : Option State :=
  if 2 ≤ port ∨ 2 ^ 39 < pa + n ∨ s.sys.pstate = 3 then none
  else if n ≠ 4 ∧ n ≠ 8 then some (s.output (.unsupported port))
  else if pa % n ≠ 0 ∨ !s.sys.window2 ∨ s.rowsStall pa n then none
  else
  let s := s.readSectors pa n
  if s.poisoned pa n then some ({ s with free := s.free + 1 }.output (.readData port (s.noBytes pa n) true))
  else
    let old := s.mem.readN pa n
    some ((s.storeBytes pa (leBytes (f old) n)).output (.readData port (leBytes old n) false))

def execHostFetchadd (pa n : Nat) (v : Word) (port : Nat) (s : State) := happen (hostAtomic pa n port (fun x => x + v.toNat)) s
def execHostSwap (pa n : Nat) (v : Word) (port : Nat) (s : State) := happen (hostAtomic pa n port (fun _ => v.toNat)) s
def execHostCas (pa n : Nat) (cmp v : Word) (port : Nat) (s : State) :=
  happen (hostAtomic pa n port (fun x => if x = cmp.toNat % 2 ^ (8 * n) then v.toNat else x)) s

/-- A host changes its own memory, which the device reaches under host addresses (R267). -/
def State.hostStore (s : State) (pa : Nat) (bytes : List Byte) : State :=
  if (pairsAt pa bytes).all (fun p => match targetOf p.1 with | .host _ => true | _ => false) then s.storeBytes pa bytes else s

/-- A word of a scratchpad, parity banks included, or of a tile store takes a double-bit error (R141, R142). -/
def State.upset (s : State) (core : Nat) (tile : Bool) (w : Nat) : State :=
  let x := s.m.core core
  if 320 ≤ core ∨ (if tile then 131072 else 73728) ≤ w then s
  else if tile then { s with m := s.m.setCore core { x with badTile := if x.badTile.contains w then x.badTile else w :: x.badTile } }
  else { s with m := s.m.setCore core { x with badScratch := if x.badScratch.contains w then x.badScratch else w :: x.badScratch } }

/-- A sector of a stack takes an error (R197). -/
def State.sectorUpset (s : State) (h sector : Nat) (e : SectorError) : State :=
  if 8 ≤ h ∨ stackSectors ≤ sector ∨ e = .none then s else s.setHome h { s.home h with errors := (s.home h).errors.set sector e }

/-! ## The registers of memory window 0, read (R291, R292) -/

/-- L2CLS of a class on a die (R192). -/
def Die.l2cls (x : Die) (c : Nat) : Word :=
  wordOf [(32, (x.lines.filter (fun _ l => l.cls = c && l.dirty ≠ 0)).length % 2 ^ 20), (16, x.bumpCount.get 0 c), (15, b2n (x.stalled.has c)),
    (0, x.gen c)]

/-- SCRUBCTL and SCRUBSTAT (R198). -/
def Home.scrubCtl (h : Home) : Word := wordOf [(8, h.period), (4, h.thresh), (0, b2n h.enable)]
def Home.scrubStat (h : Home) (now : Nat) : Word :=
  wordOf [(62, h.levelAt now), (48, h.corr), (32, h.passes), (8, h.scrubPos / 128), (0, b2n h.poisonFlag)]

/-- SYSSTAT (R317). -/
def State.sysStat (s : State) : Word :=
  wordOf [(62, s.sys.sec), (60, s.sys.dbg), (58, s.sys.pstate), (54, s.sys.boot), (0, sumTo (fun d => (s.die d).ramp * 16 ^ d) 4)]

/-- A doubleword of a launch queue's register set (R294). -/
def LaunchQ.reg (k : LaunchQ) (i : Nat) : Word :=
  match i with
  | 0 => k.rbase
  | 1 => wordOf [(63, b2n k.enable), (62, k.ownPort), (58, k.aspace), (55, k.prio), (50, k.log2)]
  | 2 => BitVec.ofNat 64 k.tail
  | 3 => BitVec.ofNat 64 k.head
  | 4 => k.nbase
  | 5 => wordOf [(32, k.nlog2), (16, k.ntail), (0, k.nhead)]
  | _ => 0

/-- DBGCTL (R287). -/
def Core.dbgCtl (x : Core) : Word :=
  wordOf [(10, x.dbgPlace), (8, x.dbgCmd), (4, x.dbgGroup), (3, b2n x.dbgSnap), (2, b2n x.stopEng), (1, b2n x.attach)]

/-- The doubleword at an offset of memory window 0; unassigned ones read as zero. -/
def State.readReg (s : State) (d : Nat) : Word :=
  let y := s.sys
  if d = 0x0 then s.m.caps
  else if d = 0x8 then wordOf [(9, y.ctlPort), (0, y.devNum)]
  else if d = 0x36000 then s.sysStat
  else if y.boot ≠ 0 then 0
  else if 0x10000 ≤ d ∧ d < 0x11000 then (s.m.queue ((d - 0x10000) / 64)).reg (d % 64 / 8)
  else if 0x20000 ≤ d ∧ d < 0x24000 then
    let x := s.die ((d - 0x20000) / 4096)
    let o := d % 4096
    if o < 0x80 then x.l2cls (o / 8)
    else if o = 0x100 then setBits x.inv0 58 58 (b2n x.invDone)
    else if o = 0x108 then x.inv1
    else if o = 0x200 then x.replayReg
    else 0
  else if 0x30000 ≤ d ∧ d < 0x30080 then y.asroot.get 0 ((d - 0x30000) / 8)
  else if d = 0x31000 then setBits y.ho0 58 58 (b2n y.hoDone)
  else if d = 0x31008 then y.ho1
  else if d = 0x32000 then wordOf [(48, y.quantum), (22, y.nslot)]
  else if d = 0x32008 then y.pool
  else if d = 0x32010 then y.preReq.setWidth 64
  else if d = 0x33000 then y.fqBase
  else if d = 0x33008 then wordOf [(48, y.fqLog2), (24, y.fqTail), (0, y.fqHead)]
  else if d = 0x33010 then y.svc0
  else if d = 0x33018 then y.svc1
  else if 0x34000 ≤ d ∧ d < 0x34080 then
    (if d % 16 = 0 then (s.home ((d - 0x34000) / 16)).scrubCtl else (s.home ((d - 0x34000) / 16)).scrubStat s.m.time)
  else if d = 0x35000 then wordOf [(32, y.rto), (28, y.retries), (0, y.keyCnt)]
  else if d = 0x35008 then y.keyBase
  else if d = 0x35010 then y.ccSpill
  else if d = 0x36008 then BitVec.ofNat 64 y.preq
  else if 0x40000 ≤ d ∧ d < 0x42000 then
    let w := s.fab.mcwins.get Mcwin.initial ((d - 0x40000) / 32)
    (match d % 32 / 8 with | 0 => w.w0 | 1 => w.w1 | _ => 0)
  else if 0x80000 ≤ d ∧ d < 0x81400 then
    (if d % 16 = 0 then (s.m.core ((d - 0x80000) / 16)).dbgCtl else BitVec.ofNat 64 (s.m.core ((d - 0x80000) / 16)).snapSlot)
  else 0

/-- The offsets of the doublewords of window 0 that hold registers (R292). -/
def windowOffsets : List Nat :=
  let at_ (base step n : Nat) : List Nat := (List.range n).map (fun k => base + step * k)
  [0x0, 0x8] ++ at_ 0x10000 8 512 ++ (List.range 4).flatMap (fun k => at_ (0x20000 + 4096 * k) 8 16 ++ at_ (0x20100 + 4096 * k) 0x100 2 ++ [0x20108 + 4096 * k]) ++
  at_ 0x30000 8 16 ++ at_ 0x31000 8 2 ++ at_ 0x32000 8 3 ++ at_ 0x33000 8 4 ++ at_ 0x34000 8 16 ++ at_ 0x35000 8 3 ++ at_ 0x36000 8 2 ++
  at_ 0x40000 8 1024 ++ at_ 0x80000 8 640

/-- The registers of window 0 that are not zero. -/
def State.windowRegs (s : State) : List (Nat × Word) := (windowOffsets.map (fun d => (d, s.readReg d))).filter (fun p => p.2 ≠ 0)

/-- A host's read of window 0: naturally aligned, of 4 or 8 bytes; any other returns zeros. A device that is off answers none (R319). -/
def State.regRead (s : State) (off size port : Nat) : State :=
  if s.sys.pstate = 3 then s
  else
  let v := (s.readReg (off / 8 * 8)).toNat
  let bs := if (size = 4 ∨ size = 8) ∧ off % size = 0 then leBytes (v / 2 ^ (8 * (off % 8))) size else List.replicate size 0
  s.output (.readData port bs false)

/-! ## Multicast windows (R304, R310) -/

/-- Ranks of a window's table, one UINT16 each. -/
def State.rankTable (s : State) (w0 w1 : Word) : List Nat :=
  (List.range (bits w0 61 53 + 1)).map (fun k => s.mem.readN (bits w1 51 3 * 8 + 2 * k) 2)

/-- A write of a window's w0: VALID written to 1 reads the rank table; while it is 1 no other field is written; ABORT acts on the running
collective. -/
def State.mcwinWrite (s : State) (w : Nat) (v : Word) : State :=
  let x := s.fab.mcwins.get Mcwin.initial w
  let was := bitOf x.w0 63
  let now := bitOf v 63
  let w0 := if was then setBits x.w0 63 63 (b2n now) else setBits (setBits v 43 0 0) 62 62 0
  let s := if now && !was then s.readRange (bits x.w1 51 3 * 8) (2 * (bits w0 61 53 + 1)) else s
  let x := { x with w0 := w0, ranks := if now && !was then s.rankTable w0 x.w1 else x.ranks }
  let s := { s with fab := { s.fab with mcwins := s.fab.mcwins.set w x } }
  if bitOf v 62 then s.abortWindow w else s

/-- MCWIN_DEFINE. -/
def mcwinDefine (w : Nat) (v : Word) (port : Nat) (s : State) : Option State :=
  if s.sys.ctl port ∧ w < 256 ∧ bitOf v 63 then some (s.mcwinWrite w v) else none

def execMcwinDefine (w : Nat) (v : Word) (port : Nat) (s : State) := happen (mcwinDefine w v port) s

/-! ## Power requests (R319) -/

/-- A write of SYSCTL.PREQ: kept until its condition holds; 0 cancels it, or asks for P0. -/
def State.preqWrite (s : State) (v : Word) : State :=
  let p := bits v 1 0
  { s with sys := { s.sys with preq := p, preqPending := decide (p ≠ s.sys.pstate), preqAt := s.m.time } }

/-- POWER_REQUEST. -/
def powerRequest (v : Word) (port : Nat) (s : State) : Option State := if s.sys.ctl port then some (s.preqWrite v) else none

def execPowerRequest (v : Word) (port : Nat) (s : State) := happen (powerRequest v port) s

/-! ## The registers written (R291 to R297) -/

/-- A doubleword of a launch queue's set written by its owner (R294). -/
def State.queueWrite (s : State) (q i : Nat) (v : Word) : State :=
  let k := s.m.queue q
  let put (k : LaunchQ) : State := { s with m := s.m.setQueue q k }
  let ring (n old : Nat) : Nat := if 4 ≤ n ∧ n ≤ 16 then n else old
  match i with
  | 0 => if k.enable then s else put { k with rbase := keepBits v [(51, 6)] }
  | 1 =>
    let l := { k with enable := bitOf v 63, ownPort := if k.head = k.tail then bits v 62 62 else k.ownPort, prio := bits v 57 55 }
    put (if k.enable then l else { l with aspace := bits v 61 58, log2 := ring (bits v 54 50) k.log2 })
  | 2 => s.ring q (bits v 15 0)
  | 4 => if k.enable then s else put { k with nbase := keepBits v [(51, 4)] }
  | 5 => put { k with nhead := bits v 15 0, nlog2 := if k.enable then k.nlog2 else ring (bits v 36 32) k.nlog2 }
  | _ => s

/-- FQCTL's w1 (R297): LOG2SIZE, when its half is written, takes effect only while the ring is empty and clears both indices; HEAD is
written when it is an index of the ring. -/
def Sys.fqWrite (y : Sys) (v : Word) (lo hi : Bool) : Sys :=
  let n := bits v 52 48
  if hi && y.fqHead = y.fqTail && decide (6 ≤ n) && decide (n ≤ 20) then { y with fqLog2 := n, fqHead := 0, fqTail := 0 }
  else if lo && decide (bits v 19 0 < 2 ^ y.fqLog2) then { y with fqHead := bits v 19 0 }
  else y

/-- SCRUBSTAT's bits that are cleared by writing 1. -/
def Home.scrubClear (h : Home) (v : Word) : Home :=
  { h with corr := ((BitVec.ofNat 64 h.corr) &&& ~~~(BitVec.ofNat 64 (bits v 61 48))).toNat, poisonFlag := h.poisonFlag && !bitOf v 0 }

/-- A write of a core's DBGCTL (R287): the command on the team, then the snapshot. -/
def State.debugWrite (s : State) (c : Nat) (v : Word) : State :=
  let p := bits v 15 10
  let x := { s.m.core c with stopEng := bitOf v 2, attach := bitOf v 1, dbgPlace := p, dbgGroup := bits v 7 4 }
  let x := match bits v 9 8 with
    | 1 => x.haltTeam p
    | 2 => x.resumeTeam p
    | 3 => x.stepTeam p
    | _ => x
  let s := { s with m := s.m.setCore c x }
  if bitOf v 3 then s.snapGroup c (bits v 7 4) else s

/-- A doubleword of memory window 0 written through CTLPORT's function; `lo` and `hi` say which halves. MODEL'S CHOICE: a write of the reserved half alone
of PREEMPTCTL's w2, or of SYSCTL, writes no REQ or PREQ and starts nothing, which R291 leaves open (log entry 146). -/
def State.ctlWrite (s : State) (d : Nat) (v : Word) (lo hi : Bool) : State :=
  let y := s.sys
  let sys (y : Sys) : State := { s with sys := y }
  if 0x20000 ≤ d ∧ d < 0x24000 then
    let k := (d - 0x20000) / 4096
    let o := d % 4096
    if o = 0x100 then s.setDie k { s.die k with inv0 := keepBits v [(63, 60), (59, 59), (54, 16)] }
    else if o = 0x108 then tlbinvWrite k v s
    else if o = 0x200 then s.replayWrite k (keepBits v [(63, 60), (54, 16)])
    else s
  else if 0x30000 ≤ d ∧ d < 0x30080 then sys { y with asroot := y.asroot.set ((d - 0x30000) / 8) (keepBits v [(51, 16), (0, 0)]) }
  else if d = 0x31000 then sys { y with ho0 := keepBits v [(63, 63), (62, 59), (54, 16)] }
  else if d = 0x31008 then handoverWrite v s
  else if d = 0x32000 then sys { y with quantum := bits v 63 48, nslot := bits v 37 22 }
  else if d = 0x32008 then sys { y with pool := keepBits v [(51, 22)] }
  else if d = 0x32010 then (if lo then preemptWrite (bits v 31 0) s else s)
  else if d = 0x33000 then sys (if y.fqHead = y.fqTail then { y with fqBase := keepBits v [(51, 5)], fqHead := 0, fqTail := 0 } else y)
  else if d = 0x33008 then sys (y.fqWrite v lo hi)
  else if d = 0x33010 then sys { y with svc0 := keepBits v [(63, 54), (31, 0)] }
  else if d = 0x33018 then fqsvcWrite v s
  else if 0x34000 ≤ d ∧ d < 0x34080 then
    let h := (d - 0x34000) / 16
    if d % 16 = 0 then s.setHome h ({ (s.home h).settleLevel s.m.time with period := bits v 15 8, thresh := bits v 7 4, enable := bitOf v 0 }.settleLevel s.m.time)
    else s.setHome h ((s.home h).scrubClear v)
  else if d = 0x35000 then sys { y with rto := bits v 47 32, retries := bits v 31 28, keyCnt := bits v 23 0 }
  else if d = 0x35008 then sys { y with keyBase := keepBits v [(51, 5)] }
  else if d = 0x35010 then sys { y with ccSpill := keepBits v [(51, 12)] }
  else if d = 0x36008 then (if lo then s.preqWrite v else s)
  else if 0x40000 ≤ d ∧ d < 0x42000 then
    let w := (d - 0x40000) / 32
    let x := s.fab.mcwins.get Mcwin.initial w
    (match d % 32 / 8 with
      | 0 => s.mcwinWrite w v
      | 1 => if bitOf x.w0 63 then s
          else { s with fab := { s.fab with mcwins := s.fab.mcwins.set w { x with w1 := keepBits v [(51, 3)] } } }
      | _ => s)
  else if 0x80000 ≤ d ∧ d < 0x81400 ∧ d % 16 = 0 ∧ y.dbg ≠ 0 then s.debugWrite ((d - 0x80000) / 16) v
  else s

/-- DEVCFG written; a device number above 287 is not one. -/
def Sys.devcfg (y : Sys) (v : Word) : Sys :=
  { y with ctlPort := bits v 9 9, devNum := if bits v 8 0 < 288 then bits v 8 0 else y.devNum }

/-- A host's write of window 0: naturally aligned, of 4 or 8 bytes, through a function that may make it; any other is ignored. -/
def State.regWrite (s : State) (off size : Nat) (v : Word) (port : Nat) : State :=
  let d := off / 8 * 8
  let old := s.readReg d
  let lo : Bool := size = 8 || off % 8 = 0
  let hi : Bool := size = 8 || off % 8 = 4
  let new := setBits (setBits old 31 0 (if lo then bits v 31 0 else bits old 31 0)) 63 32
    (if hi then (if size = 8 then bits v 63 32 else bits v 31 0) else bits old 63 32)
  if !((size = 4 ∨ size = 8) ∧ off % size = 0) then s
  else if d = 0x8 then (if port = s.sys.ctlPort ∧ s.sys.pstate ≠ 3 then { s with sys := s.sys.devcfg new } else s)
  else if 0x10000 ≤ d ∧ d < 0x11000 then
    let q := (d - 0x10000) / 64
    if s.queueOwner q port then s.queueWrite q (d % 64 / 8) new else s
  else if 0x34000 ≤ d ∧ d < 0x34080 ∧ d % 16 = 8 then
    -- bits cleared by writing 1: a half that is not written clears nothing
    if s.sys.ctl port then s.ctlWrite d (setBits (setBits new 31 0 (if lo then bits new 31 0 else 0)) 63 32 (if hi then bits new 63 32 else 0)) lo hi
    else s
  else if s.sys.ctl port then s.ctlWrite d new lo hi
  else s

/-- REGISTER_WRITE. -/
def registerWrite (off size : Nat) (v : Word) (port : Nat) (s : State) : Option State :=
  if off < 2 ^ 24 ∧ port < 2 then some (s.regWrite off size v port) else none

def execRegisterWrite (off size : Nat) (v : Word) (port : Nat) (s : State) := happen (registerWrite off size v port) s

end Sys2Proof.Machine
end

