-- ==== Sys2Proof/Machine/EvSystem.lean ====
section
/-! DEFINITION. The life of the device outside program execution: power, errors and self-tests, bring-up, freeze, debug unlock, identity and
attestation (R143, R286, R317 to R326). -/

namespace Sys2Proof.Machine

/-! ## Power (R319, R320) -/

/-- Every die's highest ramp level changed, and its level kept at most that. -/
def State.rampCaps (s : State) (f : Nat → Nat) : State :=
  (List.range 4).foldl (fun (s : State) d =>
    let x := s.die d
    s.setDie d { x with rampCap := f x.rampCap, ramp := min x.ramp (f x.rampCap) }) s

/-- POWER_MEASURE: one step of the clock, or of the highest ramp level, per interval of 10 µs. The clock changes at the end of the cycle (R22, R31). -/
def powerMeasure (milliwatts : Nat) (s : State) : Option State :=
  if s.m.us / 10 ≤ s.m.powerUs / 10 ∨ s.sys.pstate = 3 then none
  else
    let s := { s with m := { s.m with powerUs := s.m.us } }
    if 3600000 < milliwatts then
      if 10 < s.m.fnext then some { s with m := { s.m with fnext := s.m.fnext - 1 } } else some (s.rampCaps (fun c => max 1 (c - 1)))
    else if milliwatts < 3450000 then some ({ s with m := { s.m with fnext := min 36 (s.m.fnext + 1) } }.rampCaps (fun c => min 8 (c + 1)))
    else some s

def execPowerMeasure (milliwatts : Nat) (s : State) := happen (powerMeasure milliwatts) s

/-- No group is resident or SAVED, and every queue's HEAD equals its TAIL: what R319 asks for, whatever else is live. -/
def Mach.idle (m : Mach) : Bool :=
  m.cores.all (fun p => p.2.groups.all (fun g => g.2.phase = .waitingPlaceholder || g.2.phase = .gone)) &&
  m.grids.all (fun g => g.2.saved.isEmpty) && m.queues.all (fun p => p.2.head = p.2.tail)

/-- The entry condition of a power state (R319). -/
def Mach.mayEnter (m : Mach) (p : Nat) : Bool := m.idle && (p = 1 || m.queues.all (fun q => !q.2.enable))

/-- Every line of the dies leaves them, its dirty bytes written back, with the translations: the compute dies go off. -/
def State.diesOff (s : State) : State :=
  (List.range 4).foldl (fun (s : State) d =>
    let s := (s.die d).lines.keys.foldl (fun (s : State) l => s.dropLine d l) s
    s.setDie d { s.die d with tlb := [] }) s

/-- Host memory alone: what lies outside the device. -/
def hostCells (mem : Mem) : Mem := List.filter (fun c => match targetOf c.1 with | .host _ => true | _ => false) mem

/-- Lasting failures of a core (R143, R322). -/
def Core.lasting (x : Core) : Core := { Core.empty with failedBanks := x.failedBanks, lost := x.lost }

/-- Lasting failures of a die's L2. -/
def Die.lasting (x : Die) : Die := { Die.initial with waysOff := x.waysOff, bypassed := x.bypassed }

/-- Lasting failures of a port. -/
def Port.lasting (x : Port) : Port := { Port.initial with lanes := x.lanes }

/-- A home's registers at their resets; what its memory holds stays until it is zeroed (R318). -/
def Home.kept (x : Home) : Home :=
  { Home.initial with cache := x.cache, watches := x.watches, holders := x.holders, poison := x.poison, errors := x.errors }

/-- Everything on the dies is lost but what is fused and what has failed for good: identity, SEC, degraded structures. Debug is closed and ATTESTED is
left. Device memory, with its homes' caches and tables, stands as it is. -/
def State.fresh (s : State) : State :=
  let r := State.reset
  { r with
    m := { r.m with cores := s.m.cores.map (fun _ x => x.lasting) }
    mem := s.mem
    l2 := { dies := s.l2.dies.map (fun _ x => x.lasting), homes := s.l2.homes.map (fun _ x => x.kept) }
    fab := { r.fab with ports := s.fab.ports.map (fun _ x => x.lasting) }
    sys := { r.sys with sec := min s.sys.sec 1, keys := s.sys.keys, firmware := s.sys.firmware, running := s.sys.running, degraded := s.sys.degraded,
                        outputs := s.sys.outputs }
    agenda := s.agenda
    free := s.free }

/-- Device memory zeroed, and the homes' caches, watch tables and holder directories cleared (R318). -/
def State.zeroMemory (s : State) : State :=
  { s with mem := hostCells s.mem, l2 := { s.l2 with homes := s.l2.homes.map (fun _ x => { x with cache := [], watches := [], holders := [], poison := [], errors := [] }) } }

/-! ## Self-tests (R322, R323) -/

/-- The number of a structure in R322's table. -/
def unitCode : ErrorUnit → Nat
  | .scratchBank => 1
  | .tileBank => 2
  | .l2Way => 3
  | .l2Slice => 4
  | .hbmRow => 5
  | .penufLane => 6
  | .pcieLane => 7

/-- Whether an error names a structure that exists. -/
def siteExists (e : ErrorSite) : Bool :=
  match e.unit with
  | .scratchBank => decide (e.number < 36) && decide (e.parent < 320)
  | .tileBank => decide (e.number < 32) && decide (e.parent < 320)
  | .l2Way => decide (e.number < 16) && decide (e.parent < 128)
  | .l2Slice => decide (e.number < 32) && decide (e.parent < 4)
  | .hbmRow => decide (e.parent < 8)
  | .penufLane => decide (e.number < 8) && decide (e.parent < 16)
  | .pcieLane => decide (e.number < 16) && decide (e.parent < 2)

/-- The list without the first item equal to x. -/
def dropOne {α : Type} [DecidableEq α] (x : α) : List α → List α
  | [] => []
  | y :: ys => if y = x then ys else y :: dropOne x ys

/-- The structure is in service again after its test, unless it had failed for good before; a port, once none of its lanes is under test. -/
def State.inService (s : State) (e : ErrorSite) : State :=
  match e.unit with
  | .scratchBank =>
    let x := s.m.core e.parent
    { s with m := s.m.setCore e.parent { x with testBanks := dropOne e.number x.testBanks } }
  | .tileBank =>
    let x := s.m.core e.parent
    { s with m := s.m.setCore e.parent { x with tileTests := dropOne e.number x.tileTests } }
  | .l2Way =>
    let d := e.parent / 32
    let x := s.die d
    s.setDie d { x with waysOff := dropOne (e.parent % 32, e.number) x.waysOff }
  | .l2Slice => s.setDie e.parent { s.die e.parent with bypassed := dropOne e.number (s.die e.parent).bypassed }
  | .hbmRow => s.setHome e.parent { s.home e.parent with rowTests := dropOne e.number (s.home e.parent).rowTests }
  | .penufLane =>
    if s.sys.tests.any (fun t => t.site.unit = .penufLane && t.site.parent = e.parent) then s
    else { s with fab := s.fab.setPort e.parent { s.fab.port e.parent with up := true } }
  | .pcieLane => s

/-- A team counts as terminated: it has EXITED once its clause flags are clear (R278, R286). -/
def Core.cutTeam (x : Core) (p : Nat) : Core :=
  let t := x.team p
  if t.phase = .exited then x
  else (x.setTeam p { t.dropPrefix with phase := .ending, held := none, yielding := none, nextIssue := 0 }).settle p

/-- A group on a core taken out of placement: its teams end, its commands are cancelled, and it completes as a faulted group (R286). -/
def Mach.cutGroup (m : Mach) (c : Nat) (p : Nat × Group) : Mach :=
  let g := p.2
  if g.phase ≠ .resident ∧ g.phase ≠ .draining then m
  else
    let x := (m.core c).setGroup p.1 { g with faulted := true }
    let x := (x.ownTeams p.1).foldl (fun (x : Core) t => x.cutTeam t.1) x
    let x := { x with cmds := x.cmds.map (fun _ k => if k.group = p.1 && k.cancellable then { k with cancelling := true } else k) }
    let m := (m.setCore c x).gridFault g.grid
    { m with faults := m.faults ++ [teamFault 18 c p.1 0 0 0 g.grid g.idx 0] }

/-- A core is taken out of placement, and its resident groups fault (R143). -/
def Mach.loseCore (m : Mach) (c : Nat) : Mach :=
  let x := m.core c
  x.groups.foldl (fun (m : Mach) p => m.cutGroup c p) (m.setCore c { x with lost := true })

/-- The set of a scratchpad bank; parity bank 32 + s belongs to set s (R139). -/
def bankSet (b : Nat) : Nat := if b < 32 then b / 8 else b - 32

/-- The sectors of a row. -/
def rowSectors (row : Nat) : List Nat := (List.range stackSectors).filter (fun k => Config.hbmRow k = row)

/-- A lasting failure puts the structure into its degraded mode (R322). -/
def State.degrade (s : State) (e : ErrorSite) : State :=
  match e.unit with
  | .scratchBank =>
    let x := s.m.core e.parent
    let second := x.failedBanks.any (fun b => b ≠ e.number && bankSet b = bankSet e.number)
    let m := s.m.setCore e.parent { x with failedBanks := if x.failedBanks.contains e.number then x.failedBanks else e.number :: x.failedBanks }
    { s with m := if second then m.loseCore e.parent else m }
  | .tileBank => { s with m := s.m.loseCore e.parent }
  | .l2Way =>
    let d := e.parent / 32
    let x := s.die d
    s.setDie d { x with waysOff := (e.parent % 32, e.number) :: x.waysOff }
  | .l2Slice => s.setDie e.parent { s.die e.parent with bypassed := e.number :: (s.die e.parent).bypassed }
  | .hbmRow =>
    let h := s.home e.parent
    s.setHome e.parent { h with poison := distinct (rowSectors e.number ++ h.poison), poisonFlag := true }
  | .penufLane => { s with fab := s.fab.setPort e.parent { s.fab.port e.parent with lanes := 4 }, sys := { s.sys with degraded := e :: s.sys.degraded } }
  | .pcieLane => { s with sys := { s.sys with degraded := e :: s.sys.degraded } }

/-- The error record of a test (R323). -/
def errorRecord (t : SelfTest) (lasting : Bool) : FaultRec :=
  { words := [wordOf [(56, 32), (52, unitCode t.site.unit), (50, if lasting then 2 else 1)], wordOf [(32, t.site.parent), (0, t.site.number)],
              BitVec.ofNat 64 t.count, 0], vector := 65 }

/-- ERROR_DETECTED: an error is reported, by a read that met it among others, on a device that has come up (R318). -/
def errorDetected (e : ErrorSite) (s : State) : Option State :=
  if !siteExists e ∨ s.sys.pstate = 3 ∨ s.sys.boot ≠ 0 then none
  else
    let x := s.m.core e.parent
    let s := match takeFirst (fun p : Bool × Nat => errorBank p.1 p.2 e.parent = e) x.detected with
      | some (_, rest) => { s with m := s.m.setCore e.parent { x with detected := rest } }
      | none => s
    some (s.detect e)

def execErrorDetected (e : ErrorSite) (s : State) := happen (errorDetected e) s

/-- SELF_TEST_END: the i-th test classifies its error; the structure returns to service or is degraded, and the record is posted. -/
def selfTestEnd (i : Nat) (lasting : Bool) (s : State) : Option State :=
  match if s.sys.boot = 0 then s.sys.tests[i]? else none with
  | none => none
  | some t =>
    let s := { s with sys := { s.sys with tests := s.sys.tests.eraseIdx i } }.inService t.site
    let s := if lasting then s.degrade t.site else s
    some { s with m := { s.m with faults := s.m.faults ++ [errorRecord t lasting] } }

def execSelfTestEnd (i : Nat) (lasting : Bool) (s : State) := happen (selfTestEnd i lasting) s

/-! ## Power states and bring-up (R318, R319) -/

/-- Tests under way are given up: their structures count as in service. -/
def State.endTests (s : State) : State := s.sys.tests.foldl (fun (s : State) t => s.inService t.site) s

/-- Time that the way back to P0 takes. -/
def wakeTime (p : Nat) : Nat := if p = 1 then 10 * oneUs else 200 * oneUs

/-- POWER_STATE_ENTRY: the requested state is entered once its condition holds; P0 is entered from P1 or P2 when the way back is over. MODEL'S
CHOICE: P1 is entered from P2 at once, a way for which no time is given (log entry 128). -/
def powerStateEntry (s : State) : Option State :=
  let p := s.sys.preq
  if !s.sys.preqPending ∨ s.sys.pstate = 3 ∨ p = s.sys.pstate then none
  else if p = 0 then
    if s.m.time < s.sys.preqAt + wakeTime s.sys.pstate then none
    else some { s.rampReset with sys := { s.sys with pstate := 0, preqPending := false } }
  else if !s.m.mayEnter p then none
  else if p = 3 then
    let f := s.endTests.fresh.zeroMemory
    some { f with sys := { f.sys with pstate := 3, preq := 3, dbg := s.sys.dbg } }
  else
    let s := if p = 2 then s.diesOff else s
    some { s with sys := { s.sys with pstate := p, preqPending := false } }

def execPowerStateEntry (s : State) := happen powerStateEntry s

/-- RESET: bring-up begins, and BOOT reads 3 until it is over (R318). -/
def resetDevice (boot : BootOutcome) (s : State) : State :=
  let f := s.endTests.fresh
  { f with sys := { f.sys with boot := 3, bringUp := some { boot := boot, step := 1, until_ := Config.bringUpTime 1 } } }

/-- When cluster c of die d starts, from the beginning of step 3: no two in one half of a microsecond. -/
def clusterStart (c d : Nat) : Nat := (4 * c + d) * oneUs / 2

/-- The end of a step of bring-up (R318): 1, the firmware's signature is checked; 2, memory is trained and zeroed; 3, the last cluster starts, and with
step 4 the device runs. Firmware that is refused, or memory that does not train, leaves BOOT 1 or 2. -/
def State.bringUpStep (s : State) : State :=
  match s.sys.bringUp with
  | none => s
  | some b =>
    let ended (boot : Nat) : State := { s with sys := { s.sys with boot := boot, bringUp := none } }
    let goOn (s : State) (step len : Nat) : State := { s with sys := { s.sys with bringUp := some { b with step := step, until_ := s.m.time + len } } }
    if s.m.time < b.until_ then s
    else match b.step with
      | 1 => if b.boot.signatureOk then goOn { s with sys := { s.sys with running := s.sys.firmware } } 2 (Config.bringUpTime 2) else ended 1
      | 2 => if b.boot.trainingOk then goOn s.zeroMemory 3 (clusterStart 9 3) else ended 2
      | _ => ended 0

def execResetDevice (boot : BootOutcome) (s : State) := happen (fun s => some (resetDevice boot s)) s

/-! ## The debug port, identity and attestation (R324 to R326) -/

/-- FREEZE: only with debug open. -/
def execFreeze (s : State) := happen (fun s => if s.sys.dbg = 0 then none else some { s with sys := { s.sys with frozen := true } }) s

/-- What scan read-out gives, as the debug port is open (R324). -/
def State.scan (s : State) : Scan :=
  { teams := List.flatMap (fun c : Nat × Core => List.map (fun p : Nat × Team => (c.1, p.1, p.2.saved (s.headerAt (c.2.group p.2.group).aspace))) c.2.teams)
      s.m.cores
    scratch := List.map (fun c : Nat × Core => (c.1, c.2.scratch)) s.m.cores
    tile := List.map (fun c : Nat × Core => (c.1, c.2.tile)) s.m.cores
    accs := List.map (fun c : Nat × Core => (c.1, c.2.accs)) s.m.cores
    lines := List.map (fun d : Nat × Die => (d.1, d.2.lines)) s.l2.dies
    mem := List.filter (fun c => inDevice c.1) s.mem
    regs := s.windowRegs
    keys := 0
    internal := if s.sys.dbg = 2 then some (Config.scanState s.free) else none }

/-- Scan read-out after a freeze, which only an open debug port makes. -/
def State.scanRead (s : State) : State := if s.sys.frozen then { s with free := s.free + 1 }.output (.scan s.scan) else s

/-- ATTESTED drops back to LOCKED. -/
def Sys.unattest (y : Sys) : Sys := { y with sec := min y.sec 1 }

/-- SIGNED_UNLOCK: the owner's key gives OWNER-OPEN on a provisioned device, the vendor key VENDOR-OPEN. -/
def signedUnlock (key : SigningKey) (s : State) : Option State :=
  match key with
  | .owner => if s.sys.sec = 0 then none else some { s with sys := { s.sys.unattest with dbg := 1 } }
  | .vendor => some { s with sys := { s.sys.unattest with dbg := 2 } }
  | .other => none

def execSignedUnlock (key : SigningKey) (s : State) := happen (signedUnlock key) s

/-- PROVISIONING_COMMAND: the vendor's makes the identity key and locks the device for good. -/
def provisioningCommand (key : SigningKey) (s : State) : Option State :=
  if key = .vendor ∧ s.sys.sec = 0 then some { s with sys := { s.sys with sec := 1, keys := s.sys.keys + 1 } } else none

def execProvisioningCommand (key : SigningKey) (s : State) := happen (provisioningCommand key) s

/-- A report's contents as one number, first field highest. -/
def reportContents (nonce : BitVec 256) (firmware identity : BitVec 512) (sec dbg rev : Nat) : Nat :=
  (((nonce.toNat * 2 ^ 512 + firmware.toNat) * 2 ^ 512 + identity.toNat) * 256 + 16 * sec + dbg) * 256 + rev

/-- The report that the device makes on a nonce (R325). -/
def State.makeReport (s : State) (nonce : BitVec 256) : Report :=
  let fw := Config.firmwareHash s.sys.running
  let id := Config.identityHash s.sys.keys
  let rev := bits s.m.caps 55 48
  { nonce := nonce, firmware := fw, identity := id, sec := s.sys.sec, dbg := s.sys.dbg, rev := rev,
    signature := Config.signReport (reportContents nonce fw id s.sys.sec s.sys.dbg rev) }

/-- ATTESTATION_REPORT: a LOCKED device with debug closed is ATTESTED when it returns a report. -/
def attestationReport (nonce : BitVec 256) (s : State) : Option State :=
  if s.sys.sec = 0 ∨ s.sys.boot ≠ 0 ∨ s.sys.pstate = 3 then none
  else
    let s' := s.output (.report (s.makeReport nonce))
    some (if s.sys.dbg = 0 then { s' with sys := { s'.sys with sec := 2 } } else s')

def execAttestationReport (nonce : BitVec 256) (s : State) := happen (attestationReport nonce) s

/-- FIRMWARE_UPDATE: a new image, which runs once a bring-up has checked it (R318, R325). -/
def execFirmwareUpdate (s : State) := happen (fun s => some { s with sys := { s.sys.unattest with firmware := s.sys.firmware + 1 } }) s

end Sys2Proof.Machine
end

