-- ==== Sys2Proof/Machine/Atom.lean ====
section
/-! DEFINITION. ATOM, major 0x14 (R209, R367, R373 to R375). -/

namespace Sys2Proof.Machine

/-- The operations of ATOM, and of the home's atomic unit where the codes agree, on n-bit elements (R374). -/
def atomResult (op n : Nat) (sgn : Bool) (x v cmp : Nat) : Nat :=
  let less (a b : Nat) : Bool := if sgn then decide (signed a n < signed b n) else decide (a < b)
  match op with
  | 0 => (x + v) % 2 ^ n
  | 1 => if less v x then v else x
  | 2 => if less x v then v else x
  | 3 => x &&& v
  | 4 => x ||| v
  | 5 => x ^^^ v
  | 6 => v
  | _ => if x = cmp then v else x

/-- The lanes of an ATOM in order, over a core's memory: the memory after them and the old value of each. -/
def atomLanes (op n : Nat) (sgn : Bool) (val cmp : Nat → Nat) : List (Nat × Nat) → Mem → Mem × List (Nat × Nat)
  | [], mem => (mem, [])
  | (i, a) :: ls, mem =>
    let x := mem.readN a n
    let y := atomResult op (8 * n) sgn x (val i) (cmp i)
    let r := atomLanes op n sgn val cmp ls (mem.writeN a n y)
    (r.1, (i, x) :: r.2)

/-- One round of an ATOM: the lanes left over, the banks of its reads and those of its writes (R375), beside those taken already in these two
cycles; `r` lists the rows of this round alone. A lane of a failed bank is read from the rest of its set, which serves no other lane in that round
(R143). -/
def atomRound (tile : Bool) (failed : Nat) : List Nat → BankUse → BankUse → List Nat × BankUse × BankUse
  | [], r, w => ([], r, w)
  | a :: as, r, w =>
    let b := bankBit (a % 32)
    let s := a % 32 / 8
    let row := a / 32
    let skip := let q := atomRound tile failed as r w; (a :: q.1, q.2)
    if tile then
      if apart r.tile b && apart w.tile b then atomRound tile failed as { r with tile := r.tile ||| b } { w with tile := w.tile ||| b } else skip
    else
      let need := if apart failed b then b else rebuildBanks (a % 32)
      let p := bankBit (32 + s)
      let data := apart w.banks b || !apart failed b
      let parity := apart w.banks p || !apart failed p || w.rows.get (row + 1) s = row
      if apart r.banks (need ||| b) && r.rows.get row s = row && data && parity then
        atomRound tile failed as { r with banks := r.banks ||| need, rows := r.rows.set s row }
          { w with banks := w.banks ||| (if apart failed b then b else 0) ||| (if apart failed p then p else 0), rows := w.rows.set s row }
      else skip

/-- The banks that an ATOM over the words of its lanes takes: two cycles for each round, beside those taken already in these cycles. -/
def atomPlan (tile : Bool) (failed : Nat) : (fuel : Nat) → (busy : List BankUse) → List Nat → List BankUse
  | 0, _, _ => []
  | _, _, [] => []
  | n + 1, busy, ws =>
    let q := atomRound tile failed ws { busy.headD BankUse.idle with rows := [] } (busy.tail.headD BankUse.idle)
    q.2.1 :: q.2.2 :: atomPlan tile failed n (busy.drop 2) q.1

/-- Those of an ATOM on physical offsets: one round at least. -/
def Core.atomBanks (x : Core) (tile : Bool) (busy : List BankUse) (phys : List Nat) : List BankUse :=
  match atomPlan tile (failedSet x) (phys.length + busy.length) busy (phys.map (· / 8)) with
  | [] => [BankUse.idle, BankUse.idle]
  | us => us

/-- Runs(x): LANES for an A register (R374). -/
def VReg.runCount (v : VReg) (lanes : Nat) : Nat := v.nruns lanes

/-- ATOM after its decode checks (R374). -/
def Mach.atom (m : Mach) (d : Nat) (ptr : Word) (b : Option VReg) (op n : Nat) (sgn fb : Bool) : Except TrapReq (Mach × Team) :=
  let t := m.team
  let em := t.emGuard
  match m.reachPtr ptr with
  | .error r => .error r
  | .ok r =>
    let lanes := maskLanes em t.lanes
    let offs := laneOffs (ptrOff ptr : Nat) b lanes
    match m.checkLocal r offs n true with
    | .error e => .error e
    | .ok () =>
      let w := decide (n = 8)
      let vd := t.rv d
      let bound := (if w then 2 else 1) * min t.lanes (lanes.length + vd.runCount t.lanes + em.length)
      let avail := t.free + vd.cost
      if avail < bound then .error ⟨cRUN_OVERFLOW, overflowInfo bound avail t.repStep 0 d⟩
      else
        let x := m.core r.core
        match offs.find? (fun o => x.uncorrectable r.tile (m.phys r o / 8)) with
        | some o => .error ⟨cECC, eccInfo r.tile (r.rel o)⟩
        | none =>
          let bits := 8 * n
          let val (i : Nat) : Nat := (vd.lane bits i).toNat
          let cmp (i : Nat) : Nat := ((t.rv (d + 1)).lane bits i).toNat
          let phys := offs.map (m.phys r)
          let (mem, olds) := atomLanes op n sgn val cmp (lanes.zip phys) (x.bytes r.tile)
          let banks := x.atomBanks r.tile (x.busyFor r) phys
          let x := if r.tile then { x with tile := mem } else { x with scratch := mem }
          let x := phys.foldl (fun x a => x.scrubWord r.tile (a / 8)) x
          let f := t.flagOf fb
          let new : VReg := if lanes.isEmpty then vd
            else loadedReg vd t.lanes w em (fun i => Tab.get 0 olds i)
          let t' := { t with v := t.v.set d new }
          .ok ((m.setCore r.core ((x.takeUnit r m.now banks).noteWords r.tile (phys.map (fun a => (a, 0))))).noteErrors m r.core r.tile phys,
            t'.awaitLoad .vector d f m.now (m.now + r.latency + banks.length - 2) banks.length)

/-- ATOM (R373). -/
def execAtom (d a b : Reg) (o : BitVec 4) (w sgn v f : Bool) (s : State) : Host.Outcome State Fault Refusal :=
  word (fun m =>
    let i : Instr := .atom d a b o w sgn v f
    let t := m.team
    let regs := [d.toNat] ++ (if v then [b.toNat] else []) ++ (if o.toNat = 7 then [d.toNat + 1] else [])
    if 8 ≤ o.toNat then m.trap ⟨cILLEGAL, infoWord ((encode i).getD 0)⟩
    else if !t.vecOk regs || (sgn && o.toNat ≠ 1 && o.toNat ≠ 2) || (!v && b ≠ 0) then
      m.trap ⟨cRESERVED, infoWord ((encode i).getD 0)⟩
    else
      let p := t.rs a.toNat
      let vb := if v then some (t.rv b.toNat) else none
      match m.atom d.toNat p vb o.toNat (if w then 8 else 4) sgn f with
      | .error e => (match m.reachPtr p with
        | .ok r => m.trapRead e r (laneOffs (ptrOff p : Nat) vb (maskLanes t.emGuard t.lanes))
        | .error _ => m.trap e)
      | .ok (m', t') => m'.setTeam t'.retire) s

/-- ATOM's wait for the store queue, and for the cluster window also for every acknowledgement (R209). -/
def Team.atomReady (t : Team) (a : Reg) : Bool :=
  t.storeQ.isEmpty && (ptrWin (t.rs a.toNat) ≠ 0xA || t.flight.isEmpty)

end Sys2Proof.Machine
end

