-- ==== Sys2Proof/Machine/Cross.lean ====
section
/-! DEFINITION. Reductions, scans, permutations and curve keys, major 0x0D (R86 to R88, R452, R453, R455). -/

namespace Sys2Proof.Machine

/-! ## VRED and VSCAN -/

/-- The pattern that a reduction starts from (R87). OP: 0 sum, 1 min, 2 max, 3 and, 4 or, 5 xor. -/
def redIdentity (e op : Nat) : Nat :=
  let n := fmtBits e
  match op with
  | 0 => if fmtInt e then 0 else signBit e true
  | 1 => if fmtInt e then intBits e false (intMax e) else infBits e false
  | 2 => if fmtInt e then intBits e false (intMin e) else infBits e true
  | 3 => 2 ^ n - 1
  | _ => 0

/-- An exact value times a count of lanes. -/
def FVal.times (v : FVal) (c : Nat) : FVal :=
  match v with | .fin neg m e => .fin neg (m * c) e | v => v

/-- The rounding of VRED and VSCAN: DITH gives RNE (R112). -/
def redMode (t : Team) : RMode := if t.round = 5 then .rne else rmode t.round 0 0 0

/-- The accumulator after c lanes of value v: pattern and flags (R87, R88). -/
def redStep (t : Team) (op acc v c : Nat) : Nat × Nat :=
  let e := t.etype
  let n := fmtBits e
  match op with
  | 0 =>
    if fmtInt e then ((acc + v * c) % 2 ^ n, 0)
    else finishF e (redMode t) t.flush (addF (redMode t) (decodeF e acc) ((operandF e t.flush v).times c))
  | 1 => if fmtInt e then (VBin.min.int e false acc v, 0) else minmaxF e t.flush false acc v
  | 2 => if fmtInt e then (VBin.max.int e false acc v, 0) else minmaxF e t.flush true acc v
  | 3 => (acc &&& v, 0)
  | 4 => (acc ||| v, 0)
  | _ => (acc ^^^ v, 0)

/-- The accumulator over computed segments in order, and the flags of each with its first lane. -/
def redOver (t : Team) (op : Nat) (x : Nat → Nat) : List Seg → Nat → Nat × List (Nat × Nat)
  | [], acc => (acc, [])
  | s :: ss, acc =>
    if s.on then
      let r := redStep t op acc (x s.lo) (s.hi - s.lo)
      let q := redOver t op x ss r.1
      (q.1, (s.lo, r.2) :: q.2)
    else redOver t op x ss acc

/-- Whether an OP of VRED and VSCAN is refused on a type: the bitwise ones need an integer type (R453). -/
def redRefused (t : Team) (op : Nat) : Bool := 3 ≤ op && !fmtInt t.etype

/-- VRED (R87, R453): U on every lane, whatever em holds. -/
def execVred (d a : Reg) (o : BitVec 3) (s : State) : Host.Outcome State Fault Refusal :=
  word (onVector fun t =>
    let i : Instr := .vred d a o
    if 6 ≤ o.toNat then illegal i
    else if !t.vecOk [d.toNat, a.toNat] || redRefused t o.toNat then reserved i
    else
      let n := t.width
      let x := t.rv a.toNat
      let r := redOver t o.toNat (fun i => (x.lane n i).toNat) (segments t.em [x.ends t.lanes] []) (redIdentity t.etype o.toNat)
      match fpTrap t.trapEn t.repStep r.2 with
      | some q => .error q
      | none =>
        match t.putV d.toNat { w := n = 64, shape := .u (BitVec.ofNat 64 r.1) } with
        | .error q => .error q
        | .ok t => .ok { team := t, passes := passCount r.2.length (segsPerPass (n = 64)), flags := orFlags (r.2.map Prod.snd),
                         cls := .vector, num := d.toNat }) s

/-- The prefixes of the lanes of a segment: lane lo + j gets the accumulator after j + 1 lanes. Values of the c lanes from j on, with the
flags of all of them. -/
def scanLanes (t : Team) (op acc v lo : Nat) : (c j : Nat) → List Run × Nat
  | 0, _ => ([], 0)
  | c + 1, j =>
    let r := redStep t op acc v (j + 1)
    let q := scanLanes t op acc v lo c (j + 1)
    (⟨BitVec.ofNat 64 r.1, lo + j + 1⟩ :: q.1, r.2 ||| q.2)

/-- The lanes of a scan, in order, with the flags of each computed segment. -/
def scanOver (t : Team) (op : Nat) (x : Nat → Nat) (old : Nat → Word) : List Seg → Nat → List Run × List (Nat × Nat)
  | [], _ => ([], [])
  | s :: ss, acc =>
    if s.on then
      let v := x s.lo
      let ls := scanLanes t op acc v s.lo (s.hi - s.lo) 0
      let q := scanOver t op x old ss (redStep t op acc v (s.hi - s.lo)).1
      (ls.1 ++ q.1, (s.lo, ls.2) :: q.2)
    else
      let q := scanOver t op x old ss acc
      (⟨old s.lo, s.hi⟩ :: q.1, q.2)

/-- VSCAN (R88, R453). -/
def execVscan (d a : Reg) (o : BitVec 3) (s : State) : Host.Outcome State Fault Refusal :=
  word (onVector fun t =>
    let i : Instr := .vscan d a o
    if 6 ≤ o.toNat then illegal i
    else if !t.vecOk [d.toNat, a.toNat] || redRefused t o.toNat then reserved i
    else
      let n := t.width
      let w := decide (n = 64)
      let x := t.rv a.toNat
      let old := t.rv d.toNat
      let r := scanOver t o.toNat (fun i => (x.lane n i).toNat) (old.lane (if w then 64 else 32))
        (segments t.em [x.ends t.lanes] (old.ends t.lanes)) (redIdentity t.etype o.toNat)
      let runs := mergeRuns r.1
      match fpTrap t.trapEn t.repStep r.2 with
      | some q => .error q
      | none =>
        match t.putV d.toNat (canonical w runs) with
        | .error q => .error q
        | .ok t => .ok { team := t, passes := passCount runs.length 32, flags := orFlags (r.2.map Prod.snd),
                         cls := .vector, num := d.toNat }) s

/-! ## VPERM and VROT (R452) -/

/-- VPERM. -/
def execVperm (d a b : Reg) (s : State) : Host.Outcome State Fault Refusal :=
  word (onVector fun t =>
    if !t.vecOk [d.toNat, a.toNat, b.toNat] then reserved (.vperm d a b)
    else
      let n := t.width
      let x := t.rv a.toNat
      let y := t.rv b.toNat
      elementWise t d.toNat t.em [y.ends t.lanes] (segsPerPass (n = 64)) (n = 64)
        (fun i => ((x.lane n ((y.lane 32 i).toNat % t.lanes)).toNat, 0))) s

/-- A number put into a rising list, once. -/
def insertEnd (e : Nat) : List Nat → List Nat
  | [] => [e]
  | x :: xs => if e < x then e :: x :: xs else if e = x then x :: xs else x :: insertEnd e xs

/-- The bounds that a rotation by r of a register with the given ends has: each end moved, LANES − r, and LANES. -/
def rotEnds (lanes r : Nat) (ends : List Nat) : List Nat :=
  let moved := (ends.map (fun e => (e + lanes - r) % lanes)).filter (· ≠ 0)
  (moved ++ (if r ≠ 0 then [lanes - r] else []) ++ [lanes]).foldl (fun l e => insertEnd e l) []

/-- VROT. -/
def execVrot (d a b : Reg) (s : State) : Host.Outcome State Fault Refusal :=
  word (onVector fun t =>
    if !t.vecOk [d.toNat, a.toNat] then reserved (.vrot d a b)
    else
      let n := t.width
      let x := t.rv a.toNat
      let r := (t.rs b.toNat).toNat % t.lanes
      elementWise t d.toNat t.em [rotEnds t.lanes r (x.ends t.lanes)] (segsPerPass (n = 64)) (n = 64)
        (fun i => ((x.lane n ((i + r) % t.lanes)).toNat, 0))) s

/-! ## VSFC (R455) -/

/-- VSFC: keys are UINT64 patterns; MODE.ETYPE is ignored. -/
def execVsfc (d a b : Reg) (h e : Bool) (s : State) : Host.Outcome State Fault Refusal :=
  word (onVector fun t =>
    let axes := (List.range (if e then 3 else 2)).map (a.toNat + ·)
    let n := (t.rs b.toNat).toNat
    if !t.vecOk (d.toNat :: axes) || n = 0 || 21 < n then reserved (.vsfc d a b h e)
    else
      elementWise t d.toNat t.em (axes.map (fun r => (t.rv r).ends t.lanes)) 16 true
        (fun i => (curveKey h (axes.map (fun r => ((t.rv r).lane 32 i).toNat)) n, 0))) s

end Sys2Proof.Machine
end

