-- ==== Sys2Proof/Machine/Mask.lean ====
section
/-! DEFINITION. Mask instructions, major 0x0E (R83 to R86, R409, R410). -/

namespace Sys2Proof.Machine

/-- A mask field above 15 is refused (R327). -/
def maskOk (rs : List Nat) : Bool := rs.all (· < 16)

/-- A binary mask instruction: every lane is computed (R84). -/
def maskBin (f : Bool → Bool → Bool) (i : Instr) (d a b : Reg) (s : State) : Host.Outcome State Fault Refusal :=
  word (onVector fun t =>
    if !maskOk [d.toNat, a.toNat, b.toNat] then reserved i
    else
      let x := t.rm a.toNat
      let y := t.rm b.toNat
      maskOut t d.toNat (maskOp f x y) (unionEnds (maskEnds x) (maskEnds y)).length 0) s

def execMand (d a b : Reg) (s : State) := maskBin and (.mand d a b) d a b s
def execMor (d a b : Reg) (s : State) := maskBin or (.mor d a b) d a b s
def execMxor (d a b : Reg) (s : State) := maskBin (· != ·) (.mxor d a b) d a b s
def execMandn (d a b : Reg) (s : State) := maskBin (fun x y => x && !y) (.mandn d a b) d a b s

/-- A unary mask instruction. -/
def maskUn (f : List MRun → List MRun) (i : Instr) (d a : Reg) (s : State) : Host.Outcome State Fault Refusal :=
  word (onVector fun t =>
    if !maskOk [d.toNat, a.toNat] then reserved i
    else maskOut t d.toNat (f (t.rm a.toNat)) (t.rm a.toNat).length 0) s

def execMnot (d a : Reg) (s : State) := maskUn maskNot (.mnot d a) d a s
def execMmov (d a : Reg) (s : State) := maskUn (fun x => x) (.mmov d a) d a s

/-- A mask instruction with a scalar result, after as many passes over its operand (R409). -/
def maskScalar (f : Team → List MRun → Nat) (i : Instr) (d a : Reg) (s : State) : Host.Outcome State Fault Refusal :=
  word (onVector fun t =>
    if !maskOk [a.toNat] then reserved i
    else
      let x := t.rm a.toNat
      .ok (scalarOut t d.toNat (BitVec.ofNat 64 (f t x)) (passCount x.length 32))) s

/-- MCNT (R86). -/
def execMcnt (d a : Reg) (s : State) := maskScalar (fun _ x => maskCount 0 x) (.mcnt d a) d a s
/-- MFIRST (R86). -/
def execMfirst (d a : Reg) (s : State) := maskScalar (fun t x => maskFirst t.lanes 0 x) (.mfirst d a) d a s

/-- MSET (R409). -/
def execMset (d a b : Reg) (s : State) : Host.Outcome State Fault Refusal :=
  word (onVector fun t =>
    if !maskOk [d.toNat] then reserved (.mset d a b)
    else
      let f := min (t.rs a.toNat).toNat t.lanes
      let e := min (t.rs b.toNat).toNat t.lanes
      let r := maskRange t.lanes f e
      maskOut t d.toNat r r.length 0) s

end Sys2Proof.Machine
end

