-- ==== Sys2Proof/Machine/Dispatch.lean ====
section
/-! DEFINITION. The meaning of every instruction and event of the opcode table, one arm each. -/

namespace Sys2Proof.Machine

def exec (i : Instr) (s : State) : Host.Outcome State Fault Refusal :=
  match i with
  | .nop => Sys2Proof.Machine.execNop s
  | .bra off => Sys2Proof.Machine.execBra off s
  | .call off => Sys2Proof.Machine.execCall off s
  | .jmpi a => Sys2Proof.Machine.execJmpi a s
  | .ret => Sys2Proof.Machine.execRet s
  | .join => Sys2Proof.Machine.execJoin s
  | .exit => Sys2Proof.Machine.execExit s
  | .yield => Sys2Proof.Machine.execYield s
  | .halt => Sys2Proof.Machine.execHalt s
  | .eret => Sys2Proof.Machine.execEret s
  | .trap a c => Sys2Proof.Machine.execTrap a c s
  | .bkpt c => Sys2Proof.Machine.execBkpt c s
  | .sysc c => Sys2Proof.Machine.execSysc c s
  | .brd k off => Sys2Proof.Machine.execBrd k off s
  | .mode e v => Sys2Proof.Machine.execMode e v s
  | .modeReg e sel => Sys2Proof.Machine.execModeReg e sel s
  | .rep p d a b n => Sys2Proof.Machine.execRep p d a b n s
  | .imm v => Sys2Proof.Machine.execImm v s
  | .hdr w a b l => Sys2Proof.Machine.execHdr w a b l s
  | .sadd d a b => Sys2Proof.Machine.execSadd d a b s
  | .ssub d a b => Sys2Proof.Machine.execSsub d a b s
  | .smul d a b => Sys2Proof.Machine.execSmul d a b s
  | .smulh d a b => Sys2Proof.Machine.execSmulh d a b s
  | .smulhu d a b => Sys2Proof.Machine.execSmulhu d a b s
  | .sdiv d a b u => Sys2Proof.Machine.execSdiv d a b u s
  | .srem d a b u => Sys2Proof.Machine.execSrem d a b u s
  | .sand d a b => Sys2Proof.Machine.execSand d a b s
  | .sor d a b => Sys2Proof.Machine.execSor d a b s
  | .sxor d a b => Sys2Proof.Machine.execSxor d a b s
  | .sshl d a b => Sys2Proof.Machine.execSshl d a b s
  | .sshr d a b => Sys2Proof.Machine.execSshr d a b s
  | .ssra d a b => Sys2Proof.Machine.execSsra d a b s
  | .smin d a b u => Sys2Proof.Machine.execSmin d a b u s
  | .smax d a b u => Sys2Proof.Machine.execSmax d a b u s
  | .smov d a => Sys2Proof.Machine.execSmov d a s
  | .sbfx d a b u => Sys2Proof.Machine.execSbfx d a b u s
  | .sbfi d a b => Sys2Proof.Machine.execSbfi d a b s
  | .sclz d a => Sys2Proof.Machine.execSclz d a s
  | .spop d a => Sys2Proof.Machine.execSpop d a s
  | .saddImm d off => Sys2Proof.Machine.execSaddImm d off s
  | .ssubImm d off => Sys2Proof.Machine.execSsubImm d off s
  | .smulImm d off => Sys2Proof.Machine.execSmulImm d off s
  | .sandImm d off => Sys2Proof.Machine.execSandImm d off s
  | .sorImm d off => Sys2Proof.Machine.execSorImm d off s
  | .sxorImm d off => Sys2Proof.Machine.execSxorImm d off s
  | .sshlImm d off => Sys2Proof.Machine.execSshlImm d off s
  | .sshrImm d off => Sys2Proof.Machine.execSshrImm d off s
  | .ssraImm d off => Sys2Proof.Machine.execSsraImm d off s
  | .sminImm d u off => Sys2Proof.Machine.execSminImm d u off s
  | .smaxImm d u off => Sys2Proof.Machine.execSmaxImm d u off s
  | .smovImm d off => Sys2Proof.Machine.execSmovImm d off s
  | .sli d off => Sys2Proof.Machine.execSli d off s
  | .scmp d a b u r => Sys2Proof.Machine.execScmp d a b u r s
  | .ssel d a b c => Sys2Proof.Machine.execSsel d a b c s
  | .vadd d a b => Sys2Proof.Machine.execVadd d a b s
  | .vsub d a b => Sys2Proof.Machine.execVsub d a b s
  | .vmul d a b => Sys2Proof.Machine.execVmul d a b s
  | .vmulh d a b => Sys2Proof.Machine.execVmulh d a b s
  | .vmin d a b => Sys2Proof.Machine.execVmin d a b s
  | .vmax d a b => Sys2Proof.Machine.execVmax d a b s
  | .vand d a b => Sys2Proof.Machine.execVand d a b s
  | .vor d a b => Sys2Proof.Machine.execVor d a b s
  | .vxor d a b => Sys2Proof.Machine.execVxor d a b s
  | .vshl d a b => Sys2Proof.Machine.execVshl d a b s
  | .vshr d a b => Sys2Proof.Machine.execVshr d a b s
  | .vabs d a => Sys2Proof.Machine.execVabs d a s
  | .vneg d a => Sys2Proof.Machine.execVneg d a s
  | .vnot d a => Sys2Proof.Machine.execVnot d a s
  | .vmov d a => Sys2Proof.Machine.execVmov d a s
  | .vclz d a => Sys2Proof.Machine.execVclz d a s
  | .vpop d a => Sys2Proof.Machine.execVpop d a s
  | .viota d => Sys2Proof.Machine.execViota d s
  | .vbcast d a b => Sys2Proof.Machine.execVbcast d a b s
  | .vcvt d a t sel => Sys2Proof.Machine.execVcvt d a t sel s
  | .vsel d a b k => Sys2Proof.Machine.execVsel d a b k s
  | .vaddScalar d a b => Sys2Proof.Machine.execVaddScalar d a b s
  | .vsubScalar d a b => Sys2Proof.Machine.execVsubScalar d a b s
  | .vmulScalar d a b => Sys2Proof.Machine.execVmulScalar d a b s
  | .vmulhScalar d a b => Sys2Proof.Machine.execVmulhScalar d a b s
  | .vminScalar d a b => Sys2Proof.Machine.execVminScalar d a b s
  | .vmaxScalar d a b => Sys2Proof.Machine.execVmaxScalar d a b s
  | .vandScalar d a b => Sys2Proof.Machine.execVandScalar d a b s
  | .vorScalar d a b => Sys2Proof.Machine.execVorScalar d a b s
  | .vxorScalar d a b => Sys2Proof.Machine.execVxorScalar d a b s
  | .vshlScalar d a b => Sys2Proof.Machine.execVshlScalar d a b s
  | .vshrScalar d a b => Sys2Proof.Machine.execVshrScalar d a b s
  | .vmovScalar d a => Sys2Proof.Machine.execVmovScalar d a s
  | .vselScalar d a b k => Sys2Proof.Machine.execVselScalar d a b k s
  | .vfma d a b c p n => Sys2Proof.Machine.execVfma d a b c p n s
  | .vrcp d a f => Sys2Proof.Machine.execVrcp d a f s
  | .vrsq d a f => Sys2Proof.Machine.execVrsq d a f s
  | .vsqrt d a f => Sys2Proof.Machine.execVsqrt d a f s
  | .vdiv d a b f => Sys2Proof.Machine.execVdiv d a b f s
  | .vexp2 d a f => Sys2Proof.Machine.execVexp2 d a f s
  | .vlog2 d a f => Sys2Proof.Machine.execVlog2 d a f s
  | .vsin d a f => Sys2Proof.Machine.execVsin d a f s
  | .vcos d a f => Sys2Proof.Machine.execVcos d a f s
  | .vcoal d => Sys2Proof.Machine.execVcoal d s
  | .vinfo d a => Sys2Proof.Machine.execVinfo d a s
  | .vfree d => Sys2Proof.Machine.execVfree d s
  | .vbudget d a => Sys2Proof.Machine.execVbudget d a s
  | .vrun d a b => Sys2Proof.Machine.execVrun d a b s
  | .vext d a b => Sys2Proof.Machine.execVext d a b s
  | .vins d a b => Sys2Proof.Machine.execVins d a b s
  | .vred d a o => Sys2Proof.Machine.execVred d a o s
  | .vscan d a o => Sys2Proof.Machine.execVscan d a o s
  | .vperm d a b => Sys2Proof.Machine.execVperm d a b s
  | .vrot d a b => Sys2Proof.Machine.execVrot d a b s
  | .vsfc d a b h e => Sys2Proof.Machine.execVsfc d a b h e s
  | .mand d a b => Sys2Proof.Machine.execMand d a b s
  | .mor d a b => Sys2Proof.Machine.execMor d a b s
  | .mxor d a b => Sys2Proof.Machine.execMxor d a b s
  | .mandn d a b => Sys2Proof.Machine.execMandn d a b s
  | .mnot d a => Sys2Proof.Machine.execMnot d a s
  | .mmov d a => Sys2Proof.Machine.execMmov d a s
  | .mcnt d a => Sys2Proof.Machine.execMcnt d a s
  | .mfirst d a => Sys2Proof.Machine.execMfirst d a s
  | .mset d a b => Sys2Proof.Machine.execMset d a b s
  | .vcmp d a b sel r => Sys2Proof.Machine.execVcmp d a b sel r s
  | .lds d a b z v c f => Sys2Proof.Machine.execLds d a b z v c f s
  | .sts d a b z v c => Sys2Proof.Machine.execSts d a b z v c s
  | .ldt d a b z v c f => Sys2Proof.Machine.execLdt d a b z v c f s
  | .stt d a b z v c => Sys2Proof.Machine.execStt d a b z v c s
  | .ldc d a b z v c f => Sys2Proof.Machine.execLdc d a b z v c f s
  | .stc d a b z v c => Sys2Proof.Machine.execStc d a b z v c s
  | .ld d a b z v c f => Sys2Proof.Machine.execLd d a b z v c f s
  | .st d a b z v c => Sys2Proof.Machine.execSt d a b z v c s
  | .space d a => Sys2Proof.Machine.execSpace d a s
  | .cast d a w => Sys2Proof.Machine.execCast d a w s
  | .atom d a b o w sel v f => Sys2Proof.Machine.execAtom d a b o w sel v f s
  | .fence k sel => Sys2Proof.Machine.execFence k sel s
  | .cpost a q f => Sys2Proof.Machine.execCpost a q f s
  | .cqstat d q => Sys2Proof.Machine.execCqstat d q s
  | .ccancel a => Sys2Proof.Machine.execCcancel a s
  | .binit a b => Sys2Proof.Machine.execBinit a b s
  | .barv a b => Sys2Proof.Machine.execBarv a b s
  | .bexp a b => Sys2Proof.Machine.execBexp a b s
  | .bwait a b => Sys2Proof.Machine.execBwait a b s
  | .btest d a b => Sys2Proof.Machine.execBtest d a b s
  | .mma sel c a b f n x => Sys2Proof.Machine.execMma sel c a b f n x s
  | .mloop sel c a b l n x => Sys2Proof.Machine.execMloop sel c a b l n x s
  | .mzero c f => Sys2Proof.Machine.execMzero c f s
  | .mlda c a f => Sys2Proof.Machine.execMlda c a f s
  | .msta c a b => Sys2Proof.Machine.execMsta c a b s
  | .tsub a => Sys2Proof.Machine.execTsub a s
  | .ttake d a m => Sys2Proof.Machine.execTtake d a m s
  | .tdone a => Sys2Proof.Machine.execTdone a s
  | .tretry a m => Sys2Proof.Machine.execTretry a m s
  | .tcancel a => Sys2Proof.Machine.execTcancel a s
  | .launch d a f => Sys2Proof.Machine.execLaunch d a f s
  | .lwait d a => Sys2Proof.Machine.execLwait d a s
  | .cxa d a b r f => Sys2Proof.Machine.execCxa d a b r f s
  | .cxg d a b f => Sys2Proof.Machine.execCxg d a b f s
  | .cxs d a b r f => Sys2Proof.Machine.execCxs d a b r f s
  | .cxb d a b f => Sys2Proof.Machine.execCxb d a b f s
  | .cxt d a b f => Sys2Proof.Machine.execCxt d a b f s
  | .cxp a f => Sys2Proof.Machine.execCxp a f s
  | .xrd d sel => Sys2Proof.Machine.execXrd d sel s
  | .xwr a sel => Sys2Proof.Machine.execXwr a sel s
  | .time d => Sys2Proof.Machine.execTime d s
  | .vectorFinalPass c p => Sys2Proof.Machine.execVectorFinalPass c p s
  | .loadDataReady c p => Sys2Proof.Machine.execLoadDataReady c p s
  | .storePerform c p => Sys2Proof.Machine.execStorePerform c p s
  | .clusterStoreAck c p => Sys2Proof.Machine.execClusterStoreAck c p s
  | .yieldExpiry c p => Sys2Proof.Machine.execYieldExpiry c p s
  | .specialFunctionReady c p => Sys2Proof.Machine.execSpecialFunctionReady c p s
  | .dividerFree c => Sys2Proof.Machine.execDividerFree c s
  | .errorDetected e => Sys2Proof.Machine.execErrorDetected e s
  | .doorbell q tail port => Sys2Proof.Machine.execDoorbell q tail port s
  | .queuePriorityWrite q prio port => Sys2Proof.Machine.execQueuePriorityWrite q prio port s
  | .queueOwnportMove q newPort port => Sys2Proof.Machine.execQueueOwnportMove q newPort port s
  | .launchRecordRead q => Sys2Proof.Machine.execLaunchRecordRead q s
  | .batchHandout n => Sys2Proof.Machine.execBatchHandout n s
  | .groupPlacement die => Sys2Proof.Machine.execGroupPlacement die s
  | .partitionFillEnd c g => Sys2Proof.Machine.execPartitionFillEnd c g s
  | .groupComplete c g => Sys2Proof.Machine.execGroupComplete c g s
  | .launchAccept c g => Sys2Proof.Machine.execLaunchAccept c g s
  | .notificationPost q => Sys2Proof.Machine.execNotificationPost q s
  | .faultRecordPost => Sys2Proof.Machine.execFaultRecordPost s
  | .priorityPreemption => Sys2Proof.Machine.execPriorityPreemption s
  | .quantumExpiry c g => Sys2Proof.Machine.execQuantumExpiry c g s
  | .parkedEviction grid => Sys2Proof.Machine.execParkedEviction grid s
  | .gridStall grid => Sys2Proof.Machine.execGridStall grid s
  | .hostPreemptRequest grid port => Sys2Proof.Machine.execHostPreemptRequest grid port s
  | .groupRestore grid idx => Sys2Proof.Machine.execGroupRestore grid idx s
  | .commandAccept c q slot => Sys2Proof.Machine.execCommandAccept c q slot s
  | .commandStart c q => Sys2Proof.Machine.execCommandStart c q s
  | .copyCmd c q slot n => Sys2Proof.Machine.execCopyCmd c q slot n s
  | .gatherCmd c q slot n => Sys2Proof.Machine.execGatherCmd c q slot n s
  | .scatterCmd c q slot n => Sys2Proof.Machine.execScatterCmd c q slot n s
  | .fillCmd c q slot n => Sys2Proof.Machine.execFillCmd c q slot n s
  | .watchCmd c q slot => Sys2Proof.Machine.execWatchCmd c q slot s
  | .watchComplete c q slot => Sys2Proof.Machine.execWatchComplete c q slot s
  | .signalCmd c q slot => Sys2Proof.Machine.execSignalCmd c q slot s
  | .copyFence c q slot => Sys2Proof.Machine.execCopyFence c q slot s
  | .flushCmd c q slot => Sys2Proof.Machine.execFlushCmd c q slot s
  | .hintPrefetchL2 c q slot => Sys2Proof.Machine.execHintPrefetchL2 c q slot s
  | .hintPrefetchHome c q slot => Sys2Proof.Machine.execHintPrefetchHome c q slot s
  | .hintKeepResident c q slot => Sys2Proof.Machine.execHintKeepResident c q slot s
  | .hintReleaseResidency c q slot => Sys2Proof.Machine.execHintReleaseResidency c q slot s
  | .commandComplete c q slot => Sys2Proof.Machine.execCommandComplete c q slot s
  | .cancellationComplete c q slot => Sys2Proof.Machine.execCancellationComplete c q slot s
  | .generationBump die cls => Sys2Proof.Machine.execGenerationBump die cls s
  | .homeAcknowledge die off => Sys2Proof.Machine.execHomeAcknowledge die off s
  | .fillReturn die off => Sys2Proof.Machine.execFillReturn die off s
  | .writeBack die off => Sys2Proof.Machine.execWriteBack die off s
  | .writeThrough die off => Sys2Proof.Machine.execWriteThrough die off s
  | .homeAtomic die off => Sys2Proof.Machine.execHomeAtomic die off s
  | .rdupInvalidate die off => Sys2Proof.Machine.execRdupInvalidate die off s
  | .sweeperVisit die slice => Sys2Proof.Machine.execSweeperVisit die slice s
  | .scrubRead home ecc => Sys2Proof.Machine.execScrubRead home ecc s
  | .pageWalk die aspace va => Sys2Proof.Machine.execPageWalk die aspace va s
  | .replay die value port => Sys2Proof.Machine.execReplay die value port s
  | .tlbinv die w1 port => Sys2Proof.Machine.execTlbinv die w1 port s
  | .tlbinvComplete die => Sys2Proof.Machine.execTlbinvComplete die s
  | .handoverTodevice w1 port => Sys2Proof.Machine.execHandoverTodevice w1 port s
  | .handoverTohost w1 port => Sys2Proof.Machine.execHandoverTohost w1 port s
  | .handoverComplete => Sys2Proof.Machine.execHandoverComplete s
  | .fqsvcResume w1 port => Sys2Proof.Machine.execFqsvcResume w1 port s
  | .fqsvcCancel w1 port => Sys2Proof.Machine.execFqsvcCancel w1 port s
  | .debugHalt c p port => Sys2Proof.Machine.execDebugHalt c p port s
  | .debugResume c p port => Sys2Proof.Machine.execDebugResume c p port s
  | .debugStep c p port => Sys2Proof.Machine.execDebugStep c p port s
  | .snap c g port => Sys2Proof.Machine.execSnap c g port s
  | .snapReload c g => Sys2Proof.Machine.execSnapReload c g s
  | .hostRead pa n port => Sys2Proof.Machine.execHostRead pa n port s
  | .hostWrite pa bytes port => Sys2Proof.Machine.execHostWrite pa bytes port s
  | .hostFetchadd pa n v port => Sys2Proof.Machine.execHostFetchadd pa n v port s
  | .hostSwap pa n v port => Sys2Proof.Machine.execHostSwap pa n v port s
  | .hostCas pa n cmp v port => Sys2Proof.Machine.execHostCas pa n cmp v port s
  | .registerWrite off size v port => Sys2Proof.Machine.execRegisterWrite off size v port s
  | .mcwinDefine w v port => Sys2Proof.Machine.execMcwinDefine w v port s
  | .collectiveAbort w port => Sys2Proof.Machine.execCollectiveAbort w port s
  | .collectiveAccept c off => Sys2Proof.Machine.execCollectiveAccept c off s
  | .collectiveComplete c off input => Sys2Proof.Machine.execCollectiveComplete c off input s
  | .flitReceive port flit => Sys2Proof.Machine.execFlitReceive port flit s
  | .flitNak port seq => Sys2Proof.Machine.execFlitNak port seq s
  | .remoteRequest r => Sys2Proof.Machine.execRemoteRequest r s
  | .remoteCommit r => Sys2Proof.Machine.execRemoteCommit r s
  | .remoteTimeoutExpiry off => Sys2Proof.Machine.execRemoteTimeoutExpiry off s
  | .busyRetry off => Sys2Proof.Machine.execBusyRetry off s
  | .stagingExpiry off => Sys2Proof.Machine.execStagingExpiry off s
  | .matrixOpStart c => Sys2Proof.Machine.execMatrixOpStart c s
  | .matrixOpComplete c => Sys2Proof.Machine.execMatrixOpComplete c s
  | .rampAdjust => Sys2Proof.Machine.execRampAdjust s
  | .powerStateEntry => Sys2Proof.Machine.execPowerStateEntry s
  | .resetDevice boot => Sys2Proof.Machine.execResetDevice boot s
  | .freeze => Sys2Proof.Machine.execFreeze s
  | .signedUnlock key => Sys2Proof.Machine.execSignedUnlock key s
  | .provisioningCommand key => Sys2Proof.Machine.execProvisioningCommand key s
  | .attestationReport nonce => Sys2Proof.Machine.execAttestationReport nonce s
  | .selfTestEnd off lasting => Sys2Proof.Machine.execSelfTestEnd off lasting s
  | .firmwareUpdate => Sys2Proof.Machine.execFirmwareUpdate s
  | .powerMeasure milliwatts => Sys2Proof.Machine.execPowerMeasure milliwatts s
  | .powerRequest v port => Sys2Proof.Machine.execPowerRequest v port s

end Sys2Proof.Machine
end

