-- ==== Sys2Proof/Machine/Uses.lean ====
section
/-! DEFINITION. What an instruction word uses: its issue slot (R17), the registers it must have readable (R333),
the fields that REP may step (R419), whether IMM may prefix it (R338, R349), and the clause flag it counts against (R351). -/

namespace Sys2Proof.Machine

/-- The issue slots of R17. -/
inductive Slot where
  | vector | scalar | localMem | matrix | control | none
  deriving DecidableEq, Repr

/-- Majors 0x08 to 0x0F are vector instructions, 0x04 to 0x07, 0x01 and 0x1E scalar, 0x10 to 0x15 local, 0x18 to 0x1A matrix (R17). -/
def slotOfMajor (m : Nat) : Slot :=
  if 0x08 ≤ m ∧ m ≤ 0x0F then .vector
  else if (0x04 ≤ m ∧ m ≤ 0x07) ∨ m = 0x01 ∨ m = 0x1E then .scalar
  else if 0x10 ≤ m ∧ m ≤ 0x15 then .localMem
  else if 0x18 ≤ m ∧ m ≤ 0x1A then .matrix
  else if m = 0x02 ∨ m = 0x03 ∨ m = 0x3F then .none
  else .control

/-- A register that an instruction reads or writes. -/
abbrev RegRef := RegClass × Nat

def sr (r : Reg) : RegRef := (.scalar, r.toNat)
def vr (r : Reg) : RegRef := (.vector, r.toNat)
def mr {n : Nat} (r : BitVec n) : RegRef := (.mask, r.toNat)

/-- How an instruction uses its fields. -/
structure Use where
  /-- Registers named by the word; the execution mask and the guard are added by `needs`. -/
  regs : List RegRef
  /-- Whether fields D, A and B name registers that REP may step (R419). -/
  d : Bool
  a : Bool
  b : Bool
  /-- Whether the word has an immediate field that IMM extends (R349). -/
  imm : Bool := false
  /-- Whether the word reads GuardMask (R341). -/
  guard : Bool := false
  /-- FB of a long-latency form: false selects flag A (R333, R351). -/
  flag : Option Bool := none
  deriving DecidableEq, Repr

/-- A use of three registers in D, A and B. -/
def useDAB (d a b : RegRef) : Use := { regs := [d, a, b], d := true, a := true, b := true }

/-- A use of two registers in D and A. -/
def useDA (d a : RegRef) : Use := { regs := [d, a], d := true, a := true, b := false }

/-- A use of one register in D. -/
def useD (d : RegRef) : Use := { regs := [d], d := true, a := false, b := false }

/-- A use of registers in fields that REP never steps. -/
def useFixed (rs : List RegRef) : Use := { regs := rs, d := false, a := false, b := false }

/-- A local data access (R364). -/
def useLocal (st : Bool) (d a b : Reg) (v c f : Bool) : Use :=
  { regs := [(if c then .scalar else .vector, d.toNat), sr a] ++ (if v then [vr b] else []),
    d := true, a := true, b := v, imm := true, guard := st, flag := if st then none else some f }

/-- A special function (R359). -/
def useSpecial (d a : Reg) (f : Bool) : Use := { useDA (vr d) (vr a) with flag := some f }

/-- The use of each instruction word. -/
def useOf : Instr → Use
  | .bra _ => { useFixed [] with imm := true, guard := true }
  | .call _ => { useFixed [(.scalar, 62)] with imm := true }
  | .jmpi a => useFixed [sr a]
  | .ret => useFixed [(.scalar, 62)]
  | .trap a _ => useFixed [sr a]
  | .brd k _ => { useFixed [mr k, (.scalar, 63)] with imm := true, guard := true }
  | .modeReg _ s => useFixed [sr s]
  | .sadd d a b | .ssub d a b | .smul d a b | .smulh d a b | .smulhu d a b | .sand d a b | .sor d a b
  | .sxor d a b | .sshl d a b | .sshr d a b | .ssra d a b | .sbfi d a b => useDAB (sr d) (sr a) (sr b)
  | .sdiv d a b _ | .srem d a b _ | .smin d a b _ | .smax d a b _ | .sbfx d a b _ => useDAB (sr d) (sr a) (sr b)
  | .smov d a | .sclz d a | .spop d a => useDA (sr d) (sr a)
  | .saddImm d _ | .ssubImm d _ | .smulImm d _ | .sandImm d _ | .sorImm d _ | .sxorImm d _ | .sshlImm d _
  | .sshrImm d _ | .ssraImm d _ | .sminImm d _ _ | .smaxImm d _ _ | .smovImm d _ => { useD (sr d) with imm := true }
  | .sli d _ => { useD (sr d) with imm := true }
  | .scmp d a b _ _ => useDAB (sr d) (sr a) (sr b)
  | .ssel d a b c => { useDAB (sr d) (sr a) (sr b) with regs := [sr d, sr a, sr b, sr c] }
  | .vadd d a b | .vsub d a b | .vmul d a b | .vmulh d a b | .vmin d a b | .vmax d a b | .vand d a b
  | .vor d a b | .vxor d a b | .vshl d a b | .vshr d a b => useDAB (vr d) (vr a) (vr b)
  | .vabs d a | .vneg d a | .vnot d a | .vmov d a | .vclz d a | .vpop d a => useDA (vr d) (vr a)
  | .viota d => useD (vr d)
  | .vbcast d a b => useDAB (vr d) (vr a) (sr b)
  | .vcvt d a _ _ => useDA (vr d) (vr a)
  | .vsel d a b k =>
    { useDAB (vr d) (vr a) (vr b) with regs := [vr d, vr a, vr b, mr k], guard := true }
  | .vaddScalar d a b | .vsubScalar d a b | .vmulScalar d a b | .vmulhScalar d a b | .vminScalar d a b
  | .vmaxScalar d a b | .vandScalar d a b | .vorScalar d a b | .vxorScalar d a b | .vshlScalar d a b
  | .vshrScalar d a b => useDAB (vr d) (vr a) (sr b)
  | .vmovScalar d a => useDA (vr d) (sr a)
  | .vselScalar d a b k =>
    { useDAB (vr d) (vr a) (sr b) with regs := [vr d, vr a, sr b, mr k], guard := true }
  | .vfma d a b c _ _ => { useDAB (vr d) (vr a) (vr b) with regs := [vr d, vr a, vr b, vr c] }
  | .vrcp d a f | .vrsq d a f | .vsqrt d a f | .vexp2 d a f | .vlog2 d a f | .vsin d a f | .vcos d a f =>
    useSpecial d a f
  | .vdiv d a b f => { useDAB (vr d) (vr a) (vr b) with flag := some f }
  | .vcoal d | .vfree d => useD (vr d)
  | .vinfo d a => useDA (sr d) (vr a)
  | .vbudget d a => useDA (sr d) (sr a)
  | .vrun d a b | .vext d a b => useDAB (sr d) (vr a) (sr b)
  | .vins d a b => useDAB (vr d) (sr a) (sr b)
  | .vred d a _ | .vscan d a _ => useDA (vr d) (vr a)
  | .vperm d a b => useDAB (vr d) (vr a) (vr b)
  | .vrot d a b => useDAB (vr d) (vr a) (sr b)
  | .vsfc d a b _ e =>
    { useDAB (vr d) (vr a) (sr b) with
      regs := [vr d, vr a, (.vector, a.toNat + 1), sr b] ++ (if e then [(.vector, a.toNat + 2)] else []) }
  | .mand d a b | .mor d a b | .mxor d a b | .mandn d a b => useDAB (mr d) (mr a) (mr b)
  | .mnot d a | .mmov d a => useDA (mr d) (mr a)
  | .mcnt d a | .mfirst d a => useDA (sr d) (mr a)
  | .mset d a b => useDAB (mr d) (sr a) (sr b)
  | .vcmp d a b s _ => useDAB (mr d) (vr a) (if s then sr b else vr b)
  | .lds d a b _ v c f | .ldt d a b _ v c f | .ldc d a b _ v c f | .ld d a b _ v c f => useLocal false d a b v c f
  | .sts d a b _ v c | .stt d a b _ v c | .stc d a b _ v c | .st d a b _ v c => useLocal true d a b v c false
  | .space d a | .cast d a _ => useDA (sr d) (sr a)
  | .atom d a b o _ _ v f =>
    { regs := [vr d, sr a] ++ (if v then [vr b] else []) ++ (if o.toNat = 7 then [(.vector, d.toNat + 1)] else []),
      d := true, a := true, b := v, guard := true, flag := some f }
  | .cpost a _ f => { regs := [sr a], d := false, a := true, b := false, flag := some f }
  | .cqstat d _ => useD (sr d)
  | .ccancel a => { regs := [sr a], d := false, a := true, b := false }
  | .binit a b | .barv a b | .bexp a b | .bwait a b => { regs := [sr a, sr b], d := false, a := true, b := true }
  | .btest d a b => useDAB (sr d) (sr a) (sr b)
  | .mma _ _ a b f _ _ => useFixed [sr a, sr b, sr f]
  | .mloop _ _ a b l _ _ => useFixed [sr a, sr b, sr l]
  | .mlda _ a _ => useFixed [sr a]
  | .msta _ a b => useFixed [sr a, sr b]
  | .tsub a | .tdone a | .tretry a _ | .tcancel a => useFixed [sr a]
  | .ttake d a _ => useFixed [sr d, sr a]
  | .launch d a f => { useFixed [sr d, sr a] with flag := some f }
  | .lwait d a => useFixed [sr d, sr a]
  | .cxa d a b _ f | .cxs d a b _ f => { useFixed [sr d, sr a, sr b] with flag := some f }
  | .cxg d a b f | .cxb d a b f | .cxt d a b f => { useFixed [sr d, sr a, sr b] with flag := some f }
  | .cxp a f => { useFixed [sr a] with flag := some f }
  | .xrd d _ | .time d => useD (sr d)
  | .xwr a _ => { regs := [sr a], d := false, a := true, b := false }
  | _ => useFixed []

/-- Whether an instruction ends its clause (R332). -/
def endsClause : Instr → Bool
  | .bra _ | .brd _ _ | .join | .call _ | .ret | .jmpi _ | .exit | .eret | .halt | .yield => true
  | _ => false

/-- Whether an instruction of a slot reads or writes m0 beside the registers it names: as its execution mask (R76, R374, R405) or as what it
splits or restores (R381, R401). -/
def usesEm (i : Instr) (sl : Slot) : Bool :=
  match i with
  | .vcoal _ | .vfree _ | .vinfo _ _ | .vbudget _ _ | .vrun _ _ _ | .vext _ _ _ => false
  | .mand _ _ _ | .mor _ _ _ | .mxor _ _ _ | .mandn _ _ _ | .mnot _ _ | .mmov _ _ | .mcnt _ _ | .mfirst _ _ | .mset _ _ _ => false
  | .space _ _ | .cast _ _ _ | .fence _ _ => false
  | .lds _ _ _ _ _ c _ | .ldt _ _ _ _ _ c _ | .ldc _ _ _ _ _ c _ | .ld _ _ _ _ _ c _ => !c
  | .join => true
  | _ => sl = .vector || sl = .localMem || (useOf i).guard

/-- The registers that an instruction of a slot needs: those it names, m0, and the guard (R333, R341). -/
def Team.needs (t : Team) (i : Instr) (sl : Slot) : List RegRef :=
  let u := useOf i
  let em : List RegRef := if usesEm i sl then [(.mask, 0)] else []
  let g := bits t.mode 11 8
  u.regs ++ em ++ (if u.guard && g ≠ 0 then [(.mask, g)] else [])

/-- Whether a register's pending writer has not completed (R333); s0 has none. -/
def Team.pending (t : Team) (now : Nat) (r : RegRef) : Bool :=
  r ≠ (.scalar, 0) && t.pend.any (fun p => p.cls = r.1 && p.num = r.2 && decide (now < p.due))

/-- The registers that an instruction writes. -/
def writesOf (i : Instr) : List RegRef :=
  match i with
  | .brd _ _ | .join => [(.mask, 0)]
  | .call _ => [(.scalar, 62)]
  | .ttake d e _ => [sr d, sr e]
  | .ret | .jmpi _ | .trap _ _ | .modeReg _ _ | .sts _ _ _ _ _ _ | .stt _ _ _ _ _ _ | .stc _ _ _ _ _ _ | .st _ _ _ _ _ _ => []
  | .cpost _ _ _ | .ccancel _ | .binit _ _ | .barv _ _ | .bexp _ _ | .bwait _ _ | .mma _ _ _ _ _ _ _ | .mloop _ _ _ _ _ _ _ => []
  | .mlda _ _ _ | .msta _ _ _ | .tsub _ | .tdone _ | .tretry _ _ | .tcancel _ | .xwr _ _ => []
  | .cxa _ _ _ _ _ | .cxs _ _ _ _ _ | .cxg _ _ _ _ | .cxb _ _ _ _ | .cxt _ _ _ _ | .cxp _ _ => []
  | _ => (useOf i).regs.take 1

/-- Whether a vector instruction still in its passes has read a register that an instruction writes (R438). -/
def Team.heldBack (t : Team) (now : Nat) (i : Instr) : Bool :=
  t.holds.any (fun h => decide (now ≤ h.1) && (writesOf i).any (fun r => r ≠ (.scalar, 0) && h.2.contains r))

end Sys2Proof.Machine
end

