-- ==== Sys2Proof/Machine/Issue.lean ====
section
/-! DEFINITION. Fetching and issuing the words of a team: framing, prefixes, interlocks and issue slots
(R17, R50 to R52, R327 to R338, R418 to R420). -/

namespace Sys2Proof.Machine

/-! ## Framing (R331, R332) -/

/-- A word's place in its sequence. -/
structure Seq where
  rep : Option Inst
  imm : Option Inst
  word : Inst
  deriving DecidableEq, Repr

/-- CLAUSE_FRAME with its word. -/
def frameTrap (w : Inst) : TrapReq := ⟨cCLAUSE_FRAME, infoWord w⟩

/-- The first prefix of a sequence, or `w`. -/
def firstPrefix (rep imm : Option Inst) (w : Inst) : Inst :=
  match rep with | some r => r | none => imm.getD w

/-- What stands at the next words of a clause. -/
inductive Ahead where
  | seq (q : Seq)
  | trap (r : TrapReq)
  | stop (f : Fault)
  deriving DecidableEq, Repr

/-- Whether a word is of an instruction that ends its clause, whatever its other bits hold: framing is looked at before a reserved bit is
(R275, R332). -/
def endsWord (w : Inst) : Bool :=
  major w = 0x00 && let f := (fld w 20 6).toNat; (decide (1 ≤ f) && decide (f ≤ 9)) || (decide (0x10 ≤ f) && decide (f ≤ 0x1F))

/-- The words from position `pos` of a clause on, until one that is no prefix: framing first (R331, R332), then the prefixes that
may not stand before the word (R336, R338, R398). Under a REP whose counter `cnt` is beyond its last step no such check is made, since
nothing issues (R418). `fuel` bounds the prefixes. -/
def lookAhead (fetch : Word → Except Fault Inst) (len cnt : Nat) :
    (fuel : Nat) → (pc : Word) → (pos : Nat) → (rep imm : Option Inst) → Ahead
  | 0, _, _, rep, imm => .trap ⟨cILLEGAL, infoWord (firstPrefix rep imm 0)⟩
  | fuel + 1, pc, pos, rep, imm =>
    match fetch pc with
    | .error f => .stop f
    | .ok w =>
      let passed : Bool := match rep with | some r => decide (repLast r < cnt) | none => false
      if len + 1 < pos then .trap (frameTrap w)
      else if major w = 0x3F then
        match rep, imm with
        | none, none => .trap (frameTrap w)
        | _, some i => .trap ⟨cILLEGAL, infoWord i⟩
        | some r, none => .trap ⟨cILLEGAL, infoWord r⟩
      else if major w = 0x02 ∨ major w = 0x03 then
        if pos = len + 1 then .trap (frameTrap (firstPrefix rep imm w))
        else if passed && (imm.isSome || major w = 0x02) then .seq ⟨rep, imm, w⟩
        else if imm.isSome then .trap ⟨cILLEGAL, infoWord (if rep.isSome then imm.getD w else firstPrefix rep imm w)⟩
        else if major w = 0x02 then
          if rep.isSome then .trap ⟨cILLEGAL, infoWord (firstPrefix rep imm w)⟩
          else lookAhead fetch len cnt fuel (pc + 4) (pos + 1) (some w) none
        else lookAhead fetch len cnt fuel (pc + 4) (pos + 1) rep (some w)
      else if endsWord w && pos ≠ len + 1 then .trap (frameTrap w)
      else .seq ⟨rep, imm, w⟩

/-! ## Prefixes (R336 to R338, R418, R419) -/

/-- Majors that REP may prefix (R336). -/
def repMajor (m : Nat) : Bool := (0x04 ≤ m && m ≤ 0x17) || m = 0x1E

/-- Whether a word has an immediate field for IMM (R338, R349). -/
def takesImm (w : Inst) : Bool :=
  match decode w with
  | .ok i => (useOf i).imm
  | _ => major w = 0x05 || major w = 0x06 || (0x10 ≤ major w && major w ≤ 0x13 && fld w 1 2 = 0#2)

/-- A field moved by the step, if it stays a register number (R418). -/
def stepField (w : Inst) (lo : Nat) (on : Bool) (by_ : Nat) : Option Inst :=
  if on then
    let x := (fld w lo 6).toNat + by_
    if 63 < x then none
    else some ((w &&& ~~~(put lo (63#6))) ||| put lo (BitVec.ofNat 6 x))
  else some w

/-- The word that a step of a REP issues (R335). -/
def stepped (rep w : Inst) (t : Nat) : Option Inst :=
  let by_ := t * (if bit rep 9 then 2 else 1)
  match stepField w 20 (bit rep 8) by_ with
  | none => none
  | some w =>
    match stepField w 14 (bit rep 7) by_ with
    | none => none
    | some w => stepField w 8 (bit rep 6) by_

/-- What a sequence issues at its present step: an instruction and its word, nothing when the counter is beyond the last step
(R418), or a trap, ILLEGAL before RESERVED (R275). -/
inductive Issued where
  | run (i : Instr) (w : Inst)
  | skip
  | trap (r : TrapReq)
  deriving DecidableEq, Repr

/-- A decoded word as an instruction or a trap (R350). -/
def issueDecoded (w : Inst) : Issued :=
  match decode w with
  | .ok i => .run i w
  | .illegal => .trap ⟨cILLEGAL, infoWord w⟩
  | .reserved => .trap ⟨cRESERVED, infoWord w⟩

/-- The present step of a sequence. -/
def Seq.issue (q : Seq) (cnt : Nat) : Issued :=
  if (match q.rep with | some r => decide (repLast r < cnt) | none => false) then .skip
  else if (match q.imm with | some _ => !takesImm q.word | none => false) then
    .trap ⟨cILLEGAL, infoWord (q.imm.getD q.word)⟩
  else
    match q.rep with
    | none => issueDecoded q.word
    | some rep =>
      if !repMajor (major q.word) then .trap ⟨cILLEGAL, infoWord rep⟩
      else if decode q.word = .illegal then .trap ⟨cILLEGAL, infoWord q.word⟩
      else if fld rep 10 16 ≠ 0#16 then .trap ⟨cRESERVED, infoWord rep⟩
      else
        let u := match decode q.word with | .ok i => useOf i | _ => useDAB (.none, 0) (.none, 0) (.none, 0)
        if (bit rep 8 && !u.d) || (bit rep 7 && !u.a) || (bit rep 6 && !u.b) then .trap ⟨cRESERVED, infoWord rep⟩
        else
          match stepped rep q.word cnt with
          | none => .trap ⟨cRESERVED, infoWord rep⟩
          | some w => issueDecoded w

/-! ## Readiness (R50, R333) -/

/-- Whether a slot is free in the present cycle (R17); a vector instruction also needs an idle datapath (R52). -/
def Core.slotFree (x : Core) (now : Nat) (sl : Slot) : Bool :=
  let u := if x.slots.cycle = now then x.slots else { cycle := now, vector := 0, scalar := 0, localMem := 0, matrix := 0, control := 0 }
  match sl with
  | .vector => decide (u.vector < 3) && x.paths.any (· ≤ now)
  | .scalar => u.scalar = 0
  | .localMem => u.localMem = 0 && decide (x.localFree ≤ now)
  | .matrix => u.matrix = 0
  | .control => u.control = 0
  | .none => true

/-- A slot used in the present cycle. -/
def Core.useSlot (x : Core) (now : Nat) (sl : Slot) : Core :=
  let u : SlotUse := if x.slots.cycle = now then x.slots
    else { cycle := now, vector := 0, scalar := 0, localMem := 0, matrix := 0, control := 0 }
  { x with slots := match sl with
    | .vector => { u with vector := u.vector + 1 }
    | .scalar => { u with scalar := 1 }
    | .localMem => { u with localMem := 1 }
    | .matrix => { u with matrix := 1 }
    | .control => { u with control := 1 }
    | .none => u }

/-- Whether a team may go on at all: it runs, its group is placed and filled, it has not issued in this cycle, and it is not held by a
YIELD; no clause and no REP step starts while its group is being stopped or a debugger has asked for a halt (R50, R144, R282, R287,
R458). -/
def Mach.mayIssue (m : Mach) (c p : Nat) : Bool :=
  let x := m.core c
  match x.teams.find? p with
  | none => false
  | some t =>
    let g := x.group t.group
    t.phase = .running && !(t.haltReq && t.atBoundary) && t.nextIssue ≤ m.now && t.yielding.isNone && g.phase = .resident &&
      g.filling.isNone && !(g.stopping && t.atBoundary)

/-- Whether a team has a cluster-window store to a core that is not yet performed there. -/
def Team.storesTo (t : Team) (core : Nat) : Bool := (t.storeQ ++ t.flight).any (fun q => q.cluster && q.core = core)

/-- A local access of checked offsets goes after the matrix operations that came first (R247), and a load from another core's partition after the
team's stores to that core (R208). -/
def Mach.localReady (m : Mach) (k : LocalKind) (a b : Reg) (z : BitVec 2) (v c write : Bool) : Bool :=
  let t := m.team
  match m.reachOf k (t.rs a.toNat) with
  | .error _ => true
  | .ok (r, base) =>
    let lanes := if c then [0] else maskLanes (if write then t.emGuard else t.em) t.lanes
    (write || !r.cluster || !t.storesTo r.core) && (!r.tile || m.tileReady r (laneOffs (base + t.localOff v b) (if v then some (t.rv b.toNat) else none) lanes) (sizeOf z) write)

/-- A store enters a queue of 16 (R207). -/
def Mach.storeReady (m : Mach) (k : LocalKind) (a b : Reg) (z : BitVec 2) (v c : Bool) : Bool :=
  decide (m.team.storeQ.length < 16) && m.localReady k a b z v c true

/-- An ATOM's waits (R209, R247). -/
def Mach.atomReady (m : Mach) (a b : Reg) (w v : Bool) : Bool :=
  let t := m.team
  t.atomReady a &&
  (match m.reachPtr (t.rs a.toNat) with
    | .error _ => true
    | .ok r => m.tileReady r (laneOffs (ptrOff (t.rs a.toNat) : Nat) (if v then some (t.rv b.toNat) else none)
        (maskLanes t.emGuard t.lanes)) (if w then 8 else 4) true)

/-- The offset of a format-block record that an instruction names, if it is one. -/
def blockOf (f : Reg) (v : Word) : Option Word := if f = 0 then none else some v

/-- Conditions of single instructions beside their registers: the divider, EXIT's flags, STATUS, ALLOT and FREESLOTS after every pass, the store queue, the
tables and queues that an instruction enters, and flag counters at their limit (R207, R209, R210, R246, R247, R307, R333, R377, R385,
R394, R402, R416, R433, R456). -/
def instrReady (m : Mach) (c p : Nat) (i : Instr) : Bool :=
  let m := { m with cur := ⟨c, p⟩ }
  let x := m.core c
  let t := x.team p
  let count : Bool := match (useOf i).flag with
    | some fb => decide (t.flagCount (t.flagOf fb) < 255) || t.flagOf fb = 12
    | none => true
  count && (match i with
    | .sdiv _ _ _ _ | .srem _ _ _ _ => decide (x.dividerFree ≤ m.now)
    | .exit => t.quiet
    | .halt => t.quiet
    | .xrd _ sr => !(decide (12 ≤ sr.toNat) && decide (sr.toNat ≤ 14)) || t.passes.isEmpty
    | .xwr _ sr => sr.toNat ≠ 12 || t.passes.isEmpty
    | .lds _ a b z v sc _ => m.localReady .scratch a b z v sc false
    | .ldt _ a b z v sc _ => m.localReady .tile a b z v sc false
    | .ldc _ a b z v sc _ => m.localReady .cluster a b z v sc false
    | .ld _ a b z v sc _ => m.localReady .pointer a b z v sc false
    | .sts _ a b z v sc => m.storeReady .scratch a b z v sc
    | .stt _ a b z v sc => m.storeReady .tile a b z v sc
    | .stc _ a b z v sc => m.storeReady .cluster a b z v sc
    | .st _ a b z v sc => m.storeReady .pointer a b z v sc
    | .atom _ a b _ w _ v _ => m.atomReady a b w v
    | .fence k sc => t.fenceDone k.toNat sc.toNat
    | .cpost a q _ => m.cpostReady (t.rs a.toNat).toInt q.toNat
    | .barv a _ => m.barrierReady true (t.rs a.toNat).toInt
    | .binit a _ | .bexp a _ => m.barrierReady false (t.rs a.toNat).toInt
    | .mma _ _ _ _ f _ _ => m.matReady (blockOf f (t.rs f.toNat)) false
    | .mloop _ _ _ _ l _ _ => m.matReady (loopBlock (t.rs l.toNat)) false
    | .mzero _ _ | .mlda _ _ _ => m.matReady none false
    | .msta _ _ f => m.matReady (blockOf f (t.rs f.toNat)) true
    | .ttake _ _ _ => m.taskReadyToIssue false
    | .tsub _ | .tdone _ | .tretry _ _ | .tcancel _ => m.taskReadyToIssue true
    | .launch _ _ _ => t.storeQ.isEmpty
    | .cxa _ _ _ _ _ | .cxg _ _ _ _ | .cxs _ _ _ _ _ | .cxb _ _ _ _ | .cxt _ _ _ _ => m.collReady 2
    | .cxp _ _ => m.collReady 4
    | _ => true)

/-! ## One issue -/

/-- What the next word of a team will do. -/
inductive Next where
  /-- Not now. -/
  | wait
  | stop (f : Fault)
  /-- A trap whose address is that of the present word, or of the first prefix of its pair. -/
  | trap (r : TrapReq)
  /-- A word that is no header raises CLAUSE_FRAME where a header must stand, with HDRLO 0 (R331); a header with reserved bits
  raises RESERVED_FIELD, with HDRLO as fetched (R330). -/
  | headTrap (cause : Nat) (w : Inst) (hdr : BitVec 14)
  /-- The pair is passed over (R418). -/
  | skip
  /-- An instruction or a prefix issues in a slot. -/
  | run (i : Instr) (sl : Slot)
  deriving DecidableEq, Repr

/-- Words of the sequence from the present one on. -/
def pairWords (s : State) (c : Nat) (t : Team) : Nat :=
  match fetchWord s ((s.m.core c).group t.group).aspace t.pc with
  | .ok w => if major w = 0x02 then
      (match fetchWord s ((s.m.core c).group t.group).aspace (t.pc + 4) with
        | .ok w2 => if major w2 = 0x03 then 3 else 2
        | .error _ => 2)
    else if major w = 0x03 then 2 else 1
  | .error _ => 1

/-- The doublewords of the stacks that a fetch reads: the entries of its walk, and the word's own. -/
def State.fetchReads (s : State) (aspace : Nat) (va : Word) : List Nat :=
  walkPath s.mem s.sys.asroot aspace va.toNat ++
    (match walk s.mem s.sys.asroot aspace va.toNat with
      | some (level, w) =>
        let l := leafFields level w
        if !l.remote && inDevice (l.pa va.toNat) then [l.pa va.toNat / 8 * 8] else []
      | none => [])

/-- What the fetch of a team's next words reads, those behind its prefixes among them. -/
def State.fetchesOf (s : State) (c p : Nat) : List Nat :=
  let t := (s.m.core c).team p
  (List.range (pairWords s c t)).flatMap (fun k => s.fetchReads ((s.m.core c).group t.group).aspace (t.pc + .ofNat 64 (4 * k)))

/-- Whether the fetch of a team's next words reads a row under test, and stalls (R322). -/
def State.fetchStalls (s : State) (c p : Nat) : Bool :=
  s.l2.homes.any (fun h => !h.2.rowTests.isEmpty) && (s.fetchesOf c p).any s.rowStalls

/-- Whether the fetch of a team's next words meets an error of a sector (R197). -/
def State.fetchErrs (s : State) (c p : Nat) : Bool :=
  s.l2.homes.any (fun h => !h.2.errors.isEmpty) &&
    (s.fetchesOf c p).any (fun a => (s.home (stackOf a)).errors.has (sectorOf a))

/-- What the next word of the team at a place does, when its fetch does not stall. -/
def nextAt (s : State) (c p : Nat) : Next :=
  let m := s.m
  if !m.mayIssue c p then .wait
  else
    let x := m.core c
    let t := x.team p
    let fetch := fetchWord s (x.group t.group).aspace
    if t.pos = 0 then
      match fetch t.pc with
      | .error f => .stop f
      | .ok w =>
        if major w ≠ 0x3F then .headTrap cCLAUSE_FRAME w 0#14
        else if (List.range 12).any (fun f => bit w (14 + f) && decide (t.flagCount f ≠ 0)) then .wait
        else match decode w with
          | .ok i => .run i .none
          | _ => .headTrap cRESERVED w (w.setWidth 14)
    else
      match lookAhead fetch t.len t.repCnt 4 t.pc t.pos t.repWord t.immWord with
      | .stop f => .stop f
      | .trap r => .trap r
      | .seq q =>
        match q.issue t.repCnt with
        -- the checks of a matrix instruction are made when its queue has an entry for it (R246, R247)
        | .trap r => if slotOfMajor (major q.word) = .matrix && !({ m with cur := ⟨c, p⟩ }.matReady none false) then .wait else .trap r
        | .skip => .skip
        | .run i w =>
          let sl := slotOfMajor (major w)
          if (t.needs i sl).any (t.pending m.now) || t.heldBack m.now i || !instrReady m c p i || !x.slotFree m.now sl then .wait
          else
            -- a prefix issues together with the word that it prefixes: it is latched first
            match fetch t.pc with
            | .error f => .stop f
            | .ok first =>
              if major first = 0x02 ∨ major first = 0x03 then
                match decode first with
                | .ok j => .run j .none
                | _ => .stop (.fetchUntranslated t.pc)
              else .run i sl

/-- The pair under a REP whose counter is beyond the last step is passed over: the counter becomes 0 and execution goes on after the
prefixed word (R418). `n` words of it remain. -/
def Team.skipPair : (n : Nat) → Team → Team
  | 0, t => { t.dropPrefix with repCnt := 0 }
  | n + 1, t => Team.skipPair n t.advance

/-- What the next word of the team at a place does. -/
def nextOf (s : State) (c p : Nat) : Next := if s.fetchStalls c p then .wait else nextAt s c p

/-- A team that was to take one step halts again (R287). -/
def Team.stepDone (t : Team) : Team :=
  if t.stepping then
    { t with stepping := false, phase := match t.phase with
      | .running => .halted none
      | .parked p => .halted (some p)
      | p => p }
  else t

/-- A team has used its cycle, and its age starts again (R51). -/
def Mach.spent (m : Mach) (c p : Nat) : Mach :=
  let x := m.core c
  match x.teams.find? p with
  | none => m
  | some t =>
    m.setCore c (x.setTeam p { t.stepDone with age := 0, nextIssue := max t.nextIssue (m.now + 1) })

/-- What a vector instruction that has issued keeps other instructions from writing: the registers it read, until its final pass is over. A
scalar result it writes itself is among the registers named; its own readers wait longer. -/
def Mach.holdReads (before : Nat) (rs : List RegRef) (m : Mach) (c p : Nat) : Mach :=
  let t := m.teamAt c p
  match t.passes with
  | r :: _ => if before < t.passes.length then m.setTeamAt c p { t with holds := (r.due, rs) :: t.holds } else m
  | [] => m

/-- After a word has issued: its slot is used, and unless it is one that needs none, so is the team's cycle. -/
def Mach.issued (m : Mach) (c p : Nat) (sl : Slot) : Mach :=
  if sl = .none then m else (m.setCore c ((m.core c).useSlot m.now sl)).spent c p

/-- The team at a place does what its next word does. MODEL'S CHOICE: a word that traps counts as the team's issue of the cycle, so its age starts
again, but takes no issue slot, which R51 does not say (log entry 131). -/
def State.issueNext (s : State) (c p : Nat) (n : Next) : Host.Outcome State Fault Refusal :=
  let at_ : State := { s with m := { s.m with cur := ⟨c, p⟩ } }
  match n with
  | .wait => .next s
  | .stop f => .fault f
  | .trap r => .next { at_ with m := (at_.m.trap r).spent c p }
  | .headTrap cause w hdr =>
    let t := at_.m.team
    .next { at_ with m := (at_.m.takeTrap cause (infoWord w) t.pc 0 hdr t.pc).spent c p }
  | .skip => .next { at_ with m := at_.m.setTeam (Team.skipPair (pairWords s c at_.m.team) at_.m.team) }
  | .run i sl =>
    let t := at_.m.team
    match exec i at_ with
    | .next s' => .next { s' with m := (if sl = .vector then s'.m.holdReads t.passes.length (t.needs i sl) c p else s'.m).issued c p sl }
    | o => o

/-- The team at a place issues its next word, if it can. An error that its fetch meets is corrected, or marks its sector poisoned (R197). -/
def issueAt (s : State) (c p : Nat) : Host.Outcome State Fault Refusal :=
  match nextOf s c p with
  | .wait => .next s
  | n =>
    if s.fetchErrs c p then
      let s := s.readEach (s.fetchesOf c p)
      s.issueNext c p (nextAt s c p)
    else s.issueNext c p n

end Sys2Proof.Machine
end

