-- ==== Sys2Proof/Machine/Tick.lean ====
section
/-! DEFINITION. One core clock cycle: ages, matrix occupancy, wakes, and what is free from the next cycle on (R22, R29, R31, R51, R140, R151,
R172, R246, R253 to R255, R287, R321, R378, R408). -/

namespace Sys2Proof.Machine

/-- A team is READY: its next word could issue in a cycle in which every slot is free (R50). -/
def State.ready (s : State) (c p : Nat) : Bool :=
  let x := s.m.core c
  let free : State := { s with m := s.m.setCore c { x with slots := { x.slots with cycle := s.m.now + 1 } } }
  match nextOf free c p with
  | .wait => false
  | _ => true

/-- READY teams that have not issued grow older (R51). -/
def State.ageTeams (s : State) (c : Nat) (x : Core) : Core :=
  { x with teams := x.teams.map (fun p t => if s.ready c p then { t with age := t.age + 1 } else t) }

/-- What the task unit and the engines have written is seen by thread accesses from its cycle on (R140, R253). -/
def Core.unveil (x : Core) (next : Nat) : Core := { x with veil := x.veil.filter (fun v => decide (next < v.from_)) }

/-- Results without a flag whose time has come are forgotten, and so are the registers that passes now over have read. -/
def Team.prune (now : Nat) (t : Team) : Team :=
  { t with pend := t.pend.filter (fun q => q.flag.isSome || decide (now < q.due)), holds := t.holds.filter (fun h => decide (now < h.1)) }

/-- One arrival lands on its barrier: the parked teams that it lets go on are noted (R172, R378). -/
def Core.land (x : Core) (a : Arrival) : Core :=
  ({ x with scratch := x.scratch.writeD a.off (arrive (x.scratch.readD a.off) a.count) } : Core).noteReached a.off 8

/-- The arrivals of the cycle's completions land by queue and then by entry number, after every store and every arrival of a team (R172). -/
def Core.landAll (x : Core) : Core :=
  { (sortBy x.arrivals (fun a b => decide (a.key ≤ b.key))).foldl Core.land x with arrivals := [] }

/-- What holds for one cycle only starts anew: freed lock entries, noted teams and taken banks (R140, R253, R378). -/
def Core.nextCycle (x : Core) : Core := { x with freed := [], met := [], use := x.plan.headD BankUse.idle, plan := x.plan.drop 1, guests := x.guests.drop 1 }

/-- What a core frees from the next cycle on: entries of ended commands, and groups that are complete or saved (R29, R49, R151). -/
def Core.sweep (x : Core) : Core :=
  let gone (g : Nat) : Bool := (x.group g).phase = .gone && x.groups.has g
  let held (g : Nat) : Bool := (x.group g).phase = .waitingPlaceholder && x.groups.has g
  let bare (v : Group) : Group :=
    if v.phase = .waitingPlaceholder then { v with spUnits := 0, tileUnits := 0, accs := [], live := [], stamps := [] } else v
  { x with
    cmds := x.cmds.filter (fun _ c => c.open_)
    teams := x.teams.filter (fun _ t => !gone t.group && !held t.group)
    groups := (x.groups.filter (fun _ v => v.phase ≠ .gone)).map (fun _ v => bare v) }

/-- What a core does by itself in a cycle. -/
def State.coreCycle (s : State) (c : Nat) (x : Core) : Core :=
  let now := s.m.now
  let x := s.ageTeams c x
  let x := { x with teams := x.teams.map (fun _ t => t.prune now) }
  let x := ((x.matCycle now (s.ramp c * s.m.usCycles)).halts.landAll).unveil (now + 1)
  let x := { x with teams := x.teams.map x.wakeBarrier }.nextCycle
  -- a lock freed in this cycle is seen from the next one on, in which its tasks become READY (R253, R254)
  (x.groups.keys.foldl (fun (x : Core) g => x.settleTasks (now + 1) g) x).reportHalt.sweep

/-- Parked LWAITs look at their status words. -/
def Mach.wakeAll (m : Mach) : Mach :=
  m.cores.foldl (fun (m : Mach) p => p.2.teams.keys.foldl (fun (m : Mach) q => m.wakeLwait p.1 q) m) m

/-- One cycle of the core clock ends: the cores', then the retirement of grids, and the parked LWAITs that see it (R408). A change of the clock takes
effect with the next cycle (R22, R31). -/
def State.tick (s : State) : State :=
  let s := ({ s with m := { s.m with cores := s.m.cores.map (fun c x => s.coreCycle c x) } } : State).retireAll
  let s := ({ s with m := s.m.wakeAll } : State).trackStalls
  ({ s with m := { s.m with now := s.m.now + 1, time := s.m.time + cycleTime s.m.fcur, fcur := s.m.fnext }, turn := 0 } : State).bringUpStep

end Sys2Proof.Machine
end

