-- ==== Sys2Proof/Machine/Order.lean ====
section
/-! DEFINITION. The order of what happens in one core clock cycle, where the specification gives one: what frees or clears something for the
cycle's issues (R130, R147, R334, R408), the scheduler's picks (R17, R51), a placement's grant before the VBUDGETs of its cycle (R74), local memory's
accesses (R140, R207, R375), the task unit's operations (R253), an unlock before a report (R326). A move that stands in the agenda after its place in
the cycle has passed waits for the next cycle, and a move before which others must come lets them go first. -/

namespace Sys2Proof.Machine

/-! ## Places in a cycle -/

/-- A place in a cycle: its phase, and within it the core and the team place. -/
def orderKey (phase core place : Nat) : Nat := 65536 * phase + min 65535 (64 * core + place)

/-- What comes before the issues of a cycle. -/
def firstKey : Nat := orderKey 1 0 0

/-- The issues of a cycle. -/
def issueKey : Nat := orderKey 2 0 0

/-- The end of a cycle. -/
def tickKey : Nat := orderKey 6 0 0

/-- Where in a cycle an event stands; 0 for one that has no place of its own. Before the issues comes what draws on the vector pool beside VBUDGET
and an unlock (R74, R326); what frees a lock, clears a flag or ends a group in the cycle, so that the cycle's issues meet it (R130, R147, R334, R408);
and the matrix engine's and the ramp limiter's boundaries (R246, R321). The accesses of the store queues come after those of the instructions, by core
and team place; then those that arrive from other cores, by source core; then those of the copy engine (R140, R207). -/
def eventKey : Instr → Nat
  | .groupPlacement _ | .groupRestore _ _ | .signedUnlock _ | .rampAdjust | .matrixOpComplete _ | .matrixOpStart _ | .commandAccept _ _ _
  | .collectiveAccept _ _ | .commandComplete _ _ _ | .cancellationComplete _ _ _ | .groupComplete _ _ | .partitionFillEnd _ _
  | .launchAccept _ _ => firstKey
  | .storePerform c p => orderKey 3 c p
  | .clusterStoreAck c p => orderKey 4 c p
  | .commandStart _ _ | .copyCmd _ _ _ _ | .gatherCmd _ _ _ _ | .scatterCmd _ _ _ _ | .fillCmd _ _ _ _
  | .watchCmd _ _ _ | .watchComplete _ _ _ | .signalCmd _ _ _ | .copyFence _ _ _ | .flushCmd _ _ _ | .hintPrefetchL2 _ _ _
  | .hintPrefetchHome _ _ _ | .hintKeepResident _ _ _ | .hintReleaseResidency _ _ _ | .collectiveComplete _ _ _
  | .attestationReport _ => orderKey 5 0 0
  | _ => 0

/-- A state whose cycle has come to a place. -/
def State.reach (s : State) (key : Nat) : State := { s with turn := max s.turn key }

/-! ## The scheduler (R17, R51, R73) -/

/-- The order in which the slots are filled; what needs no slot comes first. -/
def Slot.rank : Slot → Nat
  | .none => 0
  | .vector => 1
  | .scalar => 2
  | .localMem => 3
  | .matrix => 4
  | .control => 5

/-- What sets the place of a word in the scheduler's order, beside its slot: VBUDGETs go by team place (R74), and so do task operations (R253); an
access to another core's partition comes when its turn there has come (R140). -/
inductive WordKind where
  | plain | budget | task | cluster
  deriving DecidableEq, Repr

/-- An access through the cluster window whose checks of the window let it through. -/
def Mach.outward (m : Mach) (k : LocalKind) (a : Word) : Bool :=
  match m.reachOf k a with
  | .ok (r, _) => r.cluster
  | .error _ => false

/-- The kind of the word that a team's next instruction is. -/
def Mach.wordKind (m : Mach) (c p : Nat) (i : Instr) : WordKind :=
  let m := { m with cur := ⟨c, p⟩ }
  let rs (a : Reg) : Word := m.team.rs a.toNat
  match i with
  | .vbudget _ _ => .budget
  | .tsub _ | .ttake _ _ _ | .tdone _ | .tretry _ _ | .tcancel _ => .task
  | .ldc _ a _ _ _ _ _ => if m.outward .cluster (rs a) then .cluster else .plain
  | .ld _ a _ _ _ _ _ | .atom _ a _ _ _ _ _ _ => if m.outward .pointer (rs a) then .cluster else .plain
  | _ => .plain

/-- What a place of a core would do now. -/
structure Ready where
  place : Nat
  age : Nat
  rank : Nat
  kind : WordKind
  deriving DecidableEq, Repr

def Next.ready (m : Mach) (c p age : Nat) : Next → Option Ready
  | .wait => none
  | .run (.vbudget _ _) _ => some ⟨p, age, 1, .budget⟩
  | .run i sl => some ⟨p, age, sl.rank, if sl = .none then .plain else m.wordKind c p i⟩
  | _ => some ⟨p, age, 0, .plain⟩

/-- A goes before b: its slot first, then the greater age, then the lower place. -/
def Ready.before (a b : Ready) : Bool :=
  decide (a.rank < b.rank) || (a.rank = b.rank && (decide (b.age < a.age) || (a.age = b.age && decide (a.place < b.place))))

/-- The first of a list. -/
def firstReady : List Ready → Option Ready
  | [] => none
  | x :: xs => match firstReady xs with
    | none => some x
    | some y => if y.before x then some y else some x

/-- What the places of a core would do now. -/
def State.readies (s : State) (c : Nat) : List Ready :=
  List.filterMap (fun p : Nat × Team => (nextOf s c p.1).ready s.m c p.1 p.2.age) (s.m.core c).teams

/-- The oldest that would use the local-memory slot. -/
def oldestLocal (rs : List Ready) : Option Ready := firstReady (rs.filter (fun r => r.rank = 3))

/-- The lowest place among some, or a given one. -/
def lowestPlace (rs : List Ready) (p : Nat) : Nat := rs.foldl (fun m r => min m r.place) p

/-- The place that issues next on a core among its issues of this cycle. The local-memory slot is kept for an access to another core's partition that
is the oldest to use it, and that issues later in the cycle (`pickCluster`). Of VBUDGETs that issue in one cycle the lower place goes first (R74), and
so it does of task operations that could (R253). -/
def State.pick (s : State) (c : Nat) : Option Nat :=
  let all := s.readies c
  let rs := match oldestLocal all with
    | some r => if r.kind = .cluster then all.filter (fun r => r.rank ≠ 3) else all
    | none => all
  match firstReady rs with
  | none => none
  | some r =>
    match r.kind with
    | .budget =>
      let x := s.m.core c
      let used := if x.slots.cycle = s.m.now then x.slots.vector else 0
      let room := min (3 - used) (x.paths.filter (· ≤ s.m.now)).length
      let picks := (sortBy (rs.filter (fun a => a.rank = 1)) (fun a b => !b.before a)).take room
      some (lowestPlace (picks.filter (fun a => a.kind = .budget)) r.place)
    | .task => some (lowestPlace (rs.filter (fun a => a.rank = 5 && a.kind = .task)) r.place)
    | _ => some r.place

/-- The place of a core whose access to another core's partition issues in this cycle, if one does. -/
def State.pickCluster (s : State) (c : Nat) : Option Nat :=
  (firstReady ((s.readies c).filter (fun r => r.kind = .cluster))).map Ready.place

/-- Where in a cycle a move stands. The issue of an access to another core's partition comes after the target's own accesses and its leaving stores, by
source core (R140, R375). -/
def State.keyOf (s : State) : Move → Nat
  | .tick => tickKey
  | .issue c p =>
    match nextOf s c p with
    | .run i sl => if sl ≠ .none ∧ s.m.wordKind c p i = .cluster then orderKey 4 c p else issueKey
    | _ => issueKey
  | .event e => eventKey e
  | _ => 0

/-! ## What must come first -/

/-- A result whose time has come on a core, or the end of a vector instruction's passes or of a YIELD: no issue of that core precedes it in
the cycle (R118, R333, R458). -/
def Team.due (now c p : Nat) (t : Team) : Option Instr :=
  if t.passes.any (fun r => decide (r.due < now)) then some (.vectorFinalPass c p)
  else if t.pend.any (fun q => q.kind = .load && decide (q.due ≤ now)) then some (.loadDataReady c p)
  else if t.pend.any (fun q => q.kind = .special && decide (q.due ≤ now)) then some (.specialFunctionReady c p)
  else if t.yielding.any (fun e => decide (e ≤ now)) then some (.yieldExpiry c p)
  else none

def Core.due (now c : Nat) (x : Core) : Option Instr := List.findSome? (fun p : Nat × Team => p.2.due now c p.1) x.teams

/-- An event of a core whose cycle is fixed and has come: an operation of the matrix engine ends or starts (R246), a CPOST is accepted (R150, R385), a
partition's fill ends (R144). -/
def State.timed (s : State) (c : Nat) (x : Core) : Option Instr :=
  if (matrixOpComplete c s.m).isSome then some (.matrixOpComplete c)
  else if (matrixOpStart c s).isSome then some (.matrixOpStart c)
  else
    match List.findSome? (fun p : Nat × Cmd =>
      if !p.2.accepted && (commandAccept c (p.1 / 64) (p.1 % 64) s).isSome then some (Instr.commandAccept c (p.1 / 64) (p.1 % 64)) else none) x.cmds with
    | some e => some e
    | none => List.findSome? (fun p : Nat × Group =>
        if p.2.filling.isSome && (partitionFillEnd c p.1 s.m).isSome then some (Instr.partitionFillEnd c p.1) else none) x.groups

/-- The first event that must happen in this cycle before its issues: the boundary of a microsecond (R321), and the timed events of the cores. -/
def State.dueFirst (s : State) : Option Instr :=
  if firstKey < s.turn then none
  else if (rampAdjust s).isSome then some .rampAdjust
  else List.findSome? (fun p : Nat × Core => s.timed p.1 p.2) s.m.cores

/-- The first core on which the scheduler can still pick a team in this cycle, and the team (R51). -/
def State.duePick (s : State) : Option (Nat × Nat) :=
  if issueKey < s.turn then none
  else List.findSome? (fun p : Nat × Core => (s.pick p.1).map (fun q => (p.1, q))) s.m.cores

/-- The first store that is performed, or has a cycle of its bank phase, in this cycle before a place in it (R207). -/
def State.dueStore (s : State) (key : Nat) : Option Instr :=
  List.findSome? (fun c : Nat × Core => List.findSome? (fun p : Nat × Team =>
    let k := orderKey 3 c.1 p.1
    if s.turn ≤ k ∧ k < key ∧ (storePerform c.1 p.1 s.m).isSome then some (.storePerform c.1 p.1) else none) c.2.teams) s.m.cores

/-- The first access to another core's partition that issues in this cycle before a place in it, by source core (R140, R375). -/
def State.dueCluster (s : State) (key : Nat) : Option (Nat × Nat) :=
  List.findSome? (fun c : Nat × Core => (s.pickCluster c.1).bind (fun p =>
    let k := orderKey 4 c.1 p
    if s.turn ≤ k ∧ k < key then some (c.1, p) else none)) s.m.cores

/-- An event at its place in the cycle. -/
def State.happens (s : State) (e : Instr) : Host.Outcome State Fault Refusal := exec e (s.reach (eventKey e))

/-- A team that the scheduler has picked issues. -/
def State.issuePicked (s : State) (q : Nat × Nat) : Host.Outcome State Fault Refusal := issueAt (s.reach (s.keyOf (.issue q.1 q.2))) q.1 q.2

/-- What must still happen in this cycle before a place in it. -/
def State.owed (s : State) (key : Nat) : Option (Host.Outcome State Fault Refusal) :=
  match if firstKey < key then s.dueFirst else none with
  | some e => some (s.happens e)
  | none =>
    match List.findSome? (fun p : Nat × Core => p.2.due s.m.now p.1) s.m.cores with
    | some e => some (s.happens e)
    | none =>
      match if issueKey < key then s.duePick else none with
      | some q => some (s.issuePicked q)
      | none =>
        match s.dueStore key with
        | some e => some (s.happens e)
        | none => (s.dueCluster key).map s.issuePicked

/-- What goes before the issue of a place in its time: an event of the cycle's beginning, a result of its core, or another team, if the scheduler
picks that one (R51). -/
def State.beforeIssue (s : State) (c p : Nat) : Option (Host.Outcome State Fault Refusal) :=
  match s.dueFirst, (s.m.core c).due s.m.now c with
  | some e, _ => some (s.happens e)
  | none, some e => some (s.happens e)
  | none, none => (s.pick c).bind (fun q => if q = p then none else some (s.issuePicked (c, q)))

/-- What goes before a move: the rest of the cycle, if its place in it has passed; what is still owed; another team, if the scheduler picks
that one (R51). -/
def State.before (s : State) (mv : Move) : Option (Host.Outcome State Fault Refusal) :=
  let key := s.keyOf mv
  if key = 0 then none
  else if key < s.turn then some ((s.owed tickKey).getD (.next s.tick))
  else
    match mv with
    | .issue c p => if key = issueKey then s.beforeIssue c p
      else match s.owed key with
        | some o => some o
        | none => (s.pickCluster c).bind (fun q => if q = p then none else some (s.issuePicked (c, q)))
    | _ => s.owed key

end Sys2Proof.Machine
end

