-- ==== Sys2Proof/Machine/Auto.lean ====
section
/-! DEFINITION. What the device does by itself when the agenda names nothing: its own events in a fixed order, the scheduler's picks among
them (R51), then the next cycle. Every such move could as well stand in the agenda, in any other order that `Order` leaves. -/

namespace Sys2Proof.Machine

/-- One event if a condition holds. -/
def when (b : Bool) (e : Instr) : List Instr := if b then [e] else []

/-- Events of a team. -/
def teamEvents (c p : Nat) (t : Team) : List Instr :=
  when (!t.passes.isEmpty) (.vectorFinalPass c p) ++
  (if t.pend.isEmpty then [] else [.loadDataReady c p, .specialFunctionReady c p]) ++
  when (!t.storeQ.isEmpty) (.storePerform c p) ++ when (!t.flight.isEmpty) (.clusterStoreAck c p) ++
  when t.yielding.isSome (.yieldExpiry c p)

/-- Elements that a data command moves in one event of the device's own choosing. -/
def autoElements : Nat := 64

/-- Events of a command. -/
def cmdEvents (c key : Nat) (x : Cmd) : List Instr :=
  let q := key / 64
  let slot := key % 64
  let own : Instr := match x.kind with
    | 0 => .copyCmd c q slot autoElements
    | 1 => .gatherCmd c q slot autoElements
    | 2 => .scatterCmd c q slot autoElements
    | 3 => .fillCmd c q slot autoElements
    | 4 => .watchCmd c q slot
    | 5 => .signalCmd c q slot
    | 6 => .copyFence c q slot
    | 7 => .flushCmd c q slot
    | _ => match cHINTOP (x.w 0) with
      | 0 => .hintPrefetchL2 c q slot
      | 1 => .hintPrefetchHome c q slot
      | 2 => .hintKeepResident c q slot
      | _ => .hintReleaseResidency c q slot
  [.commandAccept c q slot, .commandStart c q, own, .watchComplete c q slot, .commandComplete c q slot] ++
  when x.cancelling (.cancellationComplete c q slot)

/-- Events of a core. -/
def coreEvents (c : Nat) (x : Core) : List Instr :=
  List.flatMap (fun p : Nat × Team => teamEvents c p.1 p.2) x.teams ++
  when (x.dividerFree ≠ 0) (.dividerFree c) ++ when x.matRun.isSome (.matrixOpComplete c) ++ when (!x.matQ.isEmpty) (.matrixOpStart c) ++
  List.flatMap (fun p : Nat × Cmd => cmdEvents c p.1 p.2) x.cmds ++
  List.flatMap (fun p : Nat × Group => [.partitionFillEnd c p.1, .launchAccept c p.1, .groupComplete c p.1, .quantumExpiry c p.1]) x.groups ++
  x.detected.map (fun p => .errorDetected (errorBank p.1 p.2 c))

/-- The slices of a die whose sweeper has work: lines that a stalled bump waits for (R190, R191). -/
def Die.oldSlices (x : Die) : List Nat :=
  if x.stalled.isEmpty then []
  else distinct ((x.lines.filter (fun _ l => !l.rd && l.sv ≠ 0 && decide (32 ≤ (x.gen l.cls + 64 - l.gen) % 64))).keys.map (fun l => sliceOf (128 * l)))

/-- Events of a die. -/
def dieEvents (d : Nat) (x : Die) : List Instr :=
  (List.range x.msgs.length).flatMap (fun i => [.homeAcknowledge d i, .writeBack d i, .writeThrough d i, .homeAtomic d i, .rdupInvalidate d i]) ++
  (List.range x.fills.length).map (fun i => .fillReturn d i) ++ x.oldSlices.map (fun k => .sweeperVisit d k) ++
  when (!x.invQueue.isEmpty) (.tlbinvComplete d)

/-- The batch that the dispatcher hands out next: as many groups as the die takes, at most 64, in whole sets (R42). -/
def Mach.nextBatch (m : Mach) : Nat :=
  match m.served with
  | none => 0
  | some (id, g) =>
    let left := g.lrec.groups - g.next
    match m.dieOrder.find? (fun d => m.takes d id g) with
      | none => 0
      | some d => min 64 (min left (m.dieCount d id left)) / g.lrec.factor * g.lrec.factor

/-- Events of dispatch. -/
def dispatchEvents (m : Mach) : List Instr :=
  List.flatMap (fun p : Nat × LaunchQ => [.launchRecordRead p.1, .notificationPost p.1]) m.queues ++
  when (!m.faults.isEmpty) .faultRecordPost ++
  List.map (fun p : Nat × List Handed => .groupPlacement p.1) m.handed ++
  (if m.grids.isEmpty then [] else [.batchHandout m.nextBatch, .priorityPreemption]) ++
  List.flatMap (fun p : Nat × Grid => [.parkedEviction p.1, .gridStall p.1] ++ p.2.saved.map (fun r => .groupRestore p.1 r.idx)) m.grids

/-- Events of the fabric, the collectives of this device's own contexts among them. -/
def fabricEvents (s : State) : List Instr :=
  (s.m.colls.flatMap (fun k => (List.range (s.m.collsOf k.core).length).flatMap (fun i => [.collectiveAccept k.core i] ++
    (match (s.m.collsOf k.core)[i]? with
      | some j => if j.accepted && !j.windowed then [.collectiveComplete k.core i .timeout] else []
      | none => [])))) ++
  (List.range s.fab.remotes.length).flatMap (fun i => [.remoteTimeoutExpiry i, .busyRetry i]) ++
  (List.range s.fab.staged.length).map (fun i => .stagingExpiry i)

/-- Every event that the device may make by itself, in the order in which it looks at them. -/
def State.ownEvents (s : State) : List Instr :=
  List.flatMap (fun p : Nat × Core => coreEvents p.1 p.2) s.m.cores ++ List.flatMap (fun p : Nat × Die => dieEvents p.1 p.2) s.l2.dies ++
  (s.m.bumps.map (fun b => .generationBump b.die b.cls)) ++ dispatchEvents s.m ++ fabricEvents s ++
  when (!s.sys.hoDone) .handoverComplete ++ [.rampAdjust] ++ when s.sys.preqPending .powerStateEntry

/-- The first of some events that may still happen in this cycle and changes something. -/
def State.ownMove (s : State) (es : List Instr) : Option State :=
  es.findSome? (fun e =>
    if eventKey e ≠ 0 ∧ eventKey e < s.turn then none
    else
      let s := s.reach (eventKey e)
      match exec e s with
      | .next t => if t = s then none else some t
      | _ => none)

/-- The events that come after a cycle's issues and before a place in it, in the order of their places. -/
def State.lateEvents (s : State) (key : Nat) : List Instr :=
  sortBy (s.ownEvents.filter (fun e => decide (issueKey < eventKey e) && decide (eventKey e < key))) (fun a b => decide (eventKey a ≤ eventKey b))

/-- The device's own move: an event that comes before the cycle's issues, else an issue, else an event that comes after them or an access to another
core's partition, in the order of their places, else the next cycle. -/
def State.autoMove (s : State) : Host.Outcome State Fault Refusal :=
  match s.ownMove (s.ownEvents.filter (fun e => decide (eventKey e < issueKey))) with
  | some t => .next t
  | none =>
    match s.duePick with
    | some q => s.issuePicked q
    | none =>
      let q := s.dueCluster tickKey
      match s.ownMove (s.lateEvents (match q with | some q => orderKey 4 q.1 q.2 | none => tickKey)), q with
      | some t, _ => .next t
      | none, some q => s.issuePicked q
      | none, none => .next s.tick

end Sys2Proof.Machine
end

