-- ==== Sys2Proof/Machine/Step.lean ====
section
/-! DEFINITION. One step of the device, and the state whose next step runs a given instruction. -/

namespace Sys2Proof.Machine

/-- Whether an instruction of the table is an event, and no word of a program. -/
def isEvent (i : Instr) : Bool := (encode i).isNone

/-- One move. A frozen device makes none but RESET (R324). -/
def move (mv : Move) (s : State) : Host.Outcome State Fault Refusal :=
  if s.sys.frozen then
    match mv with
    | .event (.resetDevice boot) => exec (.resetDevice boot) s
    | .scanRead => .next s.scanRead
    | _ => .next s
  else
    let s := s.reach (s.keyOf mv)
    match mv with
    | .tick => .next s.tick
    | .issue c p => issueAt s c p
    | .event e => if isEvent e then exec e s else .next s
    | .hostMem pa bytes => .next (s.hostStore pa bytes)
    | .remoteAnswer peer core key elem code value => .next (s.answered peer core key elem code value)
    | .upset core tile w => .next (s.upset core tile w)
    | .sectorUpset h sector e => .next (s.sectorUpset h sector e)
    | .scanRead => .next s
    | .regRead off size port => .next (s.regRead off size port)

/-- One step: what must come before the agenda's first move, which then stays; or that move; or, with no agenda, one of the device's own
choosing. -/
def step (s : State) : Host.Outcome State Fault Refusal :=
  match s.agenda with
  | mv :: rest =>
    match if s.sys.frozen then none else s.before mv with
    | some o => o
    | none => move mv { s with agenda := rest }
  | [] => if s.sys.frozen then .next s else s.autoMove

/-! ## The state that runs a given word next -/

/-- The page table of `withFetchWord`, and the address of its code: physical and virtual are the same. -/
def fetchTable : Nat := 0x10000
def fetchCode : Nat := 0x20000

/-- A word that may follow: behind REP one that it repeats, behind IMM one with an immediate field, and else NOP. -/
def follower (w : Inst) : Inst := if major w = 0x02 then 0x10000000#32 else if major w = 0x03 then 0x14000000#32 else 0#32

/-- The team that stands before a word: before a header at its clause's start, else at its clause's first word, which is the last one too
when the word ends its clause. -/
def fetchTeam (w : Inst) : Team :=
  let ends := endsWord w
  { Team.blank with pc := BitVec.ofNat 64 fetchCode, pos := if major w = 0x3F then 0 else 1, hdr := if ends then 0 else 56 }

/-- The grid and the group of that team. -/
def fetchGrid : Grid := { newGrid LaunchRec.blank 0 0 0 none 0 none false with next := 1, dies := [0] }

/-- A state whose next step fetches and runs a word: a grid of one group of one team on core 0, address space 0 mapped read-only one to one,
the word at the team's pc, and the team's issue first on the agenda. -/
def State.withFetchWord (s : State) (_nbits w : Nat) : State :=
  let w : Inst := BitVec.ofNat 32 w
  let x := s.m.core 0
  let x := { x with teams := [(0, fetchTeam w)], groups := x.groups.set 0 { Group.blank with grid := 1 }, paths := [0, 0, 0],
                    dividerFree := 0, localFree := 0, taskFree := 0, slots := { x.slots with cycle := s.m.now + 1 } }
  { s with
    m := { s.m.setCore 0 x with grids := s.m.grids.set 1 fetchGrid }
    mem := ((s.mem.writeD fetchTable (wordOf [(2, 1), (0, 2)])).writeN fetchCode 4 w.toNat).writeN (fetchCode + 4) 4 (follower w).toNat
    sys := { s.sys with asroot := s.sys.asroot.set 0 (wordOf [(0, fetchTable + 1)]), frozen := false }
    turn := 0
    agenda := .issue 0 0 :: s.agenda }

end Sys2Proof.Machine
end

