-- ==== Sys2Proof/WellFormed.lean ====
section
/-! DEFINITION. Which instructions are well formed: every field of a word has a value that the field's own
table allows whatever the state, and every argument of an event lies in the range of the units it numbers.
Checks that depend on the state (a vector register against the team's declared count, an accumulator against
NACC) are made where the instruction issues. -/

namespace Sys2Proof

/-- A format code that R97 does not reserve. -/
def formatCode (c : Nat) : Bool := c ≤ 11 || (16 ≤ c && c ≤ 21)

/-- A window code of R129. -/
def windowCode (w : Nat) : Bool := w = 0 || (8 ≤ w && w ≤ 11)

/-- A field of MODE's 19-bit value. -/
def fldv (v : BitVec 19) (lo n : Nat) : Nat := (v.extractLsb' lo n).toNat

/-- Whether an instruction is well formed. -/
def Instr.wf : Instr → Bool
  | .nop => true
  | .bra _ => true
  | .call _ => true
  | .jmpi _ => true
  | .ret => true
  | .join => true
  | .exit => true
  | .yield => true
  | .halt => true
  | .eret => true
  | .trap _ c => 1 ≤ c.toNat && c.toNat ≤ 20
  | .bkpt _ => true
  | .sysc _ => true
  | .brd _ _ => true
  | .mode e v => (!e.getLsbD 5 || (fldv v 15 4) < 12) && (!e.getLsbD 4 || (fldv v 12 3) < 6)
  | .modeReg _ _ => true
  | .rep _ _ _ _ _ => true
  | .imm _ => true
  | .hdr _ _ _ l => !l.getLsbD 0
  | .sadd _ _ _ => true
  | .ssub _ _ _ => true
  | .smul _ _ _ => true
  | .smulh _ _ _ => true
  | .smulhu _ _ _ => true
  | .sdiv _ _ _ _ => true
  | .srem _ _ _ _ => true
  | .sand _ _ _ => true
  | .sor _ _ _ => true
  | .sxor _ _ _ => true
  | .sshl _ _ _ => true
  | .sshr _ _ _ => true
  | .ssra _ _ _ => true
  | .smin _ _ _ _ => true
  | .smax _ _ _ _ => true
  | .smov _ _ => true
  | .sbfx _ _ _ _ => true
  | .sbfi _ _ _ => true
  | .sclz _ _ => true
  | .spop _ _ => true
  | .saddImm _ _ => true
  | .ssubImm _ _ => true
  | .smulImm _ _ => true
  | .sandImm _ _ => true
  | .sorImm _ _ => true
  | .sxorImm _ _ => true
  | .sshlImm _ _ => true
  | .sshrImm _ _ => true
  | .ssraImm _ _ => true
  | .sminImm _ _ _ => true
  | .smaxImm _ _ _ => true
  | .smovImm _ _ => true
  | .sli _ _ => true
  | .scmp _ _ _ _ r => r.toNat < 6
  | .ssel _ _ _ _ => true
  | .vadd _ _ _ => true
  | .vsub _ _ _ => true
  | .vmul _ _ _ => true
  | .vmulh _ _ _ => true
  | .vmin _ _ _ => true
  | .vmax _ _ _ => true
  | .vand _ _ _ => true
  | .vor _ _ _ => true
  | .vxor _ _ _ => true
  | .vshl _ _ _ => true
  | .vshr _ _ _ => true
  | .vabs _ _ => true
  | .vneg _ _ => true
  | .vnot _ _ => true
  | .vmov _ _ => true
  | .vclz _ _ => true
  | .vpop _ _ => true
  | .viota _ => true
  | .vbcast _ _ _ => true
  | .vcvt _ _ t s => formatCode t.toNat && formatCode s.toNat
  | .vsel _ _ _ _ => true
  | .vaddScalar _ _ _ => true
  | .vsubScalar _ _ _ => true
  | .vmulScalar _ _ _ => true
  | .vmulhScalar _ _ _ => true
  | .vminScalar _ _ _ => true
  | .vmaxScalar _ _ _ => true
  | .vandScalar _ _ _ => true
  | .vorScalar _ _ _ => true
  | .vxorScalar _ _ _ => true
  | .vshlScalar _ _ _ => true
  | .vshrScalar _ _ _ => true
  | .vmovScalar _ _ => true
  | .vselScalar _ _ _ _ => true
  | .vfma _ _ _ _ _ _ => true
  | .vrcp _ _ _ => true
  | .vrsq _ _ _ => true
  | .vsqrt _ _ _ => true
  | .vdiv _ _ _ _ => true
  | .vexp2 _ _ _ => true
  | .vlog2 _ _ _ => true
  | .vsin _ _ _ => true
  | .vcos _ _ _ => true
  | .vcoal _ => true
  | .vinfo _ _ => true
  | .vfree _ => true
  | .vbudget _ _ => true
  | .vrun _ _ _ => true
  | .vext _ _ _ => true
  | .vins _ _ _ => true
  | .vred _ _ o => o.toNat < 6
  | .vscan _ _ o => o.toNat < 6
  | .vperm _ _ _ => true
  | .vrot _ _ _ => true
  | .vsfc _ _ _ _ _ => true
  | .mand d a b => d.toNat < 16 && a.toNat < 16 && b.toNat < 16
  | .mor d a b => d.toNat < 16 && a.toNat < 16 && b.toNat < 16
  | .mxor d a b => d.toNat < 16 && a.toNat < 16 && b.toNat < 16
  | .mandn d a b => d.toNat < 16 && a.toNat < 16 && b.toNat < 16
  | .mnot d a => d.toNat < 16 && a.toNat < 16
  | .mmov d a => d.toNat < 16 && a.toNat < 16
  | .mcnt _ a => a.toNat < 16
  | .mfirst _ a => a.toNat < 16
  | .mset d _ _ => d.toNat < 16
  | .vcmp d _ _ _ r => d.toNat < 16 && r.toNat < 6
  | .lds _ _ _ _ v c _ => !(v && c)
  | .sts _ _ _ _ v c => !(v && c)
  | .ldt _ _ _ _ v c _ => !(v && c)
  | .stt _ _ _ _ v c => !(v && c)
  | .ldc _ _ _ _ v c _ => !(v && c)
  | .stc _ _ _ _ v c => !(v && c)
  | .ld _ _ _ _ v c _ => !(v && c)
  | .st _ _ _ _ v c => !(v && c)
  | .space _ _ => true
  | .cast _ _ w => windowCode w.toNat
  | .atom _ _ b o _ s v _ => o.toNat < 8 && (!s || o.toNat = 1 || o.toNat = 2) && (v || b.toNat = 0)
  | .fence k s => k.toNat ≠ 0 && s.toNat ≤ 9
  | .cpost _ _ _ => true
  | .cqstat _ _ => true
  | .ccancel _ => true
  | .binit _ _ => true
  | .barv _ _ => true
  | .bexp _ _ => true
  | .bwait _ _ => true
  | .btest _ _ _ => true
  | .mma _ _ _ _ _ _ _ => true
  | .mloop _ _ _ _ _ _ _ => true
  | .mzero _ f => f.toNat < 3
  | .mlda _ _ f => f.toNat < 3
  | .msta _ _ _ => true
  | .tsub _ => true
  | .ttake _ _ _ => true
  | .tdone _ => true
  | .tretry _ _ => true
  | .tcancel _ => true
  | .launch _ _ _ => true
  | .lwait _ _ => true
  | .cxa _ _ _ r _ => r.toNat < 6
  | .cxg _ _ _ _ => true
  | .cxs _ _ _ r _ => r.toNat < 6
  | .cxb _ _ _ _ => true
  | .cxt _ _ _ _ => true
  | .cxp _ _ => true
  | .xrd _ s => s.toNat ≤ 16
  | .xwr _ s => s.toNat ≤ 16
  | .time _ => true
  | .vectorFinalPass c p => c < 320 && p < 48
  | .loadDataReady c p => c < 320 && p < 48
  | .storePerform c p => c < 320 && p < 48
  | .clusterStoreAck c p => c < 320 && p < 48
  | .doorbell q tail port => q < 64 && tail < 2 ^ 16 && port < 2
  | .queuePriorityWrite q prio port => q < 64 && prio < 8 && port < 2
  | .queueOwnportMove q newPort port => q < 64 && newPort < 2 && port < 2
  | .launchRecordRead q => q < 64
  | .batchHandout _ => true
  | .groupPlacement die => die < 4
  | .partitionFillEnd c g => c < 320 && g < 16
  | .groupComplete c g => c < 320 && g < 16
  | .launchAccept c g => c < 320 && g < 16
  | .notificationPost q => q < 64
  | .faultRecordPost => true
  | .priorityPreemption => true
  | .quantumExpiry c g => c < 320 && g < 16
  | .parkedEviction grid => grid < 2 ^ 32
  | .gridStall grid => grid < 2 ^ 32
  | .hostPreemptRequest grid port => grid < 2 ^ 32 && port < 2
  | .groupRestore grid idx => grid < 2 ^ 32 && idx < 2 ^ 32
  | .commandAccept c q slot => c < 320 && q < 4 && slot < 64
  | .commandStart c q => c < 320 && q < 4
  | .copyCmd c q slot _ => c < 320 && q < 4 && slot < 64
  | .gatherCmd c q slot _ => c < 320 && q < 4 && slot < 64
  | .scatterCmd c q slot _ => c < 320 && q < 4 && slot < 64
  | .fillCmd c q slot _ => c < 320 && q < 4 && slot < 64
  | .watchCmd c q slot => c < 320 && q < 4 && slot < 64
  | .watchComplete c q slot => c < 320 && q < 4 && slot < 64
  | .signalCmd c q slot => c < 320 && q < 4 && slot < 64
  | .copyFence c q slot => c < 320 && q < 4 && slot < 64
  | .flushCmd c q slot => c < 320 && q < 4 && slot < 64
  | .hintPrefetchL2 c q slot => c < 320 && q < 4 && slot < 64
  | .hintPrefetchHome c q slot => c < 320 && q < 4 && slot < 64
  | .hintKeepResident c q slot => c < 320 && q < 4 && slot < 64
  | .hintReleaseResidency c q slot => c < 320 && q < 4 && slot < 64
  | .commandComplete c q slot => c < 320 && q < 4 && slot < 64
  | .cancellationComplete c q slot => c < 320 && q < 4 && slot < 64
  | .generationBump die cls => die < 4 && cls < 16
  | .homeAcknowledge die _ => die < 4
  | .fillReturn die _ => die < 4
  | .writeBack die _ => die < 4
  | .writeThrough die _ => die < 4
  | .homeAtomic die _ => die < 4
  | .rdupInvalidate die _ => die < 4
  | .sweeperVisit die slice => die < 4 && slice < 32
  | .scrubRead home _ => home < 8
  | .pageWalk die aspace va => die < 4 && aspace < 16 && va < 2 ^ 55
  | .replay die _ port => die < 4 && port < 2
  | .tlbinv die _ port => die < 4 && port < 2
  | .tlbinvComplete die => die < 4
  | .handoverTodevice _ port => port < 2
  | .handoverTohost _ port => port < 2
  | .handoverComplete => true
  | .fqsvcResume _ port => port < 2
  | .fqsvcCancel _ port => port < 2
  | .debugHalt c p port => c < 320 && p < 48 && port < 2
  | .debugResume c p port => c < 320 && p < 48 && port < 2
  | .debugStep c p port => c < 320 && p < 48 && port < 2
  | .snap c g port => c < 320 && g < 16 && port < 2
  | .snapReload c g => c < 320 && g < 16
  | .hostRead pa n port => pa < 2 ^ 52 && 1 ≤ n && n ≤ 4096 && port < 2
  | .hostWrite pa bytes port => pa < 2 ^ 52 && bytes.length ≤ 4096 && port < 2
  | .hostFetchadd pa n _ port => pa < 2 ^ 52 && (n = 4 || n = 8 || n = 16) && port < 2
  | .hostSwap pa n _ port => pa < 2 ^ 52 && (n = 4 || n = 8 || n = 16) && port < 2
  | .hostCas pa n _ _ port => pa < 2 ^ 52 && (n = 4 || n = 8 || n = 16) && port < 2
  | .registerWrite _ size _ port => (size = 4 || size = 8) && port < 2
  | .mcwinDefine w _ port => w < 256 && port < 2
  | .collectiveAbort w port => w < 256 && port < 2
  | .collectiveAccept c _ => c < 320
  | .collectiveComplete c _ _ => c < 320
  | .flitReceive port flit => port < 16 && flit.length = 256
  | .flitNak port seq => port < 16 && seq < 2 ^ 12
  | .remoteRequest r => (r.size = 1 || r.size = 2 || r.size = 4 || r.size = 8) && r.src < 288
  | .remoteCommit r => r.src < 288
  | .remoteTimeoutExpiry _ => true
  | .busyRetry _ => true
  | .stagingExpiry _ => true
  | .matrixOpStart c => c < 320
  | .matrixOpComplete c => c < 320
  | .rampAdjust => true
  | .powerMeasure _ => true
  | .powerRequest _ port => port < 2
  | .powerStateEntry => true
  | .resetDevice _ => true
  | .freeze => true
  | .signedUnlock _ => true
  | .provisioningCommand _ => true
  | .attestationReport _ => true
  | .errorDetected _ => true
  | .selfTestEnd _ _ => true
  | .yieldExpiry c p => c < 320 && p < 48
  | .specialFunctionReady c p => c < 320 && p < 48
  | .dividerFree c => c < 320
  | .firmwareUpdate => true

/-- An instruction that is well formed. -/
abbrev WellFormed (i : Instr) : Prop := i.wf = true

end Sys2Proof
end

