-- ==== Sys2Proof/Safety.lean ====
section
/-! DEFINITION. The terms that statements about the machine are made in: what it means that an instruction completes, what a completed
instruction leaves, what it leaves alone, and the invariant of a safe run. -/

namespace Sys2Proof.Machine

/-! ## The present team -/

/-- The team that an instruction word acts on. -/
def State.team (s : State) : Team := s.m.team

/-- The core of that team. -/
def State.core (s : State) : Core := s.m.myCore

/-- The group of that team. -/
def State.group (s : State) : Group := s.m.group

/-- The state with another present team and nothing else changed. -/
def State.withTeam (s : State) (u : Team) : State := { s with m := s.m.setTeam u }

/-- The state with another present core and nothing else changed. -/
def State.withCore (s : State) (x : Core) : State := { s with m := s.m.setCore s.m.cur.core x }

/-- An instruction word that takes a trap: the state after R276's TakeTrap on the present word. -/
def State.trapped (s : State) (cause : Nat) (info : Word) : State := { s with m := s.m.trap ⟨cause, info⟩ }

/-- The instruction completes: `exec` answers a next state, and `P` holds of it. -/
def Completes (i : Instr) (s : State) (P : State → Prop) : Prop := ∃ t, exec i s = .next t ∧ P t

/-! ## Scalar results (R415, R416) -/

/-- sD written and the team one word on. -/
def State.scalarDone (s : State) (d : Reg) (v : Word) : State := s.withTeam (s.team.ws d.toNat v).retire

/-- The same, with sD readable only from a later cycle on. -/
def State.scalarDoneAt (s : State) (d : Reg) (v : Word) (due : Nat) : State := s.withTeam ((s.team.ws d.toNat v).awaitS d.toNat due .other).retire

/-- The registers that an instruction reads as sA and sB. -/
def State.reg (s : State) (r : Reg) : Word := s.team.rs r.toNat

/-- An n-bit immediate as R329 extends it: with IMMV of a pending IMM above it, as two's complement. -/
def State.immediate {n : Nat} (s : State) (x : BitVec n) : Int :=
  match s.team.immWord with
  | some w => (fld w 0 26 ++ x).toInt
  | none => x.toInt

/-- A REL code applied to two integers (R426). -/
def related (r : Nat) (x y : Int) : Bool :=
  match r with
  | 0 => decide (x = y)
  | 1 => decide (x ≠ y)
  | 2 => decide (x < y)
  | 3 => decide (x ≤ y)
  | 4 => decide (x > y)
  | _ => decide (x ≥ y)

/-! ## What an instruction leaves alone -/

/-- Every byte of device and host memory, of every scratchpad and of every tile store reads as before, except those of scratchpads and tile
stores that `stored` names by core, tile store or scratchpad, and physical offset. -/
def BytesKept (s t : State) (stored : Nat → Bool → Nat → Prop) : Prop :=
  (∀ a, t.mem.read a = s.mem.read a) ∧
  ∀ c tile a, ¬ stored c tile a → ((t.m.core c).bytes tile).read a = ((s.m.core c).bytes tile).read a

/-- Nothing of the device but the cores has changed. -/
def OnlyCores (s t : State) : Prop := t = { s with m := { s.m with cores := t.m.cores } }

/-- Every team but the present one is as before. -/
def OtherTeamsKept (s t : State) : Prop :=
  ∀ c p, c ≠ s.m.cur.core ∨ p ≠ s.m.cur.place → t.m.teamAt c p = s.m.teamAt c p

/-- A team changed in its scalar registers, its place in the program and its awaited results at most: vector and mask registers, MODE,
STATUS, the trap registers, the clause flags, the stack and the store queue are as before. -/
def Team.SameButScalars (t u : Team) : Prop :=
  u = { t with s := u.s, pc := u.pc, pos := u.pos, repCnt := u.repCnt, repWord := u.repWord, immWord := u.immWord, pend := u.pend }

/-- A team changed in its vector registers, its place in the program, the passes and results that it awaits and its clause flags at
most. -/
def Team.SameButVectors (t u : Team) : Prop :=
  u = { t with v := u.v, pc := u.pc, pos := u.pos, repCnt := u.repCnt, repWord := u.repWord, immWord := u.immWord, pend := u.pend,
               passes := u.passes, flags := u.flags }

/-- A team changed in its mask registers, its place in the program, and the passes and results that it awaits at most. -/
def Team.SameButMasks (t u : Team) : Prop :=
  u = { t with m := u.m, pc := u.pc, pos := u.pos, repCnt := u.repCnt, repWord := u.repWord, immWord := u.immWord, pend := u.pend,
               passes := u.passes }

/-- A team changed in its place in the program at most. -/
def Team.SameButPlace (t u : Team) : Prop :=
  u = { t with pc := u.pc, pos := u.pos, repCnt := u.repCnt, repWord := u.repWord, immWord := u.immWord }

/-! ## Words of the memory behind the homes (R197, R322) -/

/-- Reads of [pa, pa + n) find nothing amiss: no poisoned sector, no error and no row under test. -/
def State.SoundAt (s : State) (pa n : Nat) : Prop :=
  s.poisoned pa n = false ∧ ∀ a, pa ≤ a → a < pa + n → s.rowStalls a = false ∧ (s.home (stackOf a)).errors.find? (sectorOf a) = none

/-! ## Words that an instruction reads from its group's partition (R142) -/

/-- None of the words at offsets is lost. -/
def State.Readable (s : State) (offs : List Nat) : Prop := ∀ o ∈ offs, s.core.uncorrectable false ((s.group.spBase + o) / 8) = false

/-- None of them is even to be rebuilt. -/
def State.Intact (s : State) (offs : List Nat) : Prop := ∀ o ∈ offs, s.core.lostWord ((s.group.spBase + o) / 8) = false

/-- The instruction reads words at offsets and changes its team to `u`, and nothing else but what the core knows of the errors that it met. -/
def ReadsWords (i : Instr) (s : State) (offs : List Nat) (u : Team) : Prop :=
  (s.Readable offs → Completes i s fun t => t.team = u ∧ OnlyCores s t ∧ OtherTeamsKept s t ∧ BytesKept s t (fun _ _ _ => False)) ∧
  (s.Intact offs → exec i s = .next (s.withTeam u))

/-- The instruction takes ECC_UNCORRECTABLE, code 20, at the first of the words at offsets that is lost, with its offset in TRAPINFO, and the errors
that it met there are noted, to be reported (R274, R322). -/
def LostWordTraps (i : Instr) (s : State) (offs : List Nat) : Prop :=
  ∀ a o b, offs = a ++ o :: b → s.Readable a → s.core.uncorrectable false ((s.group.spBase + o) / 8) = true → o < 2 ^ 20 →
    exec i s = .next { s with m := ((s.m.setCore s.m.cur.core (s.core.noteErrors s.core false [(s.group.spBase + o) / 8])).trap ⟨20, .ofNat 64 o⟩) }

/-! ## The ranges of a command (R145) -/

/-- Whether an operand's elements cover a byte of its window: the first `n` elements, or under an index list those of the rows that it names. -/
def Operand.Touches (o : Operand) (n : Nat) (rows : Option (List Nat)) (b : Int) : Prop :=
  ∃ k, (match rows with | none => k < n | some js => k < extProduct o.dims ∧ k / extProduct o.dims.dropLast ∈ js) ∧
    o.at k ≤ b ∧ b < o.at k + elemBytes o.fmt

/-- The ranges that stand for the bytes touched behind a pointer: none in device memory or with nothing touched, else their bounding interval. -/
def BoundingRange (rs : List Range) (s : Spot) (rw : Bool) (touched : Int → Prop) : Prop :=
  (s.global = true ∨ (∀ b, ¬ touched b) → rs = []) ∧
  (s.global = false → (∃ b, touched b) → ∃ lo hi : Int, touched lo ∧ touched hi ∧ (∀ b, touched b → lo ≤ b ∧ b ≤ hi) ∧
    rs = [⟨s.reach.core, s.reach.group, s.reach.tile, rw, s.reach.base + lo.toNat, s.reach.base + hi.toNat + 1⟩])

/-! ## Lanes and clauses -/

/-- Whether GuardMask of R341 holds a lane: MODE.GMASK 0 is every lane, else m[GMASK], or with GPOL set its complement. -/
def Team.guardHolds (t : Team) (l : Nat) : Bool :=
  let k := t.mode.toNat / 256 % 16
  if k = 0 then true else maskAt (t.rm k) l != t.mode.getLsbD 7

/-- A lane that is set in m0. -/
def Team.active (t : Team) (l : Nat) : Bool := maskAt (t.rm 0) l

/-- A team at a clause start: no prefix is pending there. -/
def Team.atClause (t : Team) (pc : Word) : Team := { t with pc := pc, pos := 0, repWord := none, immWord := none }

/-- A register that can hold a clause address: bits 63 to 55 and 1 to 0 are zero (R400, R421, R457). -/
def isClauseAddress (x : Word) : Prop := x.toNat < 2 ^ 55 ∧ x.toNat % 4 = 0

/-- The target of a branch word: bits 54 to 0 of its address plus four times its offset (R380). -/
def State.branchTarget (s : State) (off : BitVec 20) : Word := .ofInt 64 ((s.team.pc.toNat + 4 * s.immediate off) % (2 ^ 55 : Nat))

/-! ## Vector results (R76, R77) -/

/-- Bits of a result register: 64 for a 64-bit element type, else 32 (R63). -/
def resultWidth (wide : Bool) : Nat := if wide then 64 else 32

/-- The team's masks and vector registers are in the canonical form that R67 and R83 give every register, and it has 32 to 1,024
lanes (R36). -/
def Team.Canonical (t : Team) : Prop :=
  (32 ≤ t.lanes ∧ t.lanes ≤ 1024) ∧ (∀ k, k < 16 → maskCanonical t.lanes (t.rm k) = true) ∧ ∀ r, (t.rv r).isCanonical t.lanes = true

/-! ## A safe run -/

/-- A team whose registers are in canonical form, and with them the masks that its reconvergence stack holds (R58, R83). -/
def Team.Sound (t : Team) : Prop :=
  t.Canonical ∧ ∀ e ∈ t.stack, maskCanonical t.lanes e.saved = true ∧ maskCanonical t.lanes e.pending = true

/-- A core whose local memories and accumulators are lists in canonical form, and whose teams are sound. -/
def Core.Sound (x : Core) : Prop :=
  x.scratch.wf = true ∧ x.tile.wf = true ∧ (∀ p ∈ x.accs, p.2.mem.wf = true) ∧ ∀ p ∈ x.teams, p.2.Sound

/-- The invariant of a run: the memory behind the homes keeps its canonical form, and every core is sound. -/
def State.Inv (s : State) : Prop := s.mem.wf = true ∧ ∀ p ∈ s.m.cores, p.2.Sound

/-- A result of one run a lane would fit the team's slots (R66, R71). -/
def Team.Room (t : Team) (d : Nat) (wide : Bool) : Prop := (if wide then 2 else 1) * t.lanes ≤ t.free + (t.rv d).cost

/-- What a vector instruction with a vector result leaves: the present core occupies a datapath and holds a team `u` in which vD alone of the
registers has changed; within `em` each lane of vD holds `val`, and every other lane keeps its pattern (R76). -/
def VectorResult (s t : State) (d : Reg) (wide : Bool) (em : Nat → Bool) (val : Nat → Word) : Prop :=
  ∃ (u : Team) (paths : List Nat),
    t = s.withCore ({ s.core with paths := paths }.setTeam s.m.cur.place u) ∧
    s.team.SameButVectors u ∧
    (∀ r, r ≠ d.toNat → u.rv r = s.team.rv r) ∧
    (u.rv d.toNat).w = wide ∧
    ∀ l, l < s.team.lanes → (u.rv d.toNat).lane (resultWidth wide) l =
      if em l then cut (resultWidth wide) (val l) else (s.team.rv d.toNat).lane (resultWidth wide) l

/-- A mask of one run a lane would fit the team's slots (R66, R71). -/
def Team.RoomM (t : Team) (d : Nat) : Prop := t.lanes ≤ t.free + (t.rm d).length

/-- The pattern of a lane of an operand at the width of MODE's element type (R63, R440). -/
def Team.elem (t : Team) (v : VReg) (l : Nat) : Nat := (v.lane (fmtBits t.etype) l).toNat

/-- A scalar operand's pattern at that width. -/
def Team.scalarElem (t : Team) (r : Reg) : Nat := (t.rs r.toNat).toNat % 2 ^ fmtBits t.etype

/-- A pattern of the element type as a number: two's complement for INT types, unsigned for UINT types (R97). -/
def Team.number (t : Team) (p : Nat) : Int :=
  if t.etype < 4 ∧ 2 ^ (fmtBits t.etype - 1) ≤ p then (p : Int) - (2 ^ fmtBits t.etype : Nat) else p

/-- A number as a pattern of an integer element type: modulo 2^n, or clamped to the type's range first under SAT (R119). -/
def Team.fit (t : Team) (z : Int) : Word :=
  let n := fmtBits t.etype
  let lo : Int := if t.etype < 4 then -(2 ^ (n - 1) : Nat) else 0
  let hi : Int := if t.etype < 4 then (2 ^ (n - 1) : Nat) - 1 else (2 ^ n : Nat) - 1
  .ofInt 64 ((if t.sat then (if z < lo then lo else if hi < z then hi else z) else z) % (2 ^ n : Nat))

/-- No lane of the mask raises a flag whose trap is enabled (R117). -/
def Team.Untrapped (t : Team) (em : Nat → Bool) (lane : Nat → Nat × Nat) : Prop :=
  ∀ l, l < t.lanes → em l = true → (lane l).2 &&& t.trapEn = 0

/-- What a vector or mask instruction with a mask result leaves. -/
def MaskResult (s t : State) (d : Reg) (em : Nat → Bool) (val : Nat → Bool) : Prop :=
  ∃ (u : Team) (paths : List Nat),
    t = s.withCore ({ s.core with paths := paths }.setTeam s.m.cur.place u) ∧
    s.team.SameButMasks u ∧
    (∀ r, r ≠ d.toNat → u.rm r = s.team.rm r) ∧
    ∀ l, l < s.team.lanes → maskAt (u.rm d.toNat) l = if em l then val l else maskAt (s.team.rm d.toNat) l

/-- What a vector or mask instruction with a scalar result leaves. -/
def ScalarResult (s t : State) (d : Reg) (v : Word) : Prop :=
  ∃ (u : Team) (paths : List Nat),
    t = s.withCore ({ s.core with paths := paths }.setTeam s.m.cur.place u) ∧
    u = { s.team with s := u.s, pc := u.pc, pos := u.pos, repCnt := u.repCnt, repWord := u.repWord, immWord := u.immWord, pend := u.pend,
                      passes := u.passes } ∧
    ∀ r, u.rs r = if r = 0 then 0 else if r = d.toNat then v else s.team.rs r

/-! ## Floating results (R102, R109 to R117, R121 to R127)

What a correct result is, said of exact numbers: nothing here computes one. -/

/-- 2^k. -/
def pow2 (k : Int) : Rat := if 0 ≤ k then ((2 ^ k.toNat : Nat) : Rat) else 1 / ((2 ^ (-k).toNat : Nat) : Rat)

/-- The number without its sign. -/
def magnitude (x : Rat) : Rat := if x < 0 then -x else x

/-- Sign, exponent field and fraction field of a pattern (R102). -/
def fpSign (e p : Nat) : Bool := p.testBit (fmtBits e - 1)
def fpExp (e p : Nat) : Nat := p / 2 ^ (floatFmt e).f % 2 ^ (floatFmt e).e
def fpFrac (e p : Nat) : Nat := p % 2 ^ (floatFmt e).f

/-- Whether a pattern is a NaN, a signalling one, an infinity (R102, R104, R105): E4M3 has one NaN of each sign and E2M1 none, and neither has an
infinity. -/
def fpNaN (e p : Nat) : Bool :=
  match e with
  | 18 => false
  | 19 => fpExp e p = 15 && fpFrac e p = 7
  | 21 => p = 255
  | _ => fpExp e p = 2 ^ (floatFmt e).e - 1 && fpFrac e p ≠ 0
def fpSignalling (e p : Nat) : Bool := e ≠ 19 && e ≠ 21 && fpNaN e p && fpFrac e p < 2 ^ ((floatFmt e).f - 1)
def fpInf (e p : Nat) : Bool := e ≠ 18 && e ≠ 19 && e ≠ 21 && fpExp e p = 2 ^ (floatFmt e).e - 1 && fpFrac e p = 0

/-- The number that a finite pattern stands for, a subnormal one counted as zero under `flush` (R102, R114). -/
def fpVal (e : Nat) (flush : Bool) (p : Nat) : Rat :=
  let f := floatFmt e
  let m : Rat :=
    if fpExp e p = 0 then (if flush then 0 else (fpFrac e p : Rat) * pow2 (1 - f.bias - f.f))
    else ((2 ^ f.f + fpFrac e p : Nat) : Rat) * pow2 (fpExp e p - f.bias - f.f)
  if fpSign e p then -m else m

/-- Patterns of a format: a sign put on a pattern of sign 0, zero, the canonical NaN, the greatest finite value, infinity (R102); E4M3 and E2M1
have the greatest finite value in place of an infinity (R122). -/
def fpSigned (e : Nat) (neg : Bool) (p : Nat) : Nat := (if neg then 2 ^ (fmtBits e - 1) else 0) + p
def fpNaNOf (e : Nat) : Nat := if e = 19 then 0x7F else (2 ^ (floatFmt e).e - 1) * 2 ^ (floatFmt e).f + 2 ^ ((floatFmt e).f - 1)
def fpMaxOf (e : Nat) : Nat := if e = 18 then 7 else if e = 19 then 0x7E else (2 ^ (floatFmt e).e - 1) * 2 ^ (floatFmt e).f - 1
def fpInfOf (e : Nat) : Nat := if e = 18 ∨ e = 19 then fpMaxOf e else (2 ^ (floatFmt e).e - 1) * 2 ^ (floatFmt e).f
/-- 1.0. -/
def fpOne (e : Nat) : Nat := (floatFmt e).bias * 2 ^ (floatFmt e).f

/-- The STATUS bits of R115. -/
def sINEXACT : Nat := 1
def sUNDERFLOW : Nat := 2
def sOVERFLOW : Nat := 4
def sDIVZERO : Nat := 8
def sINVALID : Nat := 16

/-- The flags that a NaN result of these operands raises: invalid for a signalling one (R113). -/
def nanRaises (e : Nat) (ps : List Nat) : Nat := if ps.any (fpSignalling e) then sINVALID else 0

/-- An exact number, known by the rational numbers below it and above it. -/
structure Exact where
  /-- It is greater than y. -/
  above : Rat → Prop
  /-- It is less than y. -/
  below : Rat → Prop

def Exact.rat (x : Rat) : Exact := ⟨fun y => y < x, fun y => x < y⟩

/-- √x and 1/√x, for x > 0. -/
def Exact.root (x : Rat) : Exact := ⟨fun y => y < 0 ∨ y * y < x, fun y => 0 ≤ y ∧ x < y * y⟩
def Exact.recipRoot (x : Rat) : Exact := ⟨fun y => y < 0 ∨ y * y * x < 1, fun y => 0 ≤ y ∧ 1 < y * y * x⟩

/-- Whether a magnitude X between lo and lo + gap rounds to lo + gap (R99, R109, R110); `odd` says that lo's last bit is set. -/
def goesUp (md : RMode) (neg odd : Bool) (lo gap : Rat) (X : Exact) : Prop :=
  match md with
  | .rne => X.above (lo + gap / 2) ∨ (¬ X.below (lo + gap / 2) ∧ odd = true)
  | .rna => ¬ X.below (lo + gap / 2)
  | .rtz => False
  | .rup => neg = false
  | .rdn => neg = true
  | .dith t => ¬ X.below (lo + ((t : Rat) + 1) / 64 * gap)

/-- X rounded to a multiple n of 2^q. -/
def RoundsTo (md : RMode) (neg : Bool) (q : Int) (X : Exact) (n : Nat) : Prop :=
  ∃ k : Nat,
    let lo : Rat := k * pow2 q
    ¬ X.below lo ∧ X.below (lo + pow2 q) ∧ (¬ X.above lo → n = k) ∧
    (X.above lo → (goesUp md neg (k % 2 = 1) lo (pow2 q) X → n = k + 1) ∧ (¬ goesUp md neg (k % 2 = 1) lo (pow2 q) X → n = k))

/-- The mode that rounds a value whose neighbour away from zero does not exist: RNE in place of DITH (R110). -/
def TopMode (beyond : Prop) (md md' : RMode) : Prop :=
  ((beyond ∧ ∃ t, md = .dith t) → md' = .rne) ∧ (¬ (beyond ∧ ∃ t, md = .dith t) → md' = md)

/-- A magnitude X > 0 rounded once to a floating format: pattern and flags (R109, R110, R114 to R116, R122). Tininess is judged on the value rounded
with the exponent unbounded below. -/
def Rounded (e : Nat) (md : RMode) (flush neg : Bool) (X : Exact) (res : Nat × Nat) : Prop :=
  let p := floatFmt e
  let least : Rat := pow2 (1 - p.bias)
  let most : Rat := fpVal e false (fpMaxOf e)
  ∃ (top : Int) (md' : RMode) (n n' : Nat),
    let q : Int := max (top - p.f) (1 - p.bias - p.f)
    let v : Rat := n * pow2 q
    let inexact : Prop := X.above v ∨ X.below v
    let tiny : Prop := (n' : Rat) * pow2 (top - p.f) < least
    let toward : Prop := md' = .rtz ∨ (md' = .rup ∧ neg = true) ∨ (md' = .rdn ∧ neg = false)
    ¬ X.below (pow2 top) ∧ X.below (pow2 (top + 1)) ∧ TopMode (X.above most) md md' ∧
    RoundsTo md' neg q X n ∧ RoundsTo md' neg (top - p.f) X n' ∧
    (most < v → (toward → res = (fpSigned e neg (fpMaxOf e), sOVERFLOW + sINEXACT)) ∧ (¬ toward → res = (fpSigned e neg (fpInfOf e), sOVERFLOW + sINEXACT))) ∧
    (v ≤ most → flush = true → v < least → res = (fpSigned e neg 0, sUNDERFLOW + sINEXACT)) ∧
    (v ≤ most → (flush = true → least ≤ v) →
      res.1 < 2 ^ fmtBits e ∧ fpSign e res.1 = neg ∧ fpNaN e res.1 = false ∧ fpInf e res.1 = false ∧ magnitude (fpVal e false res.1) = v ∧
      (¬ inexact → res.2 = 0) ∧ (inexact → tiny → res.2 = sUNDERFLOW + sINEXACT) ∧ (inexact → ¬ tiny → res.2 = sINEXACT))

/-- An exact sum z of parts, not all of them zero; a sum that is exactly zero is +0, or −0 under RDN, and a sum of zeros of one sign keeps it. -/
def SumRounded (e : Nat) (md : RMode) (flush : Bool) (a b : Rat) (na nb : Bool) (res : Nat × Nat) : Prop :=
  (a + b ≠ 0 → Rounded e md flush (a + b < 0) (.rat (magnitude (a + b))) res) ∧
  (a + b = 0 → res = (fpSigned e (if a = 0 ∧ na = nb then na else decide (md = .rdn)) 0, 0))

/-- p plus c times q, in one rounding (R87; c is 1 in an addition). -/
def SumOf (e : Nat) (md : RMode) (flush : Bool) (p q c : Nat) (res : Nat × Nat) : Prop :=
  let np := fpSign e p
  let nq := fpSign e q
  if fpNaN e p || fpNaN e q then res = (fpNaNOf e, nanRaises e [p, q])
  else if fpInf e p && fpInf e q then res = if np = nq then (fpSigned e np (fpInfOf e), 0) else (fpNaNOf e, sINVALID)
  else if fpInf e p then res = (fpSigned e np (fpInfOf e), 0)
  else if fpInf e q then res = (fpSigned e nq (fpInfOf e), 0)
  else SumRounded e md flush (fpVal e flush p) (c * fpVal e flush q) np nq res

/-- p × q (R116). -/
def ProductOf (e : Nat) (md : RMode) (flush : Bool) (p q : Nat) (res : Nat × Nat) : Prop :=
  let a := fpVal e flush p
  let b := fpVal e flush q
  let neg := fpSign e p != fpSign e q
  if fpNaN e p || fpNaN e q then res = (fpNaNOf e, nanRaises e [p, q])
  else if fpInf e p || fpInf e q then
    res = if (!fpInf e p && a = 0) || (!fpInf e q && b = 0) then (fpNaNOf e, sINVALID) else (fpSigned e neg (fpInfOf e), 0)
  else if a * b = 0 then res = (fpSigned e neg 0, 0)
  else Rounded e md flush neg (.rat (magnitude (a * b))) res

/-- ±p × q + c in one rounding (R116, R450). -/
def FusedOf (e : Nat) (md : RMode) (flush negP : Bool) (p q c : Nat) (res : Nat × Nat) : Prop :=
  let a := fpVal e flush p
  let b := fpVal e flush q
  let neg := (fpSign e p != fpSign e q) != negP
  let nc := fpSign e c
  if (fpInf e p && !fpNaN e q && !fpInf e q && b = 0) || (fpInf e q && !fpNaN e p && !fpInf e p && a = 0) then res = (fpNaNOf e, sINVALID)
  else if fpNaN e p || fpNaN e q || fpNaN e c then res = (fpNaNOf e, nanRaises e [p, q, c])
  else if fpInf e p || fpInf e q then
    res = if fpInf e c && nc != neg then (fpNaNOf e, sINVALID) else (fpSigned e neg (fpInfOf e), 0)
  else if fpInf e c then res = (fpSigned e nc (fpInfOf e), 0)
  else SumRounded e md flush (if negP then -(a * b) else a * b) (fpVal e flush c) neg nc res

/-- p / q (R116, R127). -/
def QuotientOf (e : Nat) (md : RMode) (flush : Bool) (p q : Nat) (res : Nat × Nat) : Prop :=
  let a := fpVal e flush p
  let b := fpVal e flush q
  let neg := fpSign e p != fpSign e q
  if fpNaN e p || fpNaN e q then res = (fpNaNOf e, nanRaises e [p, q])
  else if fpInf e p then res = if fpInf e q then (fpNaNOf e, sINVALID) else (fpSigned e neg (fpInfOf e), 0)
  else if fpInf e q then res = (fpSigned e neg 0, 0)
  else if b = 0 then res = if a = 0 then (fpNaNOf e, sINVALID) else (fpSigned e neg (fpInfOf e), sDIVZERO)
  else if a = 0 then res = (fpSigned e neg 0, 0)
  else Rounded e md flush neg (.rat (magnitude (a / b))) res

/-- √p (R127). -/
def RootOf (e : Nat) (md : RMode) (flush : Bool) (p : Nat) (res : Nat × Nat) : Prop :=
  let a := fpVal e flush p
  if fpNaN e p then res = (fpNaNOf e, nanRaises e [p])
  else if fpInf e p then res = if fpSign e p then (fpNaNOf e, sINVALID) else (fpInfOf e, 0)
  else if a = 0 then res = (fpSigned e (fpSign e p) 0, 0)
  else if a < 0 then res = (fpNaNOf e, sINVALID)
  else Rounded e md flush false (.root a) res

/-- 1/√p, rounded to nearest (R126, R127). -/
def RecipRootOf (e : Nat) (flush : Bool) (p : Nat) (res : Nat × Nat) : Prop :=
  let a := fpVal e flush p
  if fpNaN e p then res = (fpNaNOf e, nanRaises e [p])
  else if fpInf e p then res = if fpSign e p then (fpNaNOf e, sINVALID) else (0, 0)
  else if a = 0 then res = (fpSigned e (fpSign e p) (fpInfOf e), sDIVZERO)
  else if a < 0 then res = (fpNaNOf e, sINVALID)
  else Rounded e .rne flush false (.recipRoot a) res

/-- R127's row for an operand of VEXP2 that is NaN, infinite, zero or an integer. -/
def Exp2Of (e : Nat) (flush : Bool) (p : Nat) (res : Nat × Nat) : Prop :=
  let a := fpVal e flush p
  if fpNaN e p then res = (fpNaNOf e, nanRaises e [p])
  else if fpInf e p then res = if fpSign e p then (0, 0) else (fpInfOf e, 0)
  else ∀ k : Int, a = k → Rounded e .rne flush false (.rat (pow2 k)) res

/-- R127's row for an operand of VLOG2 that is NaN, infinite, zero, negative or a power of two. -/
def Log2Of (e : Nat) (flush : Bool) (p : Nat) (res : Nat × Nat) : Prop :=
  let a := fpVal e flush p
  if fpNaN e p then res = (fpNaNOf e, nanRaises e [p])
  else if fpInf e p then res = if fpSign e p then (fpNaNOf e, sINVALID) else (fpInfOf e, 0)
  else if a = 0 then res = (fpSigned e true (fpInfOf e), sDIVZERO)
  else if a < 0 then res = (fpNaNOf e, sINVALID)
  else ∀ k : Int, a = pow2 k → (k = 0 → res = (0, 0)) ∧ (k ≠ 0 → Rounded e .rne flush (k < 0) (.rat (magnitude k)) res)

/-- R127's row for an operand of VSIN, or VCOS, that is NaN, infinite or zero. -/
def TrigOf (e : Nat) (flush cos : Bool) (p : Nat) (res : Nat × Nat) : Prop :=
  if fpNaN e p then res = (fpNaNOf e, nanRaises e [p])
  else if fpInf e p then res = (fpNaNOf e, sINVALID)
  else fpVal e flush p = 0 → res = (if cos then fpOne e else fpSigned e (fpSign e p) 0, 0)

/-- The lesser, or greater, of two patterns (R121); −0 is less than +0, and a subnormal counts as a zero under `flush`. -/
def ExtremeOf (e : Nat) (flush most : Bool) (p q : Nat) (res : Nat × Nat) : Prop :=
  let shown (x : Nat) : Nat := if flush && fpExp e x = 0 then fpSigned e (fpSign e x) 0 else x
  let less (x y : Nat) : Prop := 
    if fpInf e x then fpSign e x = true ∧ ¬ (fpInf e y = true ∧ fpSign e y = true)
    else if fpInf e y then fpSign e y = false
    else fpVal e flush x < fpVal e flush y ∨ (fpVal e flush x = fpVal e flush y ∧ fpSign e x = true ∧ fpSign e y = false)
  if fpNaN e p && fpNaN e q then res = (fpNaNOf e, nanRaises e [p, q])
  else if fpNaN e p then res = (shown q, nanRaises e [p])
  else if fpNaN e q then res = (shown p, nanRaises e [q])
  else res.2 = 0 ∧ ((if most then less p q else less q p) → res.1 = shown q) ∧ (¬ (if most then less p q else less q p) → res.1 = shown p)

/-- x < y among patterns that are no NaN (R121): −0 is not less than +0, and a subnormal counts as a zero under `flush`. -/
def fpLess (e : Nat) (flush : Bool) (x y : Nat) : Prop :=
  if fpInf e x then fpSign e x = true ∧ ¬ (fpInf e y = true ∧ fpSign e y = true)
  else if fpInf e y then fpSign e y = false
  else fpVal e flush x < fpVal e flush y

/-- A REL code between two patterns (R121, R446): with a NaN only `ne` holds. -/
def fpRelated (e : Nat) (flush : Bool) (r p q : Nat) : Prop :=
  if fpNaN e p || fpNaN e q then r = 1
  else match r with
    | 0 => ¬ fpLess e flush p q ∧ ¬ fpLess e flush q p
    | 1 => fpLess e flush p q ∨ fpLess e flush q p
    | 2 => fpLess e flush p q
    | 3 => ¬ fpLess e flush q p
    | 4 => fpLess e flush q p
    | _ => ¬ fpLess e flush p q

/-- A pattern with its sign bit flipped. -/
def fpNegate (e p : Nat) : Nat := (p + 2 ^ (fmtBits e - 1)) % 2 ^ fmtBits e

/-- VABS, or with `flip` VNEG, of a pattern (R441). -/
def SignOf (e : Nat) (flush flip : Bool) (p : Nat) (res : Nat × Nat) : Prop :=
  res = if fpNaN e p then (fpNaNOf e, nanRaises e [p])
    else (fpSigned e (flip && !fpSign e p) (if flush && fpExp e p = 0 then 0 else p % 2 ^ (fmtBits e - 1)), 0)

/-- One step of a floating VRED or VSCAN (R87, R88, R453): a sum, minimum or maximum of the accumulator and c lanes of v. -/
def CombinedOf (e : Nat) (md : RMode) (flush : Bool) (op acc v c : Nat) (res : Nat × Nat) : Prop :=
  match op with
  | 0 => SumOf e md flush acc v c res
  | 1 => ExtremeOf e flush false acc v res
  | _ => ExtremeOf e flush true acc v res

/-- Whether a format is one of R100's integers, and its least and greatest. -/
def isIntFmt (c : Nat) : Bool := c < 8 || c = 16
def leastInt (c : Nat) : Int := if c < 4 || c = 16 then -(2 ^ (fmtBits c - 1) : Nat) else 0
def greatestInt (c : Nat) : Int := if c < 4 || c = 16 then (2 ^ (fmtBits c - 1) : Nat) - 1 else (2 ^ fmtBits c : Nat) - 1

/-- A pattern read as a source of a conversion: its number (R100, R102, R105), subnormals of MODE's own types flushed (R114). -/
def sourceVal (src : Nat) (flush : Bool) (p : Nat) : Rat :=
  if isIntFmt src then (if leastInt src < 0 ∧ 2 ^ (fmtBits src - 1) ≤ p then ((p : Int) - (2 ^ fmtBits src : Nat) : Int) else (p : Int) : Int)
  else if src = 21 then pow2 ((p : Int) - 127)
  else fpVal src (flush && src < 12) p

/-- R122's table for one element: a pattern of one format converted to another, O4 apart. -/
def ConversionOf (src dst : Nat) (md : RMode) (sat flush : Bool) (p : Nat) (res : Nat × Nat) : Prop :=
  let int := isIntFmt src
  let nan : Prop := int = false ∧ fpNaN src p = true
  let inf : Prop := int = false ∧ fpInf src p = true
  let x := sourceVal src flush p
  let neg : Bool := if int then decide (x < 0) else if src = 21 then false else fpSign src p
  let signalling := !int && fpSignalling src p
  if isIntFmt dst then
    let wrapped (z : Int) : Nat := (z % (2 ^ fmtBits dst : Nat)).toNat
    (nan → res = (0, sINVALID)) ∧
    (inf → res = (wrapped (if neg then leastInt dst else greatestInt dst), sINVALID)) ∧
    (int = true → ∀ z : Int, x = z →
      res = (wrapped (if sat then max (leastInt dst) (min (greatestInt dst) z) else z), 0)) ∧
    (int = false → ¬ nan → ¬ inf → ∃ (md' : RMode) (n : Nat),
      let z : Int := if neg then -(n : Int) else n
      TopMode (x < leastInt dst ∨ (greatestInt dst : Rat) < x) md md' ∧ RoundsTo md' neg 0 (.rat (magnitude x)) n ∧
      (z < leastInt dst → res = (wrapped (leastInt dst), sINVALID)) ∧ (greatestInt dst < z → res = (wrapped (greatestInt dst), sINVALID)) ∧
      (leastInt dst ≤ z → z ≤ greatestInt dst → res = (wrapped z, if x = z then 0 else sINEXACT)))
  else if dst = 21 then
    (nan → res = (0xFF, if src = 21 then 0 else sINVALID)) ∧
    (inf → res = if neg then (0xFF, sINVALID) else (0xFE, sOVERFLOW + sINEXACT)) ∧
    (¬ nan → ¬ inf → x ≤ 0 → res = (0xFF, sINVALID)) ∧
    (¬ nan → ¬ inf → 0 < x → ∃ (k : Int) (md' : RMode) (r : Int),
      pow2 k ≤ x ∧ x < pow2 (k + 1) ∧ TopMode (pow2 127 < x) md md' ∧
      (x = pow2 k → r = k) ∧
      (x ≠ pow2 k → (goesUp md' false (decide ((k + 127) % 2 ≠ 0)) (pow2 k) (pow2 k) (.rat x) → r = k + 1) ∧
        (¬ goesUp md' false (decide ((k + 127) % 2 ≠ 0)) (pow2 k) (pow2 k) (.rat x) → r = k)) ∧
      (127 < r → res = (0xFE, sOVERFLOW + sINEXACT)) ∧ (r < -127 → res = (0, sUNDERFLOW + sINEXACT)) ∧
      (-127 ≤ r → r ≤ 127 → res = ((r + 127).toNat, if x = pow2 k then 0 else sINEXACT)))
  else
    (nan → res = if dst = 18 then (0, sINVALID) else (fpNaNOf dst, if signalling then sINVALID else 0)) ∧
    (inf → res = (fpSigned dst neg (fpInfOf dst), if dst = 18 ∨ dst = 19 then sINVALID else 0)) ∧
    (¬ nan → ¬ inf → (x = 0 → res = (fpSigned dst neg 0, 0)) ∧
      (x ≠ 0 → Rounded dst md (flush && dst < 12) neg (.rat (magnitude x)) res))

/-- A vector instruction whose final pass raises no flag in STATUS (R116). -/
def NoFlags (s u : State) : Prop := ∃ due, u.team.passes = ⟨due, 0⟩ :: s.team.passes

/-- An instruction that raises flags in the lanes of `em`, each lane's result and flags as `spec` says (R79, R115 to R118). With no flag raised
whose trap is enabled it completes, `done` holds of the next state, and its final pass is to put every flag that a lane raised into STATUS. Otherwise
FP_EXCEPTION, code 12, is taken and nothing else happens: LANE is the lowest lane that raised an enabled flag, and FLAGS every enabled flag raised. -/
def RaisesFlags (s : State) (i : Instr) (em : Nat → Bool) (spec : Nat → Nat × Nat → Prop) (done : (Nat → Nat) → State → Prop) : Prop :=
  let t := s.team
  ∃ lane : Nat → Nat × Nat,
    let raised (l : Nat) : Prop := l < t.lanes ∧ em l = true ∧ (lane l).2 &&& t.trapEn ≠ 0
    let some_ (k : Nat) : Prop := ∃ l, l < t.lanes ∧ em l = true ∧ (lane l).2.testBit k = true
    (∀ l, l < t.lanes → em l = true → spec l (lane l)) ∧
    ((∀ l, ¬ raised l) → Completes i s fun u => done (fun l => (lane l).1) u ∧
      ∃ due flags, u.team.passes = ⟨due, flags⟩ :: t.passes ∧ ∀ k, flags.testBit k = true ↔ some_ k) ∧
    ∀ l flags, raised l → (∀ j, j < l → ¬ raised j) → (∀ k, flags.testBit k = true ↔ some_ k ∧ t.trapEn.testBit k = true) →
      exec i s = .next (s.trapped 12 (.ofNat 64 (l * 2 ^ 16) ||| .ofNat 64 (t.repStep * 2 ^ 6) ||| .ofNat 64 flags))

/-! ## The matrix engine (R106, R123, R124) -/

/-- A finite operand as a number. -/
def FVal.number : FVal → Rat
  | .fin neg m e => (if neg then -(m : Rat) else m) * pow2 e
  | _ => 0

/-- The sign of an operand that is no NaN. -/
def FVal.negative : FVal → Bool
  | .fin neg _ _ => neg
  | .inf neg => neg
  | .nan _ => false

def FVal.IsNaN (v : FVal) : Prop := ∃ b, v = .nan b
def FVal.IsInf (v : FVal) : Prop := ∃ b, v = .inf b

/-- A product that makes its granule's result a NaN. -/
def badProduct (p : FVal × FVal) : Prop :=
  p.1.IsNaN ∨ p.2.IsNaN ∨ (p.1.IsInf ∧ ¬ p.2.IsInf ∧ p.2.number = 0) ∨ (p.2.IsInf ∧ ¬ p.1.IsInf ∧ p.1.number = 0)

/-- An infinite product of a sign. -/
def infProduct (neg : Bool) (p : FVal × FVal) : Prop :=
  ¬ badProduct p ∧ (p.1.IsInf ∨ p.2.IsInf) ∧ (p.1.negative != p.2.negative) = neg

/-- One granule of products added to an FP32 element c (R124). -/
def GranuleOf (neg : Bool) (c : Nat) (ps : List (FVal × FVal)) (res : Nat) : Prop :=
  let nan : Prop := ∃ p ∈ ps, badProduct p
  let inf (n : Bool) : Prop := ∃ p ∈ ps, infProduct n p
  let S : Rat := (ps.map fun p => p.1.number * p.2.number).foldr (· + ·) 0
  let S' : Rat := if neg then -S else S
  (nan ∨ (inf true ∧ inf false) → res = fpNaNOf 10) ∧
  (¬ nan → ∀ n, inf n → ¬ inf (!n) →
    res = if fpNaN 10 c || (fpInf 10 c && fpSign 10 c != (n != neg)) then fpNaNOf 10 else fpSigned 10 (n != neg) (fpInfOf 10)) ∧
  (¬ nan → ¬ inf true → ¬ inf false → (S = 0 → res = c) ∧
    (S ≠ 0 → ∃ flags, if fpNaN 10 c then res = fpNaNOf 10 else if fpInf 10 c then res = c
      else SumRounded 10 .rne false (fpVal 10 false c) S' (fpSign 10 c) (decide (S' < 0)) (res, flags)))

/-- The value of an element of an O4 pair of codes (R106). -/
def o4Value (c0 c1 : Nat) (odd : Bool) : Int :=
  if c0 = 8 then (if odd then (if c1 / 8 = 1 then -1 else 1) * ((2 + c1 % 2) * 2 ^ (c1 / 2 % 4 + 2) : Nat) else 0)
  else
    let c := if odd then c1 else c0
    if c < 8 then c else if c = 8 then 0 else (c : Int) - 16

/-- A source as a conversion to O4 takes it, and whether it is invalid: a NaN counts as 0, an infinity as a value beyond every magnitude (R107). -/
def o4Source (src : Nat) (flush : Bool) (p : Nat) : Rat × Bool :=
  if !isIntFmt src && fpNaN src p then (0, true)
  else if !isIntFmt src && fpInf src p then (if fpSign src p then -(2 ^ 20) else 2 ^ 20, true)
  else (sourceVal src flush p, false)

/-- The magnitude of an outlier code's low three bits (R106). -/
def outlierOf (k : Nat) : Nat := (2 + k % 2) * 2 ^ (k / 2 + 2)

/-- An outlier magnitude that X rounds to: the least one from below it, the greatest one from above it (R107). -/
def OutlierOf (md : RMode) (neg : Bool) (X : Rat) (j : Nat) : Prop :=
  (X < outlierOf 0 → j = 0) ∧ ((outlierOf 7 : Rat) ≤ X → j = 7) ∧
  ∀ k, k < 7 → (outlierOf k : Rat) ≤ X → X < outlierOf (k + 1) →
    let up : Prop := (outlierOf k : Rat) ≠ X ∧ goesUp md neg (k % 2 = 1) (outlierOf k) (outlierOf (k + 1) - outlierOf k) (.rat X)
    (up → j = k + 1) ∧ (¬ up → j = k)

/-- R107's conversion of a pair to O4: both codes and the pair's flags. -/
def ToO4Of (m0 m1 : RMode) (x0 x1 : Rat × Bool) (c0 c1 flags : Nat) : Prop :=
  let below (x : Rat) : Bool := decide (x < 0)
  let near (n : Nat) (x : Rat) : Int := if x < 0 then -(n : Int) else n
  let invalid : Nat := if x0.2 || x1.2 then sINVALID else 0
  ∃ n0 n1 : Nat, RoundsTo m0 (below x0.1) 0 (.rat (magnitude x0.1)) n0 ∧ RoundsTo m1 (below x1.1) 0 (.rat (magnitude x1.1)) n1 ∧
    (n1 ≤ 7 → let q := max (-7) (min 7 (near n0 x0.1))
      (c0 : Int) = q % 16 ∧ (c1 : Int) = near n1 x1.1 % 16 ∧
      flags = invalid + (if q ≠ near n0 x0.1 then sOVERFLOW + sINEXACT else if x0.1 = q ∧ x1.1 = near n1 x1.1 then 0 else sINEXACT)) ∧
    (7 < n1 → ∃ j, OutlierOf m1 (below x1.1) (magnitude x1.1) j ∧ c0 = 8 ∧ c1 = (if x1.1 < 0 then 8 else 0) + j ∧
      flags = invalid + (if x0.1 ≠ 0 ∨ outlierOf 7 < magnitude x1.1 then sOVERFLOW + sINEXACT
        else if magnitude x1.1 = outlierOf j then 0 else sINEXACT))

/-! ## Segments and keys (R77, R314) -/

/-- Where a segment of a register begins or ends: at a run's end and where the execution mask changes (R87). -/
def Team.edge (t : Team) (v : VReg) (k : Nat) : Bool :=
  decide (k = 0) || decide (k = t.lanes) || (v.ends t.lanes).contains k || (decide (k < t.lanes) && t.active (k - 1) != t.active k)

/-- The lanes from lo to hi are one segment of the register. -/
def Team.oneSegment (t : Team) (v : VReg) (lo hi : Nat) : Prop :=
  lo < hi ∧ hi ≤ t.lanes ∧ t.edge v lo = true ∧ t.edge v hi = true ∧ ∀ k, lo < k → k < hi → t.edge v k = false

/-- One axis put in place of another value. -/
def putAxis (X : Nat → Nat) (i v : Nat) : Nat → Nat := fun k => if k = i then v else X k

/-- HilbertTranspose of R314 over D axes of n bits. -/
def hilbertAxes (D n : Nat) (X : Nat → Nat) : Nat → Nat :=
  let qs := (List.range (n - 1)).map fun k => 2 ^ (n - 1 - k)
  let undone := qs.foldl (fun X q => (List.range D).foldl (fun X i =>
    if X i &&& q ≠ 0 then putAxis X 0 (X 0 ^^^ (q - 1))
    else
      let t := (X 0 ^^^ X i) &&& (q - 1)
      let Y := putAxis X 0 (X 0 ^^^ t)
      putAxis Y i (Y i ^^^ t)) X) X
  let gray := (List.range (D - 1)).foldl (fun X i => putAxis X (i + 1) (X (i + 1) ^^^ X i)) undone
  let t := qs.foldl (fun t q => if gray (D - 1) &&& q ≠ 0 then t ^^^ (q - 1) else t) 0
  fun i => gray i ^^^ t

/-- A key interleaves the bits of its axes, the first axis above the others (R314). -/
def KeyOf (D n : Nat) (X : Nat → Nat) (key : Nat) : Prop :=
  key < 2 ^ (D * n) ∧ ∀ j a, j < n → a < D → key.testBit (D * j + (D - 1 - a)) = (X a).testBit j

/-! ## Group records (R95, R60, R283, R284) -/

/-- A doubleword has the given fields, each a high bit, a low bit and a value, and zeros elsewhere. -/
def Fields (w : Word) (fs : List (Nat × Nat × Nat)) : Prop :=
  ∀ i, i < 64 → w.getLsbD i = fs.any fun f => decide (f.2.1 ≤ i) && decide (i ≤ f.1) && f.2.2.testBit (i - f.2.1)

/-- Doublewords hold run slots: a value and an end lane each (R61). -/
def HoldSlots (ws : List Word) (slots : List (Nat × Nat)) : Prop :=
  ws.length = slots.length ∧ ∀ (k : Nat) (w : Word) (p : Nat × Nat), ws[k]? = some w → slots[k]? = some p → Fields w [(47, 16, p.1), (15, 0, p.2)]

/-- The slots of one value (R65). -/
def slotsOf (wide : Bool) (v : Word) (stop : Nat) : List (Nat × Nat) :=
  if wide then [(v.toNat % 2 ^ 32, stop), (v.toNat / 2 ^ 32, stop)] else [(v.toNat % 2 ^ 32, stop)]

/-- A register's tag and its slots, in the order of R65. -/
def VReg.savedAs (v : VReg) (lanes : Nat) : Nat × List (Nat × Nat) :=
  match v.shape with
  | .u x => (0, slotsOf v.w x lanes)
  | .a b st => (1, slotsOf v.w b lanes ++ slotsOf v.w st lanes)
  | .g rs => (2, rs.flatMap fun r => slotsOf v.w r.val r.stop)

/-- A mask's slots. -/
def maskSaved (rs : List MRun) : List (Nat × Nat) := rs.map fun r => (if r.bit then 1 else 0, r.stop)

/-- Doublewords are a register record (R95). -/
def IsRegRecord (ws : List Word) (mask : Bool) (reg tag : Nat) (wide : Bool) (slots : List (Nat × Nat)) : Prop :=
  ∃ h rest, ws = h :: rest ∧ HoldSlots rest slots ∧
    Fields h [(31, 16, slots.length), (15, 14, tag), (13, 13, if wide then 1 else 0), (6, 6, if mask then 1 else 0), (5, 0, reg)]

/-- Doublewords are the spill record of a stack entry (R60). -/
def IsSpill (ws : List Word) (e : StackEntry) : Prop :=
  ∃ a b rest, ws = a :: b :: rest ∧ HoldSlots rest (maskSaved e.saved ++ maskSaved e.pending) ∧
    Fields a [(63, 63, if e.reconv then 1 else 0), (54, 0, e.resume.toNat)] ∧ Fields b [(63, 32, e.saved.length), (31, 0, e.pending.length)]

/-- A galley's register records, from its doubleword 74 on, are those of a team; `more` records follow them. -/
def HoldsRegisters (rd : Nat → Word) (t : Team) (more : List (List Word)) : Prop :=
  ∃ recs : List (List Word), recs.length = 16 + t.nv ∧
    (∀ j w, (recs ++ more).flatten[j]? = some w → rd (74 + j) = w) ∧
    (∀ k ws, k < 16 → recs[k]? = some ws → IsRegRecord ws true k 0 false (maskSaved (t.rm k))) ∧
    (∀ r ws, recs[16 + r]? = some ws → IsRegRecord ws false r ((t.rv r).savedAs t.lanes).1 (t.rv r).w ((t.rv r).savedAs t.lanes).2)

/-- A galley is that of a team (R284). `headerLo` reads the low bits of the header at a clause start. -/
def GalleyOf (rd : Nat → Word) (t : Team) (headerLo : Word → BitVec 14) : Prop :=
  (t.phase = .exited → Fields (rd 0) [(63, 60, t.tid), (59, 57, 4)] ∧ ∀ k, 1 ≤ k → k < 74 → rd k = 0) ∧
  (t.phase ≠ .exited →
    let park : Nat := match t.phase with
      | .parked (.bwait _ _) | .halted (some (.bwait _ _)) => 1
      | .parked (.ttake _ _) | .halted (some (.ttake _ _)) => 2
      | .parked _ | .halted (some _) => 3
      | _ => 0
    let state : Nat := match t.phase with
      | .running => if t.yielding.isSome then 1 else 0
      | .parked _ => 2
      | .halted _ => 3
      | _ => 4
    Fields (rd 0) [(63, 60, t.tid), (59, 57, state), (49, 48, park), (40, 34, t.stack.length), (33, 17, t.allot), (16, 0, t.inUse)] ∧
    Fields (rd 1) [(54, 0, t.wordAddr.toNat)] ∧
    Fields (rd 2) ([(51, 48, t.wordPos), (45, 32, (if t.wordPos = 0 then headerLo t.wordAddr else t.hdr).toNat), (13, 8, t.repCnt)] ++
      (List.range 12).map fun f => (20 + f, 20 + f, if t.flagCount f = 0 then 0 else 1)) ∧
    [rd 3, rd 4, rd 5, rd 6, rd 7, rd 8] = [t.mode, t.status, t.trapPc, t.trapCause, t.trapInfo, t.trapVec] ∧
    (∀ h d, t.phase = .parked (.lwait h d) → rd 9 = h) ∧ (∀ r, r < 64 → rd (10 + r) = t.rs r) ∧
    ∃ spills : List (List Word), HoldsRegisters rd t spills ∧ spills.length = t.stack.length ∧
      ∀ (k : Nat) ws e, spills[k]? = some ws → t.stack.reverse[k]? = some e → IsSpill ws e)

/-- A team is the one that a galley gives back (R285, R96). -/
def GalleyGives (rd : Nat → Word) (t : Team) : Prop :=
  let state := bits (rd 0) 59 57
  let park := bits (rd 0) 49 48
  (state = 4 → t.phase = .exited ∧ t.allot = 0) ∧
  (state ≠ 4 → t.allot = bits (rd 0) 33 17 ∧ t.inUse ≤ t.allot ∧ t.stack.length = bits (rd 0) 40 34 ∧ t.pc.toNat = bits (rd 1) 54 0 ∧
    t.pos = bits (rd 2) 51 48 ∧ t.hdr.toNat = bits (rd 2) 45 32 ∧ t.repCnt = bits (rd 2) 13 8 ∧
    (∀ f, f < 12 → (t.flagCount f ≠ 0 ↔ (rd 2).getLsbD (20 + f) = true)) ∧
    (∀ i, i < 64 → t.mode.getLsbD i = (decide (i < 19) && (rd 3).getLsbD i) ∧ t.status.getLsbD i = (decide (i < 5) && (rd 4).getLsbD i)) ∧
    t.trapInfo = rd 7 ∧ (∀ r, 1 ≤ r → r < 64 → t.rs r = rd (10 + r)) ∧ HoldsRegisters rd t [] ∧
    (state ≤ 1 → t.phase = .running) ∧ (state = 3 → ∃ k, t.phase = .halted k) ∧
    (state = 2 → (park = 0 → t.phase = .running) ∧ (park = 1 → ∃ off ph, t.phase = .parked (.bwait off ph)) ∧
      (park = 2 → ∃ d e, t.phase = .parked (.ttake d e)) ∧ (park = 3 → ∃ d, t.phase = .parked (.lwait (rd 9) d))))

/-- A saved queue entry (R283): the words of its record, word 7 in progress form, CRC, identity and service, and the captured layouts. -/
def EntryOf (rd : Nat → Word) (k : Cmd) : Prop :=
  (∀ j, j < 7 → rd j = k.w j) ∧
  Fields (rd 7) [(63, 60, match k.state with | .posted => 0 | .running => 1 | .suspended => 2 | .done => 3 | .cancelled => 4),
    (59, 52, if k.state = .suspended then k.fault else 0), (51, 51, if k.hintDrop then 1 else 0), (50, 50, if k.crcBad then 1 else 0),
    (49, 49, if k.cvtInv then 1 else 0), (48, 48, if k.cvtOvf then 1 else 0), (39, 0, k.done)] ∧
  Fields (rd 8) [(63, 62, k.svc), (41, 40, k.idQueue), (39, 34, k.idSlot), (31, 0, k.crc.toNat)] ∧ (∀ j, 9 ≤ j → j < 16 → rd j = 0) ∧
  ∀ j, j < 8 → rd (16 + j) = (k.src.getD []).getD j 0 ∧ rd (24 + j) = (k.dst.getD []).getD j 0

/-- Ready order (R254): higher PRIO first, then the earlier stamp, then the lower index. -/
def ReadyBefore (prio : Nat → Nat) (a b : Nat × Nat) : Prop :=
  prio b.1 < prio a.1 ∨ (prio a.1 = prio b.1 ∧ (a.2 < b.2 ∨ (a.2 = b.2 ∧ a.1 ≤ b.1)))

/-- A slot holds the record of group g of core c, with the given commands (R283): header, range locks, held tasks, ready tasks, accumulators, queue
entries, images and galleys. -/
def RecordOf (mem : Mem) (base : Nat) (x : Core) (c g : Nat) (headerLo : Word → BitVec 14) (cmds : List Cmd) (scratch : Nat → Byte) : Prop :=
  let v := x.group g
  let r := v.lrec
  let rd (off k : Nat) : Word := mem.readD (base + off + 8 * k)
  let locks : List Lock := List.map Prod.snd (List.filter (fun p : Nat × Lock => p.2.group = g && p.2.ocore = c) x.locks)
  let teams : List Team := (x.ownTeams g).map Prod.snd
  let tag (k : Nat) : Nat := match (x.acc (v.accs.getD k 0)).tag with | .fp32 => 0 | .fp64 => 1 | .int32 => 2
  Fields (rd 0 0) [(63, 32, v.grid), (31, 0, v.idx)] ∧
  Fields (rd 0 1) [(63, 61, v.prio), (60, 55, v.queue), (54, 51, v.aspace), (50, 49, r.coloc), (48, 45, r.nacc), (44, 41, r.teams - 1), (40, 38, r.width),
    (31, 0, v.children)] ∧
  (r.nacc ≤ 8 → Fields (rd 0 2) ([(63, 55, cmds.length), (54, 47, v.spUnits), (46, 40, v.tileUnits), (39, 33, locks.length)] ++
    (List.range r.nacc).map fun k => (2 * k + 1, 2 * k, tag k))) ∧
  (∀ k, 3 ≤ k → k < 32 → rd 0 k = 0) ∧
  (∀ k, k < 64 → (locks.length ≤ k → rd 0x100 k = 0) ∧ ∀ l, locks[k]? = some l →
    Fields (rd 0x100 k) [(63, 63, 1), (62, 62, if l.tile then 1 else 0), (61, 61, if l.rw then 1 else 0), (60, 59, l.queue), (58, 53, l.slot),
      (52, 49, l.group), (40, 20, l.stop), (19, 0, l.start)]) ∧
  (∀ i t, i < 16 → teams[i]? = some t → (t.held = none → rd 0x300 i = 0) ∧ ∀ j, t.held = some j → Fields (rd 0x300 i) [(63, 63, 1), (12, 0, j)]) ∧
  (∀ i t, i < 16 → teams[i]? = some t → ∃ off : Nat, 0x1B5000 ≤ off ∧ rd 0x380 i = .ofNat 64 off ∧ GalleyOf (rd off) t headerLo) ∧
  (v.stamps.length < 8192 → ∃ ps : List (Nat × Nat), List.Perm ps v.stamps ∧ ps.Pairwise (ReadyBefore fun i => bits (x.readSp v (64 * i)) 60 58) ∧
    ∀ (k : Nat) n, ((ps.map Prod.fst) ++ [0xFFFF])[k]? = some n → mem.readN (base + 0x1000 + 2 * k) 2 = n % 65536) ∧
  (∀ k a i, k < 8 → v.accs[k]? = some a → i < 16384 → mem.read (base + 0x5000 + 16384 * k + i) = (x.acc a).mem.read i) ∧
  (∀ (k : Nat) d, k < 256 → cmds[k]? = some d → EntryOf (rd (0x25000 + 256 * k)) d) ∧
  (∀ i, v.spUnits ≤ 128 → i < 4096 * v.spUnits → mem.read (base + 0x35000 + i) = scratch (v.spBase + i)) ∧
  (∀ i, v.tileUnits ≤ 64 → i < 16384 * v.tileUnits → mem.read (base + 0xB5000 + i) = x.tile.read (v.tileBase + i))

/-! ## Local accesses (R136, R405) -/

/-- Lane l's window offset of a local access (R405): the base, the immediate offset, and the lane's signed 32-bit offset under VO. -/
def laneOffset (s : State) (base : Int) (b : Reg) (v : Bool) (l : Nat) : Int :=
  base + s.team.localOff v b + (if v then (((s.team.rv b.toNat).lane 32 l).setWidth 32).toInt else 0)

/-- What R136 asks of one access of n bytes at a window offset: aligned, within the partition, no range lock that was registered before this cycle hit (R147), and no write to word 0 of a live
task control block. -/
def accessAllowed (s : State) (r : Reach) (n : Nat) (write : Bool) (o : Int) : Prop :=
  o % (n : Int) = 0 ∧ 0 ≤ o ∧ o + n ≤ r.limit ∧
  lockHit ((s.m.core r.core).seenLocks s.m.now) r.tile r.group (r.rel o) n write = none ∧
  (write = true → r.tile = false → tcbHit ((s.m.core r.core).group r.group) (r.rel o) n = none)

end Sys2Proof.Machine
end

