-- ==== Sys2Proof/Certificates/Slice0/Obligations.lean ====
section
/-! DEFINITION. The statements about the machine, one definition each. -/

open Sys2Proof Sys2Proof.Machine

/-! ## Encoding -/

/-- R327, R349 to R372: the word that the encoder gives a well-formed instruction decodes to that instruction, every operand at every value. -/
def Obligations.EncodedWordsDecode : Prop :=
  ∀ (i : Instr) (w : Inst), WellFormed i → encode i = some w → decode w = .ok i

/-- R327, R349 to R372: a word that decodes to an instruction is the word that the encoder gives it, so no two words stand for one
instruction and no bit of a word is dropped. -/
def Obligations.DecodedWordsEncode : Prop :=
  ∀ (i : Instr) (w : Inst), decode w = .ok i → encode i = some w

/-- The example encodings that R329, R335, R340, R423, R441 and the reference chapters print decode to the instructions they stand for, and a
word of a reserved major opcode, 0x1F to 0x3E (R349, R350), names no instruction and is rejected as unassigned. -/
def Obligations.PrintedWordsDecode : Prop :=
  decode 0x10304200#32 = .ok (.sadd 3 1 2) ∧
  decode 0x14403FF8#32 = .ok (.saddImm 4 (-8)) ∧
  decode 0x144B4064#32 = .ok (.sminImm 4 true 100) ∧
  decode 0x1473DFFF#32 = .ok (.smovImm 7 0x1FFF) ∧
  decode 0x10324013#32 = .ok (.spop 3 9) ∧
  decode 0x0C012345#32 = .ok (.imm 0x12345) ∧
  decode 0x18467890#32 = .ok (.sli 4 0x67890) ∧
  decode 0x08000383#32 = .ok (.rep true true true false 3) ∧
  decode 0x07055000#32 = .ok (.mode 0x30 0x55000) ∧
  ∀ w : Inst, 0x1F ≤ major w → major w ≤ 0x3E → decode w = .illegal

/-! ## The step -/

/-- A step whose next move is the issue of the team that the scheduler picks, with nothing to come before it in the cycle, and whose next word
decodes to an instruction `i` that issues in slot `sl`, runs `exec i` with that team as the present one, and then counts the slot as used; a
vector instruction's operands are kept until its final pass (R438). An access to another core's partition has its place after the other issues of the
cycle (R140). A fetch that meets an error of a sector reads it first (R197). Where the scheduler picks another team of the core, that one issues first. Of
the teams whose words would issue in one slot it picks the greatest age, and of equal ages the lowest place (R51); VBUDGETs of one cycle go by place
(R74), and so do task operations (R253).
MODEL'S CHOICE: The agenda, the present team and the order among what falls in one cycle are the model's (log entries 1, 3 and 147). -/
def Obligations.StepRunsDecodedWord : Prop :=
  ∀ (s : State) (c p : Nat),
    (∀ (rest : List Move), s.agenda = .issue c p :: rest → s.sys.frozen = false →
      let key := s.keyOf (.issue c p)
      let here : State := { s.reach key with agenda := rest }
      s.turn ≤ key →
      ((key = issueKey ∧ s.dueFirst = none ∧ (s.m.core c).due s.m.now c = none ∧ s.pick c = some p) ∨
        (key ≠ issueKey ∧ s.owed key = none ∧ s.pickCluster c = some p) →
        (∀ (i : Instr) (sl : Slot), nextOf s c p = .run i sl → s.fetchErrs c p = false →
          let t := s.m.teamAt c p
          step s =
            match exec i { here with m := { s.m with cur := ⟨c, p⟩ } } with
            | .next u => .next { u with m := (if sl = .vector then u.m.holdReads t.passes.length (t.needs i sl) c p else u.m).issued c p sl }
            | .fault f => .fault f
            | .refused r => .refused r) ∧
        (nextOf s c p ≠ .wait → s.fetchErrs c p = true →
          let read := here.readEach (s.fetchesOf c p)
          step s = read.issueNext c p (nextAt read c p))) ∧
      (key = issueKey → s.dueFirst = none → (s.m.core c).due s.m.now c = none → ∀ q, s.pick c = some q → q ≠ p →
        step s = issueAt (s.reach issueKey) c q)) ∧
    ∀ (i j : Instr) (sl : Slot) (q : Nat), (List.map Prod.fst (s.m.core c).teams).Nodup → s.pick c = some p → nextOf s c p = .run i sl → (s.m.core c).teams.has q = true →
      nextOf s c q = .run j sl → q ≠ p →
      let age (k : Nat) : Nat := (s.m.teamAt c k).age
      let task (k : Instr) : Prop := (∃ a, k ∈ [Instr.tsub a, .tdone a, .tcancel a]) ∨ (∃ a b, k = .tretry a b) ∨ ∃ a b w, k = .ttake a b w
      ((∀ d a, i ≠ .vbudget d a) → ¬ task i → age q < age p ∨ (age q = age p ∧ p < q)) ∧
      (task i → task j → p < q) ∧
      ((∃ d a, i = .vbudget d a) → (∃ d a, j = .vbudget d a) → age q = age p → p < q)

/-- What a team that may go on issues. At a clause start the word at its pc must be a header, which waits for the flags that it names (R330, R331).
Inside a clause it is the word at its pc, in a clause that it does not overrun, whose registers are ready and whose slot is free. Under a pending IMM it is a
word with an immediate; under a pending REP it is the word whose selected fields are moved on by the repeat counter, none once the counter is past
the last step, and RESERVED_FIELD where a field leaves its register class (R335 to R338, R418, R419). A prefix issues when the word behind it could. A fetch that reads a row under test waits (R322).
MODEL'S CHOICE: The memory that an instruction is fetched from, and that a fetch waits for a row under test, are the model's choice (log entries 12 and 13). -/
def Obligations.NextWordIsAtThePc : Prop :=
  ∀ (s : State) (c p : Nat) (w v : Inst),
    let x := s.m.core c
    let t := x.team p
    let fetched (k : Nat) (z : Inst) : Prop := fetchWord s (x.group t.group).aspace (t.pc + .ofNat 64 (4 * k)) = .ok z
    let issues (n : Next) : Prop := nextOf s c p = n
    let plain (z : Inst) : Prop := major z ≠ 0x02 ∧ major z ≠ 0x03 ∧ major z ≠ 0x3F
    let code (z : Inst) : Nat := z.toNat / 2 ^ 20 % 64
    let placed (z : Inst) (k : Nat) : Prop := t.pos + k ≤ t.len + 1 ∧
      (major z = 0 → (1 ≤ code z ∧ code z ≤ 9) ∨ (16 ≤ code z ∧ code z < 32) → t.pos + k = t.len + 1)
    let ready (i : Instr) (z : Inst) : Prop :=
      (t.needs i (slotOfMajor (major z))).all (fun r => !t.pending s.m.now r) = true ∧ t.heldBack s.m.now i = false ∧
      instrReady s.m c p i = true ∧ x.slotFree s.m.now (slotOfMajor (major z)) = true
    let repeats (z : Inst) (d a b : Bool) : Prop := ((0x04 ≤ major z ∧ major z ≤ 0x17) ∨ major z = 0x1E) ∧
      ∃ i, decode z = .ok i ∧ (d = true → (useOf i).d = true) ∧ (a = true → (useOf i).a = true) ∧ (b = true → (useOf i).b = true)
    let field (lo : Nat) : Nat := w.toNat / 2 ^ lo % 64
    (s.fetchStalls c p = true → issues .wait) ∧
    (s.fetchStalls c p = false → s.m.mayIssue c p = true → fetched 0 w →
    (t.pos = 0 →
      (major w ≠ 0x3F → issues (.headTrap 3 w 0)) ∧
      (∀ flags a b l, decode w = .ok (.hdr flags a b l) →
        ((∀ f, f < 12 → flags.getLsbD f = true → t.flagCount f = 0) → issues (.run (.hdr flags a b l) .none)) ∧
        ((∃ f, f < 12 ∧ flags.getLsbD f = true ∧ t.flagCount f ≠ 0) → issues .wait))) ∧
    (t.pos ≠ 0 → plain w → placed w 0 →
      (t.repWord = none → ∀ i, decode w = .ok i → (t.immWord ≠ none → (useOf i).imm = true) → ready i w →
        issues (.run i (slotOfMajor (major w)))) ∧
      (∀ r two d a b n, t.repWord = some r → decode r = .ok (.rep two d a b n) →
        (n.toNat < t.repCnt → issues .skip) ∧
        (t.repCnt ≤ n.toNat → repeats w d a b → (t.immWord ≠ none → ∀ i, decode w = .ok i → (useOf i).imm = true) →
          let k := t.repCnt * (if two then 2 else 1)
          let on (sel : Bool) : Nat := if sel then k else 0
          ((d = true ∧ 64 ≤ field 20 + k) ∨ (a = true ∧ 64 ≤ field 14 + k) ∨ (b = true ∧ 64 ≤ field 8 + k) → issues (.trap ⟨2, r.setWidth 64⟩)) ∧
          (field 20 + on d < 64 → field 14 + on a < 64 → field 8 + on b < 64 →
            v.toNat = w.toNat + on d * 2 ^ 20 + on a * 2 ^ 14 + on b * 2 ^ 8 →
            ∀ i, decode v = .ok i → ready i v → issues (.run i (slotOfMajor (major w))))))) ∧
    (t.pos ≠ 0 → t.repWord = none → t.immWord = none → fetched 1 v → plain v → placed v 1 → ∀ i, decode v = .ok i → ready i v →
      (∀ k, decode w = .ok (.imm k) → (useOf i).imm = true → issues (.run (.imm k) .none)) ∧
      ∀ two d a b n, decode w = .ok (.rep two d a b n) → t.repCnt = 0 → repeats v d a b → issues (.run (.rep two d a b n) .none)))

/-! ## Reset and memory -/

/-- What the spec's Reset columns give after a reset: priority quantum 20, fault queue of 2^6 records, remote timeout code 8, 6 retries, no
launch queue enabled with its ring of 2^4 records, its port that of its number, no team, group or grid, SEC provisioning on a device never
provisioned, device memory all zero.
MODEL'S CHOICE: That SYSSTAT.SEC is 0, and that device memory that nothing has written reads as zero, is the model's choice (log entries 7 and 10). -/
def Obligations.ResetState : Prop :=
  State.reset.sys.quantum = 20 ∧ State.reset.sys.fqLog2 = 6 ∧ State.reset.sys.rto = 8 ∧ State.reset.sys.retries = 6 ∧
  State.reset.sys.ctlPort = 0 ∧ State.reset.sys.dbg = 0 ∧ State.reset.sys.sec = 0 ∧ State.reset.sys.pstate = 0 ∧
  (∀ q, q < 64 → (State.reset.m.queue q).enable = false ∧ (State.reset.m.queue q).log2 = 4 ∧ (State.reset.m.queue q).head = 0 ∧
    (State.reset.m.queue q).tail = 0 ∧ (State.reset.m.queue q).ownPort = q / 32) ∧
  (∀ c, (State.reset.m.core c).teams = [] ∧ (State.reset.m.core c).groups = [] ∧ (State.reset.m.core c).cmds = []) ∧
  State.reset.m.grids = [] ∧ ∀ a, State.reset.mem.read a = 0

/-- The invariant holds after reset.
MODEL'S CHOICE: That memories are lists in canonical form is the model's own (log entry 10). -/
def Obligations.InvariantAtReset : Prop := State.reset.Inv

/-- Every step keeps the invariant, whatever the agenda holds and whatever the device chooses: device and host memory, every scratchpad, tile store and
accumulator stay lists in canonical form, and of every team the lanes stay 32 to 1,024 and the mask registers, the vector registers and the masks of the
held stack entries stay in the canonical form of R67 and R83.
MODEL'S CHOICE: That memories are lists in canonical form, and the agenda, are the model's own (log entries 1 and 10). -/
def Obligations.StepKeepsInvariant : Prop :=
  ∀ s t : State, s.Inv → step s = .next t → t.Inv

/-- R129: no instruction word reaches device memory, a die L2, a home, the fabric or the I/O dies; it changes what the cores and dispatchers
hold and nothing else. -/
def Obligations.WordsReachNoDeviceMemory : Prop :=
  ∀ (i : Instr) (s t : State), (encode i).isSome = true → exec i s = .next t →
    t = { s with m := t.m } ∧ ∀ a, t.mem.read a = s.mem.read a

/-! ## Scalar instructions -/

/-- R423: the one-cycle functions of the register form; u(x) is the pattern read as unsigned and s(x) as two's complement. R423, R329: those of the
immediate form, whose second source is the immediate, extended with IMMV of a pending IMM, and R429's SLI. -/
def Obligations.ScalarFunctions : Prop :=
  ∀ (s : State) (d a b : Reg) (i : BitVec 14) (l : BitVec 20) (u : Bool),
    let z := s.reg d
    let x := s.reg a
    let y := s.reg b
    let k := s.immediate i
    let n : Word := .ofInt 64 k
    exec (.sadd d a b) s = .next (s.scalarDone d (.ofInt 64 (x.toInt + y.toInt))) ∧
    exec (.ssub d a b) s = .next (s.scalarDone d (.ofInt 64 (x.toInt - y.toInt))) ∧
    exec (.sand d a b) s = .next (s.scalarDone d (.ofNat 64 (x.toNat &&& y.toNat))) ∧
    exec (.sor d a b) s = .next (s.scalarDone d (.ofNat 64 (x.toNat ||| y.toNat))) ∧
    exec (.sxor d a b) s = .next (s.scalarDone d (.ofNat 64 (x.toNat ^^^ y.toNat))) ∧
    exec (.sshl d a b) s = .next (s.scalarDone d (if 64 ≤ y.toNat then 0 else .ofNat 64 (x.toNat * 2 ^ y.toNat))) ∧
    exec (.sshr d a b) s = .next (s.scalarDone d (if 64 ≤ y.toNat then 0 else .ofNat 64 (x.toNat / 2 ^ y.toNat))) ∧
    exec (.ssra d a b) s = .next (s.scalarDone d (.ofInt 64 (x.toInt / (2 ^ min y.toNat 63 : Nat)))) ∧
    exec (.smin d a b u) s = .next (s.scalarDone d
      (if u then .ofNat 64 (min x.toNat y.toNat) else .ofInt 64 (min x.toInt y.toInt))) ∧
    exec (.smax d a b u) s = .next (s.scalarDone d
      (if u then .ofNat 64 (max x.toNat y.toNat) else .ofInt 64 (max x.toInt y.toInt))) ∧
    exec (.smov d a) s = .next (s.scalarDone d x) ∧
    exec (.saddImm d i) s = .next (s.scalarDone d (.ofInt 64 (z.toInt + k))) ∧
    exec (.ssubImm d i) s = .next (s.scalarDone d (.ofInt 64 (z.toInt - k))) ∧
    exec (.sandImm d i) s = .next (s.scalarDone d (.ofNat 64 (z.toNat &&& n.toNat))) ∧
    exec (.sorImm d i) s = .next (s.scalarDone d (.ofNat 64 (z.toNat ||| n.toNat))) ∧
    exec (.sxorImm d i) s = .next (s.scalarDone d (.ofNat 64 (z.toNat ^^^ n.toNat))) ∧
    exec (.sshlImm d i) s = .next (s.scalarDone d (if k < 0 ∨ 64 ≤ k then 0 else .ofNat 64 (z.toNat * 2 ^ k.toNat))) ∧
    exec (.sshrImm d i) s = .next (s.scalarDone d (if k < 0 ∨ 64 ≤ k then 0 else .ofNat 64 (z.toNat / 2 ^ k.toNat))) ∧
    exec (.ssraImm d i) s = .next (s.scalarDone d
      (.ofInt 64 (if k < 0 ∨ 63 ≤ k then (if z.toInt < 0 then -1 else 0) else z.toInt / (2 ^ k.toNat : Nat)))) ∧
    exec (.sminImm d u i) s = .next (s.scalarDone d
      (if u then .ofNat 64 (min z.toNat n.toNat) else .ofInt 64 (min z.toInt k))) ∧
    exec (.smaxImm d u i) s = .next (s.scalarDone d
      (if u then .ofNat 64 (max z.toNat n.toNat) else .ofInt 64 (max z.toInt k))) ∧
    exec (.smovImm d i) s = .next (s.scalarDone d n) ∧
    exec (.sli d l) s = .next (s.scalarDone d (.ofInt 64 (s.immediate l)))

/-- R423, R416: the multiplications, whose result is readable 4 cycles after issue. R428: SDIV and SREM. With a divisor that is not zero, the
quotient toward zero, and the remainder with the dividend's sign, readable after 24 cycles, for which the core's divider is occupied; −2^63 / −1
gives −2^63 and the remainder 0. A zero divisor raises DIV_ZERO, code 11, with TRAPINFO 0, even when the destination is s0. -/
def Obligations.ScalarProductsAndQuotients : Prop :=
  ∀ (s : State) (d a b : Reg) (i : BitVec 14) (u : Bool),
    let x := s.reg a
    let y := s.reg b
    let due := s.m.now + 4
    let late := s.m.now + 24
    let done (v : Word) : State := s.withCore ({ s.core with dividerFree := late }.setTeam s.m.cur.place
      ((s.team.ws d.toNat v).awaitS d.toNat late .divider).retire)
    exec (.smul d a b) s = .next (s.scalarDoneAt d (.ofInt 64 (x.toInt * y.toInt)) due) ∧
    exec (.smulh d a b) s = .next (s.scalarDoneAt d (.ofInt 64 (x.toInt * y.toInt / (2 ^ 64 : Nat))) due) ∧
    exec (.smulhu d a b) s = .next (s.scalarDoneAt d (.ofNat 64 (x.toNat * y.toNat / 2 ^ 64)) due) ∧
    exec (.smulImm d i) s = .next (s.scalarDoneAt d (.ofInt 64 ((s.reg d).toInt * s.immediate i)) due) ∧
    (y ≠ 0 → exec (.sdiv d a b u) s = .next (done (if u then .ofNat 64 (x.toNat / y.toNat) else .ofInt 64 (x.toInt.tdiv y.toInt))) ∧
      exec (.srem d a b u) s = .next (done (if u then .ofNat 64 (x.toNat % y.toNat) else .ofInt 64 (x.toInt.tmod y.toInt)))) ∧
    (y = 0 → exec (.sdiv d a b u) s = .next (s.trapped 11 0) ∧ exec (.srem d a b u) s = .next (s.trapped 11 0))

/-- R425: SBFX and SBFI with the field that sB names: LEN_M1 in bits 11 to 6, POS in bits 5 to 0. R423's SCLZ and SPOP: the number of leading
zero bits, and of set bits, of a 64-bit pattern. -/
def Obligations.ScalarBitFields : Prop :=
  ∀ (s : State) (d a b : Reg),
    let x := s.reg a
    let c := (s.reg b).toNat
    let pos := c % 64
    let len := c / 64 % 64 + 1
    let z : Int := x.toInt / (2 ^ pos : Nat) % (2 ^ len : Nat)
    let mask : Nat := 2 ^ len - 1
    exec (.sbfx d a b true) s = .next (s.scalarDone d (.ofNat 64 (x.toNat / 2 ^ pos % 2 ^ len))) ∧
    exec (.sbfx d a b false) s = .next (s.scalarDone d (.ofInt 64 (if z < (2 ^ (len - 1) : Nat) then z else z - (2 ^ len : Nat)))) ∧
    exec (.sbfi d a b) s = .next (s.scalarDone d
      ((s.reg d &&& ~~~(.ofNat 64 (mask * 2 ^ pos))) ||| .ofNat 64 (x.toNat % 2 ^ len * 2 ^ pos))) ∧
    (∃ n, n ≤ 64 ∧ x.toNat < 2 ^ (64 - n) ∧ (n < 64 → 2 ^ (63 - n) ≤ x.toNat) ∧ exec (.sclz d a) s = .next (s.scalarDone d (.ofNat 64 n))) ∧
    exec (.spop d a) s = .next (s.scalarDone d (.ofNat 64 ((List.range 64).countP x.getLsbD)))

/-- R426, R427: SCMP with its six relations, on two's complement or unsigned patterns, for which U has no effect under eq and ne; relations 6 and 7
raise ILLEGAL_OPCODE, and a word of SCMP with a nonzero bit in 6 to 4 raises RESERVED_FIELD. SSEL tests all 64 bits of sC. -/
def Obligations.ScalarCompareAndSelect : Prop :=
  ∀ (s : State) (d a b c : Reg) (u : Bool) (r : BitVec 3),
    let x := s.reg a
    let y := s.reg b
    (r.toNat < 6 → exec (.scmp d a b u r) s = .next (s.scalarDone d
      (if (if u then related r.toNat x.toNat y.toNat else related r.toNat x.toInt y.toInt) then 1 else 0))) ∧
    (6 ≤ r.toNat → ∃ w, encode (.scmp d a b u r) = some w ∧ exec (.scmp d a b u r) s = .next (s.trapped 1 (w.setWidth 64))) ∧
    (r.toNat < 2 → exec (.scmp d a b true r) s = exec (.scmp d a b false r) s) ∧
    (∀ w : Inst, w.toNat / 2 ^ 26 = 7 → w.toNat / 2 ^ 7 % 2 = 0 →
      (6 ≤ w.toNat % 8 → issueDecoded w = .trap ⟨1, w.setWidth 64⟩) ∧
      (w.toNat % 8 < 6 → w.toNat / 2 ^ 4 % 8 ≠ 0 → issueDecoded w = .trap ⟨2, w.setWidth 64⟩)) ∧
    exec (.ssel d a b c) s = .next (s.scalarDone d (if s.reg c ≠ 0 then x else y))

/-- R415: what every instruction of the scalar chapter, whose words have the major opcodes 4 to 7, leaves alone when it takes no trap: SDIV and SREM trap
on a zero divisor and SCMP on a REL of 6 or 7. Its destination sD, bits 25 to 20 of the word, apart, no scalar register changes, and s0 reads as zero; at most
one result more is awaited; vector and mask registers, MODE, STATUS, the trap registers, the flags, the stack and the store queue stay, and so do every other
team, every byte of memory and all of the core but the divider, which SDIV and SREM occupy for 24 cycles. -/
def Obligations.ScalarFrame : Prop :=
  ∀ (i : Instr) (w : Inst) (s t : State), encode i = some w → 4 ≤ w.toNat / 2 ^ 26 → w.toNat / 2 ^ 26 ≤ 7 → exec i s = .next t →
    let d := w.toNat / 2 ^ 20 % 64
    let divides : Prop := ∃ a b c u, i = .sdiv a b c u ∨ i = .srem a b c u
    (∀ a b c u, i = .sdiv a b c u ∨ i = .srem a b c u → s.reg c ≠ 0) → (∀ a b c u r, i = .scmp a b c u r → r.toNat < 6) →
    ∃ (u : Team) (n : Nat) (v : Word),
      t = s.withCore ({ s.core with dividerFree := n }.setTeam s.m.cur.place u) ∧
      (divides → n = s.m.now + 24) ∧ (¬ divides → n = s.core.dividerFree) ∧
      s.team.SameButScalars u ∧ (∀ r, u.rs r = if r = 0 then 0 else if r = d then v else s.team.rs r) ∧
      (u.pend = s.team.pend ∨ ∃ due k, u.pend = ⟨.scalar, d, due, k, none⟩ :: s.team.pend) ∧
      OnlyCores s t ∧ OtherTeamsKept s t ∧ BytesKept s t (fun _ _ _ => False)

/-! ## Control -/

/-- R337, R331: how a team goes on when a word is done. Without a REP it stands at the next word, at position 0 after the clause's last one;
under a REP with steps left the same pair issues again with the counter one higher; after the last step the counter is 0 and the next word
follows. R417, R335, R338, R330: NOP changes no state but the team's place; REP and IMM are kept for the word that follows, with the address of the
pair's first prefix; a header with bits 2 to 0 zero starts its clause at its first word.
MODEL'S CHOICE: That a header with its low bits clear issues as a word, and the place a prefix holds, are read as log entries 15 and 20 say. -/
def Obligations.NopPrefixesAndHeaderComplete : Prop :=
  ∀ (s : State),
    let t := s.team
    let next : Team := { t with pc := t.pc + 4, pos := if t.pos = t.hdr.toNat / 8 % 8 + 1 then 0 else t.pos + 1, repWord := none, immWord := none }
    (t.repWord = none → t.retire = next) ∧
    (∀ w, t.repWord = some w →
      (t.repCnt < w.toNat % 64 → t.retire = { t with repCnt := t.repCnt + 1 }) ∧
      (w.toNat % 64 ≤ t.repCnt → t.retire = { next with repCnt := 0 })) ∧
    exec .nop s = .next (s.withTeam s.team.retire) ∧
    (∀ p d a b n, Completes (.rep p d a b n) s fun t => ∃ u, t = s.withTeam u ∧
      u.repWord = encode (.rep p d a b n) ∧ u.immWord = s.team.immWord ∧ u.pc = s.team.pc + 4 ∧
      (s.team.repWord = none → s.team.immWord = none → u.prefixPc = s.team.pc ∧ u.prefixPos = s.team.pos) ∧
      u = { s.team with repWord := u.repWord, pc := u.pc, pos := u.pos, prefixPc := u.prefixPc, prefixPos := u.prefixPos }) ∧
    (∀ v, Completes (.imm v) s fun t => ∃ u, t = s.withTeam u ∧
      u.immWord = encode (.imm v) ∧ u.repWord = s.team.repWord ∧ u.pc = s.team.pc + 4 ∧
      (s.team.repWord.isSome = true → u.prefixPc = s.team.prefixPc ∧ u.prefixPos = s.team.prefixPos) ∧
      u = { s.team with immWord := u.immWord, pc := u.pc, pos := u.pos, prefixPc := u.prefixPc, prefixPos := u.prefixPos }) ∧
    ∀ w a b (l : BitVec 4), l.toNat % 2 = 0 → ∃ h : Inst, encode (.hdr w a b l) = some h ∧
      exec (.hdr w a b l) s = .next (s.withTeam { s.team with hdr := h.setWidth 14, pos := 1, pc := s.team.pc + 4 })

/-- R380, R382, R400, R421: BRA goes to its target when MODE.GMASK is 0 or some active lane holds the guard, else to the next clause; CALL leaves
the next clause's address in s62; JMPI and RET go to the address in their register, and raise RESERVED_FIELD with their word when it is none. -/
def Obligations.BranchesComplete : Prop :=
  ∀ (s : State) (off : BitVec 20) (a : Reg), s.team.Canonical →
    let next := s.team.pc + 4
    let taken := s.team.mode.toNat / 256 % 16 = 0 ∨ ∃ l, l < s.team.lanes ∧ s.team.active l = true ∧ s.team.guardHolds l = true
    (taken → exec (.bra off) s = .next (s.withTeam (s.team.atClause (s.branchTarget off)))) ∧
    (¬ taken → exec (.bra off) s = .next (s.withTeam (s.team.atClause next))) ∧
    exec (.call off) s = .next (s.withTeam ((s.team.ws 62 next).atClause (s.branchTarget off))) ∧
    (isClauseAddress (s.reg a) → exec (.jmpi a) s = .next (s.withTeam (s.team.atClause (s.reg a)))) ∧
    (¬ isClauseAddress (s.reg a) → ∃ w, encode (.jmpi a) = some w ∧ exec (.jmpi a) s = .next (s.trapped 2 (w.setWidth 64))) ∧
    (isClauseAddress (s.reg 62) → exec .ret s = .next (s.withTeam (s.team.atClause (s.reg 62)))) ∧
    (¬ isClauseAddress (s.reg 62) → exec .ret s = .next (s.trapped 2 0x400000))

/-- R58, R381: a BRD with slots for the masks it leaves. Its taken lanes are those of m0 that m[K] and the guard hold; they run on from the target, or, if
there are none, all of m0 goes on behind the clause. The entry keeps m0, the other lanes and the next clause, and is an ELSE entry when both sides have
lanes. R59, R60: with 32 entries held the oldest one, whose slots are free with that, goes to the spill area of the team's private area as a spill record,
and nothing else of memory changes; where its record would end beyond the limit, the offset that a private pointer in s63 names within the area or else the
area's end, the BRD raises STACK_SPILL_FAULT, code 13, with the end that it needs.
MODEL'S CHOICE: That the spill writes memory past the team's queued stores is read as log entry 40 says. -/
def Obligations.DivergingBranch : Prop :=
  ∀ (s : State) (k : BitVec 4) (off : BitVec 20), s.team.Canonical →
    let t := s.team
    let taken (l : Nat) : Bool := t.active l && maskAt (t.rm k.toNat) l && t.guardHolds l
    let rest (l : Nat) : Bool := t.active l && !taken l
    let someTaken := ∃ l, l < t.lanes ∧ taken l = true
    let someRest := ∃ l, l < t.lanes ∧ rest l = true
    let splits (u : Team) (e : StackEntry) : Prop :=
      (∀ r, r ≠ 0 → u.rm r = t.rm r) ∧
      e.saved = t.rm 0 ∧ e.resume = t.pc + 4 ∧ (∀ l, l < t.lanes → maskAt e.pending l = rest l) ∧
      (e.reconv = false ↔ someTaken ∧ someRest) ∧
      (someTaken → u.pc = s.branchTarget off ∧ ∀ l, l < t.lanes → u.active l = taken l) ∧
      (¬ someTaken → u.pc = t.pc + 4 ∧ ∀ l, l < t.lanes → u.active l = t.active l)
    let area := s.group.lrec.priv * 256
    let p := (s.reg 63).toNat
    let limit := if 2 ^ 63 ≤ p ∧ p < 2 ^ 63 + 2 ^ 19 ∧ p ≤ 2 ^ 63 + area then p - 2 ^ 63 else area
    (t.stack.length < 32 → 3 * t.lanes ≤ t.free + (t.rm 0).length → Completes (.brd k off) s fun n => ∃ (u : Team) (e : StackEntry),
      n = s.withTeam u ∧ u = { t.atClause u.pc with m := u.m, stack := e :: t.stack } ∧ splits u e) ∧
    ∀ (o : StackEntry) (es : List StackEntry), t.stack = es ++ [o] → es.length = 31 →
      let size := 16 + 8 * (o.saved.length + o.pending.length)
      let at_ := s.group.spBase + s.group.privBase t.tid + t.spillEnd
      (limit < t.spillEnd + size → exec (.brd k off) s = .next (s.trapped 13 (.ofNat 64 (t.spillEnd + size)))) ∧
      (t.spillEnd + size ≤ limit → 3 * t.lanes ≤ t.free + (t.rm 0).length + o.saved.length + o.pending.length →
        Completes (.brd k off) s fun n => ∃ (u : Team) (e : StackEntry) (ws : List Word),
          n.team = u ∧ u = { t.atClause u.pc with m := u.m, stack := e :: es, spilled := t.spillEnd :: t.spilled, spillEnd := t.spillEnd + size } ∧
          splits u e ∧ IsSpill ws o ∧ ws.length = size / 8 ∧ (∀ j w, ws[j]? = some w → n.core.scratch.readD (at_ + 8 * j) = w) ∧
          OnlyCores s n ∧ OtherTeamsKept s n ∧ BytesKept s n (fun c tile a => c = s.m.cur.core ∧ tile = false ∧ at_ ≤ a ∧ a < at_ + size))

/-- R58, R401: JOIN with no entry held or spilled raises STACK_SPILL_FAULT, code 13, with TRAPINFO 0. JOIN with an entry held: a RECONV entry is popped: m0
becomes the saved mask and the team goes on behind the clause. An ELSE entry, when its pending mask's slots fit, becomes RECONV: m0 becomes the pending mask
and the team resumes where the entry says. R60: with none held, the entry of the most recent spill record is held first, when its words can be read and
its slots fit, and the JOIN goes on with it; a record with reserved bits set or runs beyond the private area raises code 13 with bit 63 and its
group-relative offset. No byte of memory changes.
MODEL'S CHOICE: That a JOIN reads the spill record as memory stands is read as log entry 40 says. -/
def Obligations.JoinCompletes : Prop :=
  (∀ (s : State), s.team.stack = [] → s.team.spilled = [] → exec .join s = .next (s.trapped 13 0)) ∧
  (∀ (s : State) (e : StackEntry) (es : List StackEntry), s.team.stack = e :: es →
    (e.reconv = true → exec .join s = .next (s.withTeam
      { s.team.atClause (s.team.pc + 4) with m := s.team.m.set 0 e.saved, stack := es })) ∧
    (e.reconv = false → e.pending.length ≤ s.team.free + (s.team.rm 0).length → exec .join s = .next (s.withTeam
      { s.team.atClause e.resume with m := s.team.m.set 0 e.pending, stack := { e with reconv := true } :: es }))) ∧
  ∀ (s : State) (off : Nat) (older : List Nat), s.team.stack = [] → s.team.spilled = off :: older → s.team.Canonical →
    let t := s.team
    let rel := s.group.privBase t.tid + off
    let rd (j : Nat) : Word := s.core.readSp s.group (rel + 8 * j)
    let room := s.group.lrec.priv * 256 - off
    let runs := (rd 1).toNat / 2 ^ 32 + (rd 1).toNat % 2 ^ 32
    (∀ j, s.core.uncorrectable false ((s.group.spBase + rel + 8 * j) / 8) = false) →
    ((rd 0).toNat / 2 ^ 55 % 256 ≠ 0 ∨ room < 16 + 8 * runs → exec .join s = .next (s.trapped 13 (.ofNat 64 (2 ^ 63) ||| .ofNat 64 rel))) ∧
    ∀ (e : StackEntry) (ws : List Word), IsSpill ws e → (∀ j w, ws[j]? = some w → rd j = w) → e.resume.toNat < 2 ^ 55 →
      maskCanonical t.lanes e.saved = true → maskCanonical t.lanes e.pending = true → 8 * ws.length ≤ room →
      e.saved.length + e.pending.length ≤ t.free →
      (e.reconv = true ∨ e.saved.length + 2 * e.pending.length ≤ t.free + (t.rm 0).length → Completes .join s fun n =>
        n.team = (if e.reconv then { t.atClause (t.pc + 4) with m := t.m.set 0 e.saved, stack := [], spilled := older, spillEnd := off }
          else { t.atClause e.resume with m := t.m.set 0 e.pending, stack := [{ e with reconv := true }], spilled := older, spillEnd := off }) ∧
        OnlyCores s n ∧ OtherTeamsKept s n ∧ BytesKept s n (fun _ _ _ => False))

/-- R394, R397, R458: EXIT by a team that holds no task ends it: its state is EXITED, its stack entries are gone and its registers stay; with the
last of its group's teams the group starts to drain. HALT does the same unless a debugger is attached to the core, when the team is halted at the
next clause. YIELD stays away from the next clause for the 64 cycles after it issues.
MODEL'S CHOICE: From which cycle YIELD's 64 cycles count is read as log entry 21 says. -/
def Obligations.TeamsEndAndWait : Prop :=
  ∀ (s : State), s.team.held = none →
    (Completes .exit s fun t => ∃ x, t = s.withCore x ∧
      x.team s.m.cur.place = { s.team with phase := .exited, stack := [], held := none, repWord := none, immWord := none } ∧
      (∀ p, p ≠ s.m.cur.place → x.team p = s.core.team p) ∧ x.scratch = s.core.scratch ∧ x.tile = s.core.tile ∧
      (s.group.phase = .resident → (∀ p q, (p, q) ∈ s.core.teams → q.group = s.team.group → p ≠ s.m.cur.place → q.phase = .exited) →
        (x.group s.team.group).phase = .draining)) ∧
    (s.core.attach = false → exec .halt s = exec .exit s) ∧
    (s.core.attach = true → exec .halt s = .next (s.withTeam { s.team.atClause (s.team.pc + 4) with phase := .halted none })) ∧
    exec .yield s = .next (s.withTeam { s.team.atClause (s.team.pc + 4) with yielding := some (s.m.now + 65) })

/-- R340, R339: MODE with an immediate and MODE with a register change the groups that WE selects and no other bit; a value with an element type
of 12 or more or a rounding of 6 or more raises RESERVED_FIELD with the word and leaves MODE as it was. -/
def Obligations.ModeWrites : Prop :=
  ∀ (s : State) (we : BitVec 6) (v : BitVec 19) (r : Reg),
    let selected (i : Nat) : Bool :=
      (decide (15 ≤ i ∧ i ≤ 18) && we.getLsbD 5) || (decide (12 ≤ i ∧ i ≤ 14) && we.getLsbD 4) || (decide (7 ≤ i ∧ i ≤ 11) && we.getLsbD 3) ||
      (decide (i = 6) && we.getLsbD 2) || (decide (i = 5) && we.getLsbD 1) || (decide (i ≤ 4) && we.getLsbD 0)
    let written (from_ : Nat → Bool) (new : Word) : Prop := ∀ i, i < 64 → new.getLsbD i = if selected i then from_ i else s.team.mode.getLsbD i
    let legal (new : Word) : Prop := new.toNat / 2 ^ 15 % 16 < 12 ∧ new.toNat / 2 ^ 12 % 8 < 6
    (∃ new, written v.getLsbD new ∧ (legal new → exec (.mode we v) s = .next (s.withTeam { s.team with mode := new }.retire)) ∧
      (¬ legal new → ∃ w, encode (.mode we v) = some w ∧ exec (.mode we v) s = .next (s.trapped 2 (w.setWidth 64)))) ∧
    (∃ new, written (s.reg r).getLsbD new ∧ (legal new → exec (.modeReg we r) s = .next (s.withTeam { s.team with mode := new }.retire)) ∧
      (¬ legal new → ∃ w, encode (.modeReg we r) = some w ∧ exec (.modeReg we r) s = .next (s.trapped 2 (w.setWidth 64))))

/-! ## Traps -/

/-- R276, R263: what taking a trap does to a team with a handler set that is not in it. TRAPPC and CPOS name the present word, or the first prefix of
its pair, HDRLO holds the clause's header, CAUSE and TRAPINFO the trap; ACTIVE is set and the team stands at its handler's clause. A RUNNING task that
it holds becomes FAULTED with the trap's code in FAULT, unless the trap is BREAKPOINT or SYSCALL. Every other register, the repeat counter included, every
other team and every other byte stay.
MODEL'S CHOICE: What CPOS is after an ERET to a position above 8 is the model's choice (log entry 23). -/
def Obligations.TrapGoesToHandler : Prop :=
  ∀ (s : State) (cause : Nat) (info : Word), cause < 256 →
    s.team.trapCause.getLsbD 63 = false → s.team.trapVec ≠ 0 →
    let t := s.trapped cause info
    let u := t.team
    let g := s.group
    let word (i : Nat) : Nat := (s.core.readSp g (64 * i)).toNat
    let faulted (i : Nat) : Prop := s.team.held = some i ∧ word i / 2 ^ 61 = 3 ∧ cause ≠ 15 ∧ cause ≠ 16
    u.trapPc = s.team.wordAddr ∧ u.trapInfo = info ∧ u.pc = s.team.trapVec ∧ u.pos = 0 ∧
    (∃ q, (s.team.wordPos ≤ 8 → q = s.team.wordPos) ∧ (8 < s.team.wordPos → 1 ≤ q ∧ q ≤ 8) ∧
      u.trapCause = .ofNat 64 (2 ^ 63 + q * 2 ^ 48 + s.team.hdr.toNat * 2 ^ 32 + cause)) ∧
    u = { s.team with trapPc := u.trapPc, trapCause := u.trapCause, trapInfo := u.trapInfo, trapClause := u.trapClause, pc := u.pc, pos := u.pos,
                      repWord := none, immWord := none } ∧
    ((∀ i, ¬ faulted i) → t = s.withTeam u) ∧
    (∀ i, faulted i → t.core.readSp g (64 * i) = .ofNat 64 (5 * 2 ^ 61 + word i / 2 ^ 48 % 2 ^ 13 * 2 ^ 48 + cause * 2 ^ 40 + word i % 2 ^ 40)) ∧
    OnlyCores s t ∧ OtherTeamsKept s t ∧
    BytesKept s t (fun c tile a => c = s.m.cur.core ∧ tile = false ∧ ∃ i, faulted i ∧ g.spBase + 64 * i ≤ a ∧ a < g.spBase + 64 * i + 8)

/-- R276, R278, R263: a trap in a handler, or with TRAPVEC 0, terminates the team, which is EXITED once its clause flags are clear: one team fault record is
queued with code 16, the place of the team, the cause, the word's address, the grid and group, and TRAPINFO, and the first in a grid notifies its queue of
GRID_FAULT. With ACTIVE set the handler's saved values stay; with TRAPVEC 0 TRAPPC, CPOS, HDRLO, CAUSE and TRAPINFO are those of the trap, with ACTIVE 0.
The team's hold ends, and a RUNNING task that it held is FAULTED with the cause. No other byte and no other team changes.
MODEL'S CHOICE: What CPOS is after an ERET to a position above 8 is the model's choice (log entry 23). -/
def Obligations.TrapWithoutHandlerTerminates : Prop :=
  ∀ (s : State) (cause : Nat) (info : Word), cause < 256 →
    s.team.trapCause.getLsbD 63 = true ∨ s.team.trapVec = 0 →
    let t := s.trapped cause info
    let g := s.group
    let word (i : Nat) : Nat := (s.core.readSp g (64 * i)).toNat
    let faulted (i : Nat) : Prop := s.team.held = some i ∧ word i / 2 ^ 61 = 3
    ((∀ f, f < 12 → s.team.flagCount f = 0) → t.team.phase = .exited) ∧ ((∃ f, f < 12 ∧ s.team.flagCount f ≠ 0) → t.team.phase = .ending) ∧
    t.team.held = none ∧
    t.m.faults = s.m.faults ++ [teamFault 16 s.m.cur.core s.team.group s.m.cur.place cause s.team.wordAddr g.grid g.idx info] ∧
    (s.team.trapCause.getLsbD 63 = true → t.team.trapPc = s.team.trapPc ∧ t.team.trapCause = s.team.trapCause ∧ t.team.trapInfo = s.team.trapInfo) ∧
    (s.team.trapCause.getLsbD 63 = false → t.team.trapPc = s.team.wordAddr ∧ t.team.trapInfo = info ∧
      ∃ q, (s.team.wordPos ≤ 8 → q = s.team.wordPos) ∧ (8 < s.team.wordPos → 1 ≤ q ∧ q ≤ 8) ∧
        t.team.trapCause = .ofNat 64 (q * 2 ^ 48 + s.team.hdr.toNat * 2 ^ 32 + cause)) ∧
    (∀ k, s.m.grids.find? g.grid = some k → t.m.grids.find? g.grid = some { k with faulted := true, faultPosted := true } ∧
      (t.m.queue k.queue).notes = (s.m.queue k.queue).notes ++
        (if k.faultPosted then [] else [⟨.ofNat 64 (3 * 2 ^ 56) ||| .ofNat 64 (k.queue * 2 ^ 40) ||| .ofNat 64 g.grid, k.lrec.user⟩])) ∧
    (∀ i, faulted i → t.core.readSp g (64 * i) = .ofNat 64 (5 * 2 ^ 61 + word i / 2 ^ 48 % 2 ^ 13 * 2 ^ 48 + cause * 2 ^ 40 + word i % 2 ^ 40)) ∧
    OtherTeamsKept s t ∧
    BytesKept s t (fun c tile a => c = s.m.cur.core ∧ tile = false ∧ ∃ i, faulted i ∧ g.spBase + 64 * i ≤ a ∧ a < g.spBase + 64 * i + 8)

/-- R431, R379, R437: SYSC, BKPT and TRAP complete and then, or on their own word, take the trap they name. SYSCALL and BREAKPOINT name the word
after them; a BREAKPOINT with a debugger attached halts the team there instead. -/
def Obligations.TrapInstructionsTrap : Prop :=
  ∀ (s : State) (a : Reg) (c : BitVec 16) (n : BitVec 8), s.team.trapCause.getLsbD 63 = false → s.team.trapVec ≠ 0 →
    let after := s.team.retire
    let past (cause : Nat) (info : Word) (t : State) : Prop :=
      t.team.trapPc = after.pc ∧ t.team.trapInfo = info ∧ t.team.pc = s.team.trapVec ∧ t.team.pos = 0 ∧
      t.team.trapCause.getLsbD 63 = true ∧ t.team.trapCause.toNat % 256 = cause ∧ (after.pos ≤ 8 → t.team.trapCause.toNat / 2 ^ 48 % 16 = after.pos) ∧
      (after.pos ≠ 0 → t.team.trapCause.toNat / 2 ^ 32 % 2 ^ 14 = s.team.hdr.toNat)
    Completes (.sysc c) s (past 16 (c.setWidth 64)) ∧
    (s.core.attach = false → Completes (.bkpt c) s (past 15 (c.setWidth 64))) ∧
    (s.core.attach = true → exec (.bkpt c) s = .next (s.withTeam { after with phase := .halted none })) ∧
    (n.toNat = 16 → Completes (.trap a n) s (past 16 (s.reg a))) ∧
    (n.toNat = 15 → s.core.attach = false → Completes (.trap a n) s (past 15 (s.reg a))) ∧
    (n.toNat = 15 → s.core.attach = true → exec (.trap a n) s = .next (s.withTeam { after with phase := .halted none })) ∧
    (1 ≤ n.toNat → n.toNat ≤ 20 → n.toNat ≠ 15 → n.toNat ≠ 16 → exec (.trap a n) s = .next (s.trapped n.toNat (s.reg a))) ∧
    (n.toNat = 0 ∨ 20 < n.toNat → ∃ w, encode (.trap a n) = some w ∧ exec (.trap a n) s = .next (s.trapped 2 (w.setWidth 64)))

/-- R277, R392: ERET outside a handler raises PRIVILEGE, code 19, with TRAPINFO 0. In one it clears ACTIVE and resumes under TRAPPC, CPOS and
HDRLO, and changes no other register; with CPOS 0 it resumes at TRAPPC.
MODEL'S CHOICE: Where a CPOS other than 0 resumes is read as log entry 23 says. -/
def Obligations.ReturnFromHandler : Prop :=
  ∀ (s : State),
    (s.team.trapCause.getLsbD 63 = false → exec .eret s = .next (s.trapped 19 0)) ∧
    (s.team.trapCause.getLsbD 63 = true → Completes .eret s fun t => ∃ u, t = s.withTeam u ∧
      u.trapCause = .ofNat 64 (s.team.trapCause.toNat % 2 ^ 63) ∧
      u.pos = s.team.trapCause.toNat / 2 ^ 48 % 16 ∧ u.hdr.toNat = s.team.trapCause.toNat / 2 ^ 32 % 2 ^ 14 ∧
      (u.pos = 0 → u.pc = s.team.trapPc) ∧
      (∀ h, s.team.trapClause = some h → u.pos ≠ 0 → u.pc = h + .ofNat 64 (4 * u.pos)) ∧
      u = { s.team with trapCause := u.trapCause, pc := u.pc, pos := u.pos, hdr := u.hdr, repWord := none, immWord := none })

/-! ## System registers -/

/-- R456, R371: XRD of each of the registers 0 to 16: TEAMID, GROUPIDX, GRIDID, COREID, CLUSTERID, DIEID, LANES, DEPTH, TRAPCAUSE, TRAPPC, TRAPINFO,
TRAPVEC, STATUS, the team's allotment and free slots, CAPS and MODE. R436: TIME gives DEVTIME, readable after 4 cycles. R457, R277: XWR writes
TRAPCAUSE's CPOS and HDRLO, TRAPPC, TRAPVEC and STATUS, whose set bits it clears; a TRAPPC or TRAPVEC that is no clause address raises
RESERVED_FIELD, and every other register raises PRIVILEGE with its number.
MODEL'S CHOICE: Where an ERET resumes after a write of TRAPPC is read as log entry 23 says. -/
def Obligations.SystemRegisters : Prop :=
  ∀ (s : State) (d a : Reg),
    let reads (n : Nat) (v : Word) : Prop := exec (.xrd d (.ofNat 6 n)) s = .next (s.scalarDone d v)
    let x := s.reg a
    reads 0 (.ofNat 64 s.team.tid) ∧ reads 1 (.ofNat 64 s.group.idx) ∧ reads 2 (.ofNat 64 s.group.grid) ∧
    reads 3 (.ofNat 64 s.m.cur.core) ∧ reads 4 (.ofNat 64 (s.m.cur.core / 8)) ∧ reads 5 (.ofNat 64 (s.m.cur.core / 80)) ∧
    reads 6 (.ofNat 64 s.team.lanes) ∧ reads 7 (.ofNat 64 s.group.depth) ∧ reads 8 s.team.trapCause ∧ reads 9 s.team.trapPc ∧
    reads 10 s.team.trapInfo ∧ reads 11 s.team.trapVec ∧ reads 12 s.team.status ∧ reads 13 (.ofNat 64 s.team.allot) ∧
    reads 14 (.ofNat 64 s.team.free) ∧ reads 15 s.m.caps ∧ reads 16 s.team.mode ∧
    exec (.time d) s = .next (s.scalarDoneAt d s.m.devTime (s.m.now + 4)) ∧
    (Completes (.xwr a 8) s fun t => ∃ v : Word, t = s.withTeam { s.team with trapCause := v }.retire ∧
      ∀ i, i < 64 → v.getLsbD i = if (48 ≤ i ∧ i ≤ 51) ∨ (32 ≤ i ∧ i ≤ 45) then x.getLsbD i else s.team.trapCause.getLsbD i) ∧
    (isClauseAddress x → exec (.xwr a 9) s = .next (s.withTeam { s.team with trapPc := x, trapClause := none }.retire) ∧
      exec (.xwr a 11) s = .next (s.withTeam { s.team with trapVec := x }.retire)) ∧
    (¬ isClauseAddress x → ∀ r ∈ [(9 : Reg), 11], ∃ w, encode (.xwr a r) = some w ∧ exec (.xwr a r) s = .next (s.trapped 2 (w.setWidth 64))) ∧
    (Completes (.xwr a 12) s fun t => ∃ v : Word, t = s.withTeam { s.team with status := v }.retire ∧
      ∀ i, i < 64 → v.getLsbD i = (s.team.status.getLsbD i && !(decide (i < 5) && x.getLsbD i))) ∧
    ∀ r : Reg, r.toNat ≤ 16 → r ≠ 8 → r ≠ 9 → r ≠ 11 → r ≠ 12 → exec (.xwr a r) s = .next (s.trapped 19 (r.setWidth 64))

/-! ## Vector instructions -/

/-- R442, R76, R119: the binary vector functions on an integer type, vector and scalar form. x and y are the lanes' numbers and p and q their
patterns; each lane of m0 gets the result and every other lane keeps its pattern, on the affine path and on the general one. R116: no flag is raised. -/
def Obligations.VectorIntegerArithmetic : Prop :=
  ∀ (s : State) (d a b : Reg) (sc : Bool),
    let t := s.team
    let n := fmtBits t.etype
    let p (l : Nat) : Nat := t.elem (t.rv a.toNat) l
    let q (l : Nat) : Nat := if sc then t.scalarElem b else t.elem (t.rv b.toNat) l
    let x (l : Nat) : Int := t.number (p l)
    let y (l : Nat) : Int := t.number (q l)
    let gives (vector scalar : Instr) (val : Nat → Word) : Prop :=
      Completes (if sc then scalar else vector) s fun u => VectorResult s u d (n = 64) t.active val ∧ NoFlags s u
    t.Canonical → t.etype < 8 → t.Room d.toNat (n = 64) →
    d.toNat < t.nv → a.toNat < t.nv → (sc = false → b.toNat < t.nv) →
    gives (.vadd d a b) (.vaddScalar d a b) (fun l => t.fit (x l + y l)) ∧
    gives (.vsub d a b) (.vsubScalar d a b) (fun l => t.fit (x l - y l)) ∧
    gives (.vmul d a b) (.vmulScalar d a b) (fun l => t.fit (x l * y l)) ∧
    gives (.vmulh d a b) (.vmulhScalar d a b) (fun l => .ofInt 64 (x l * y l / (2 ^ n : Nat) % (2 ^ n : Nat))) ∧
    gives (.vmin d a b) (.vminScalar d a b) (fun l => .ofInt 64 (min (x l) (y l) % (2 ^ n : Nat))) ∧
    gives (.vmax d a b) (.vmaxScalar d a b) (fun l => .ofInt 64 (max (x l) (y l) % (2 ^ n : Nat))) ∧
    gives (.vand d a b) (.vandScalar d a b) (fun l => .ofNat 64 (p l &&& q l)) ∧
    gives (.vor d a b) (.vorScalar d a b) (fun l => .ofNat 64 (p l ||| q l)) ∧
    gives (.vxor d a b) (.vxorScalar d a b) (fun l => .ofNat 64 (p l ^^^ q l)) ∧
    gives (.vshl d a b) (.vshlScalar d a b) (fun l => if n ≤ q l then 0 else .ofNat 64 (p l * 2 ^ q l % 2 ^ n)) ∧
    gives (.vshr d a b) (.vshrScalar d a b)
      (fun l => .ofInt 64 ((if n ≤ q l then (if x l < 0 then -1 else 0) else x l / (2 ^ q l : Nat)) % (2 ^ n : Nat)))

/-- R442, R109, R110, R113 to R118, R121: the binary vector functions on FP16, BF16, FP32 and FP64, vector and scalar form. Sums, differences and products are
the exact value rounded once in the lane's mode; a minimum or maximum is one of its operands; AND, OR and XOR act on the patterns. A lane raises the
flags that its result says, which its final pass puts into STATUS, or, where one's trap is enabled, the instruction raises FP_EXCEPTION and does nothing.
MODEL'S CHOICE: Which results count as tiny is read as log entry 29 says. -/
def Obligations.VectorFloatArithmetic : Prop :=
  ∀ (s : State) (d a b : Reg) (sc : Bool),
    let t := s.team
    let e := t.etype
    let n := fmtBits e
    let p (l : Nat) : Nat := t.elem (t.rv a.toNat) l
    let q (l : Nat) : Nat := if sc then t.scalarElem b else t.elem (t.rv b.toNat) l
    let md (l : Nat) : RMode := rmodeAt t.round l
    let gives (vector scalar : Instr) (spec : Nat → Nat × Nat → Prop) : Prop :=
      RaisesFlags s (if sc then scalar else vector) t.active spec fun val u => VectorResult s u d (n = 64) t.active fun l => .ofNat 64 (val l)
    t.Canonical → 8 ≤ e → e < 12 → t.Room d.toNat (n = 64) →
    d.toNat < t.nv → a.toNat < t.nv → (sc = false → b.toNat < t.nv) →
    gives (.vadd d a b) (.vaddScalar d a b) (fun l => SumOf e (md l) t.flush (p l) (q l) 1) ∧
    gives (.vsub d a b) (.vsubScalar d a b) (fun l => SumOf e (md l) t.flush (p l) (fpNegate e (q l)) 1) ∧
    gives (.vmul d a b) (.vmulScalar d a b) (fun l => ProductOf e (md l) t.flush (p l) (q l)) ∧
    gives (.vmin d a b) (.vminScalar d a b) (fun l => ExtremeOf e t.flush false (p l) (q l)) ∧
    gives (.vmax d a b) (.vmaxScalar d a b) (fun l => ExtremeOf e t.flush true (p l) (q l)) ∧
    gives (.vand d a b) (.vandScalar d a b) (fun l res => res = (p l &&& q l, 0)) ∧
    gives (.vor d a b) (.vorScalar d a b) (fun l res => res = (p l ||| q l, 0)) ∧
    gives (.vxor d a b) (.vxorScalar d a b) (fun l res => res = (p l ^^^ q l, 0))

/-- R441, R440: the unary vector functions on every element type, and VMOV of a scalar register. VABS and VNEG of a signalling NaN of a floating type raise
invalid, or FP_EXCEPTION where its trap is enabled (R113, R117); nothing else raises a flag (R116). -/
def Obligations.VectorUnaryFunctions : Prop :=
  ∀ (s : State) (d a : Reg),
    let t := s.team
    let e := t.etype
    let n := fmtBits e
    let p (l : Nat) : Nat := t.elem (t.rv a.toNat) l
    let x (l : Nat) : Int := t.number (p l)
    let gives (i : Instr) (val : Nat → Word) : Prop := Completes i s fun u => VectorResult s u d (n = 64) t.active val ∧ NoFlags s u
    let signed (i : Instr) (flip : Bool) : Prop := RaisesFlags s i t.active (fun l => SignOf e t.flush flip (p l)) fun val u =>
      VectorResult s u d (n = 64) t.active fun l => .ofNat 64 (val l)
    t.Canonical → e < 12 → t.Room d.toNat (n = 64) → d.toNat < t.nv →
    (a.toNat < t.nv →
      gives (.vnot d a) (fun l => .ofNat 64 (2 ^ n - 1 - p l)) ∧
      gives (.vmov d a) (fun l => .ofNat 64 (p l)) ∧
      (e < 8 →
        gives (.vabs d a) (fun l => t.fit (if x l < 0 then -x l else x l)) ∧
        gives (.vneg d a) (fun l => t.fit (-x l)) ∧
        gives (.vclz d a) (fun l => .ofNat 64 (if p l = 0 then n else n - 1 - Nat.log2 (p l))) ∧
        gives (.vpop d a) (fun l => .ofNat 64 ((List.range n).countP fun i => (p l).testBit i))) ∧
      (8 ≤ e → signed (.vabs d a) false ∧ signed (.vneg d a) true)) ∧
    gives (.vmovScalar d a) (fun _ => .ofNat 64 (t.scalarElem a))

/-- R450, R451, R443, R454, R452, R455: VFMA, VIOTA, VBCAST, VSEL in both forms, VPERM, VROT and VSFC. VSEL alone takes the guard; VSFC's keys are 64
bits wide whatever MODE holds: a Morton key interleaves the bits of the axes, a Hilbert key those of R314's transpose of them. On a floating type VFMA rounds its
exact result once and raises that result's flags (R116 to R118).
MODEL'S CHOICE: The passes of a 64-bit VBCAST are counted as log entry 28 says, and which results count as tiny as log entry 29. -/
def Obligations.VectorMovesAndKeys : Prop :=
  ∀ (s : State) (d a b c : Reg) (k : BitVec 4) (neg negC hilbert dim3 : Bool),
    let t := s.team
    let e := t.etype
    let n := fmtBits e
    let lane (r : Reg) (l : Nat) : Nat := t.elem (t.rv r.toNat) l
    let num (r : Reg) (l : Nat) : Int := t.number (lane r l)
    let count := (t.rs b.toNat).toNat
    let guarded (l : Nat) : Bool := t.active l && t.guardHolds l
    let gives (i : Instr) (val : Nat → Word) : Prop := Completes i s (VectorResult s · d (n = 64) t.active val)
    t.Canonical → e < 12 → d.toNat < t.nv → a.toNat < t.nv →
    (t.Room d.toNat (n = 64) →
      (e < 8 → gives (.viota d) (fun l => .ofNat 64 (l % 2 ^ n))) ∧
      gives (.vbcast d a b) (fun _ => .ofNat 64 (lane a (count % t.lanes))) ∧
      gives (.vrot d a b) (fun l => .ofNat 64 (lane a ((l + count % t.lanes) % t.lanes))) ∧
      Completes (.vselScalar d a b k) s (VectorResult s · d (n = 64) guarded fun l =>
        .ofNat 64 (if maskAt (t.rm k.toNat) l then lane a l else t.scalarElem b)) ∧
      (b.toNat < t.nv →
        gives (.vperm d a b) (fun l => .ofNat 64 (lane a (((t.rv b.toNat).lane 32 l).toNat % t.lanes))) ∧
        Completes (.vsel d a b k) s (VectorResult s · d (n = 64) guarded fun l =>
          .ofNat 64 (if maskAt (t.rm k.toNat) l then lane a l else lane b l)) ∧
        (c.toNat < t.nv →
          (e < 8 → gives (.vfma d a b c neg negC) (fun l =>
            t.fit ((if neg then -(num a l * num b l) else num a l * num b l) + (if negC then -num c l else num c l)))) ∧
          (8 ≤ e → RaisesFlags s (.vfma d a b c neg negC) t.active (fun l =>
              FusedOf e (rmodeAt t.round l) t.flush neg (lane a l) (lane b l) (if negC then fpNegate e (lane c l) else lane c l)) fun val u =>
            VectorResult s u d (n = 64) t.active fun l => .ofNat 64 (val l))))) ∧
    (t.Room d.toNat true → 1 ≤ count → count ≤ 21 → a.toNat + (if dim3 then 2 else 1) < t.nv →
      let axes := if dim3 then 3 else 2
      let axis (l i : Nat) : Nat := ((t.rv (a.toNat + i)).lane 32 l).toNat % 2 ^ count
      ∃ key : Nat → Nat, (∀ l, KeyOf axes count (if hilbert then hilbertAxes axes count (axis l) else axis l) (key l)) ∧
        Completes (.vsfc d a b hilbert dim3) s fun u => VectorResult s u d true t.active (fun l => .ofNat 64 (key l)) ∧ NoFlags s u)

/-- R447, R126, R127, R448, R122: the special functions on a floating type, and VCVT between any two formats. VRCP, VRSQ, VSQRT and VDIV give the exact
value rounded once, VSQRT and VDIV in the lane's mode and the others to nearest; R127's rows say what special operands give. VCVT gives what R122's
row for the target says, an O4 source standing for the integer of its pair (R106), and an O4 target getting R107's codes of its pair, with the pair's
flags on its odd lane, or on the even one where that is not computed; one code as source and target copies the pattern. A special function is counted against the clause flag that it names. Flags
go to STATUS or raise FP_EXCEPTION (R116 to R118).
MODEL'S CHOICE: Which results count as tiny is read as log entry 29 says, and what an infinity raises into O4 or E8M0 as log entry 30; how far the bracketing of a transcendental result is carried is the model's choice (log entry 33); a result that it leaves undecided is a free value. -/
def Obligations.SpecialFunctionsAndConversions : Prop :=
  ∀ (s : State) (d a b : Reg) (fb : Bool) (target source : BitVec 5),
    let t := s.team
    let e := t.etype
    let n := fmtBits e
    let fl := t.flush
    let p (l : Nat) : Nat := t.elem (t.rv a.toNat) l
    let q (l : Nat) : Nat := t.elem (t.rv b.toNat) l
    let x (l : Nat) : FVal := operandF e fl (p l)
    let md (l : Nat) : RMode := rmodeAt t.round l
    let gives (i : Instr) (spec : Nat → Nat × Nat → Prop) : Prop := RaisesFlags s i t.active spec fun val u =>
      VectorResult s u d (n = 64) t.active (fun l => .ofNat 64 (val l)) ∧ u.team.flagCount (t.flagOf fb) = t.flagCount (t.flagOf fb) + 1
    t.Canonical → d.toNat < t.nv → a.toNat < t.nv →
    (8 ≤ e → e < 12 → t.Room d.toNat (n = 64) →
      gives (.vrcp d a fb) (fun l => QuotientOf e .rne fl (fpOne e) (p l)) ∧
      gives (.vrsq d a fb) (fun l => RecipRootOf e fl (p l)) ∧
      gives (.vsqrt d a fb) (fun l => RootOf e (md l) fl (p l)) ∧
      (b.toNat < t.nv → gives (.vdiv d a b fb) (fun l => QuotientOf e (md l) fl (p l) (q l))) ∧
      gives (.vexp2 d a fb) (fun l res => Exp2Of e fl (p l) res ∧ res = exp2F e fl (x l)) ∧
      gives (.vlog2 d a fb) (fun l res => Log2Of e fl (p l) res ∧ res = log2F e fl (x l)) ∧
      gives (.vsin d a fb) (fun l res => TrigOf e fl false (p l) res ∧ res = trigF e fl false (x l)) ∧
      gives (.vcos d a fb) (fun l res => TrigOf e fl true (p l) res ∧ res = trigF e fl true (x l))) ∧
    (let src := source.toNat
     let dst := target.toNat
     let pat (l : Nat) : Nat := ((t.rv a.toNat).lane (if fmtBits src = 64 then 64 else 32) l).toNat % 2 ^ fmtBits src
     fmtBits src ≠ 0 → fmtBits dst ≠ 0 → t.Room d.toNat (fmtBits dst = 64) →
      RaisesFlags s (.vcvt d a target source) t.active (fun l res => res = cvtLane t src dst (t.rv a.toNat) l ∧
          (src = dst → res = (pat l, 0)) ∧ (src ≠ dst → src ≠ 17 → dst ≠ 17 → ConversionOf src dst (md l) t.sat fl (pat l) res) ∧
          (src = 17 → dst ≠ 17 → ConversionOf 3 dst (md l) t.sat fl (o4Value (pat (l / 2 * 2)) (pat (l / 2 * 2 + 1)) (l % 2 = 1) % (2 ^ 64 : Nat)).toNat res) ∧
          (dst = 17 → src ≠ 17 → let j := l / 2 * 2
            ∃ c0 c1 flags, ToO4Of (md j) (md (j + 1)) (o4Source src fl (pat j)) (o4Source src fl (pat (j + 1))) c0 c1 flags ∧
              res = if l % 2 = 1 then (c1, flags) else (c0, if t.active (l + 1) then 0 else flags))) fun val u =>
        VectorResult s u d (fmtBits dst = 64) t.active fun l => .ofNat 64 (val l))

/-- R409, R84, R86, R446: the mask instructions, which compute every lane whatever m0 holds; MCNT and MFIRST; and VCMP, which computes the lanes
of m0; on a floating type VCMP raises invalid for a signalling NaN, or FP_EXCEPTION where its trap is enabled (R113, R116, R117, R121). -/
def Obligations.MaskInstructions : Prop :=
  ∀ (s : State) (d a b : Reg) (sc : Bool) (r : BitVec 3),
    let t := s.team
    let x (l : Nat) : Bool := maskAt (t.rm a.toNat) l
    let y (l : Nat) : Bool := maskAt (t.rm b.toNat) l
    let p (l : Nat) : Nat := t.elem (t.rv a.toNat) l
    let q (l : Nat) : Nat := if sc then t.scalarElem b else t.elem (t.rv b.toNat) l
    let gives (i : Instr) (val : Nat → Bool) : Prop := Completes i s (MaskResult s · d (fun _ => true) val)
    t.Canonical →
    (a.toNat < 16 →
      Completes (.mcnt d a) s (ScalarResult s · d (.ofNat 64 ((List.range t.lanes).countP x))) ∧
      (∃ f, f ≤ t.lanes ∧ (∀ l, l < f → x l = false) ∧ (f < t.lanes → x f = true) ∧
        Completes (.mfirst d a) s (ScalarResult s · d (.ofNat 64 f)))) ∧
    (d.toNat < 16 → t.RoomM d.toNat →
      gives (.mset d a b) (fun l => decide ((t.rs a.toNat).toNat ≤ l ∧ l < (t.rs b.toNat).toNat)) ∧
      (a.toNat < 16 → gives (.mnot d a) (fun l => !x l) ∧ gives (.mmov d a) x ∧
        (b.toNat < 16 → gives (.mand d a b) (fun l => x l && y l) ∧ gives (.mor d a b) (fun l => x l || y l) ∧
          gives (.mxor d a b) (fun l => x l ^^ y l) ∧ gives (.mandn d a b) (fun l => x l && !y l))) ∧
      (a.toNat < t.nv → (sc = false → b.toNat < t.nv) → r.toNat < 6 →
        (t.etype < 8 → Completes (.vcmp d a b sc r) s (MaskResult s · d t.active fun l =>
          related r.toNat (t.number (p l)) (t.number (q l)))) ∧
        (8 ≤ t.etype → t.etype < 12 → RaisesFlags s (.vcmp d a b sc r) t.active
          (fun l res => (res.1 = 1 ↔ fpRelated t.etype t.flush r.toNat (p l) (q l)) ∧ res.2 = nanRaises t.etype [p l, q l])
          fun val u => MaskResult s u d t.active fun l => val l = 1)))

/-- R93, R69, R94, R73, R445: VCOAL, VINFO, VFREE, VBUDGET, VRUN, VEXT and VINS. Every lane keeps its pattern under VCOAL and becomes zero under VFREE;
VBUDGET is all or nothing and moves the allotment by the count it writes; VINS changes the one lane that it names when m0 holds it.
MODEL'S CHOICE: Into what VINS makes of a register of tag A is read as log entry 26 says, and what a COOP grid has reserved as log entry 154. -/
def Obligations.RunManagement : Prop :=
  ∀ (s : State) (d a b : Reg),
    let t := s.team
    let n := fmtBits t.etype
    let v := t.rv a.toNat
    let k := (t.rs b.toNat).toNat
    let l := k % t.lanes
    let ends := v.ends t.lanes
    t.Canonical →
    (d.toNat < t.nv →
      (Completes (.vcoal d) s fun u => VectorResult s u d (t.rv d.toNat).w (fun _ => false) (fun _ => 0) ∧
        (u.team.rv d.toNat).cost ≤ (t.rv d.toNat).cost) ∧
      (Completes (.vfree d) s fun u => VectorResult s u d false (fun _ => true) (fun _ => 0) ∧ (u.team.rv d.toNat).cost = 1) ∧
      (t.Room d.toNat (n = 64) →
        (t.active l = true → Completes (.vins d a b) s (VectorResult s · d (n = 64) (fun i => i = l) fun _ => .ofNat 64 (t.scalarElem a))) ∧
        (t.active l = false → Completes (.vins d a b) s (VectorResult s · d (t.rv d.toNat).w (fun _ => false) fun _ => 0)))) ∧
    (a.toNat < t.nv →
      Completes (.vinfo d a) s (ScalarResult s · d
        (.ofNat 64 (v.cost * 2 ^ 32 + v.nruns t.lanes * 2 ^ 16 + (if v.w then 4 else 0) + (match v.shape with | .u _ => 0 | .a _ _ => 1 | .g _ => 2)))) ∧
      Completes (.vrun d a b) s (ScalarResult s · d
        (if h : k < ends.length then .ofNat 64 ((if k = 0 then 0 else ends.getD (k - 1) 0) * 2 ^ 16 + ends[k]) else 0)) ∧
      Completes (.vext d a b) s (ScalarResult s · d (if t.etype < 4 then .ofInt 64 (t.number (t.elem v l)) else .ofNat 64 (t.elem v l)))) ∧
    (let z := (t.rs a.toNat).toInt
     let granted := (0 ≤ z ∧ s.m.poolGives z.toNat = true ∧ t.allot + z ≤ 65536) ∨ (z < 0 ∧ -z ≤ t.free)
     (∀ n, (n ≤ s.core.poolFree → (∀ p ∈ s.m.grids, s.m.placingCoop p.1 p.2 = false) → s.m.poolGives n = true) ∧
       (s.core.poolFree < n → s.m.poolGives n = false)) ∧
     (granted → Completes (.vbudget d a) s fun u => (u.team.allot : Int) = t.allot + z ∧ u.team.v = t.v ∧ u.team.m = t.m ∧
       ∀ r, u.team.rs r = if r = 0 then 0 else if r = d.toNat then t.rs a.toNat else t.rs r) ∧
     (¬ granted → Completes (.vbudget d a) s (ScalarResult s · d 0)))

/-- R87, R88, R453: VRED and VSCAN. On an integer type a sum, minimum, maximum, AND or OR is that of m0's lanes in any order, from its identity on,
modulo 2^n, and an XOR takes each segment of the operand in m0 once; VRED writes it to every lane, VSCAN the prefix to each lane of m0; no flag is
raised. A floating sum adds each segment's value times its lanes in one rounding, in order, from −0.0 on, DITH as RNE; a minimum or maximum goes over the
segments from an infinity on; within a segment lane lo + j of a VSCAN takes j + 1 lanes. Flags arise once a segment (R115 to R118).
MODEL'S CHOICE: From what a minimum or maximum starts is read as log entry 27 says, and which results count as tiny as log entry 29. -/
def Obligations.ReductionsAndScans : Prop :=
  ∀ (s : State) (d a : Reg) (o : BitVec 3),
    let t := s.team
    let n := fmtBits t.etype
    let p (l : Nat) : Nat := t.elem (t.rv a.toNat) l
    let lo : Nat := if t.etype < 4 then 2 ^ (n - 1) else 0
    let hi : Nat := if t.etype < 4 then 2 ^ (n - 1) - 1 else 2 ^ n - 1
    let identity : Nat := match o.toNat with | 0 => 0 | 1 => hi | 2 => lo | 3 => 2 ^ n - 1 | _ => 0
    let op (x y : Nat) : Nat := match o.toNat with
      | 0 => (x + y) % 2 ^ n
      | 1 => if t.number x ≤ t.number y then x else y
      | 2 => if t.number y ≤ t.number x then x else y
      | 3 => x &&& y
      | _ => x ||| y
    let wholeOf (k : Nat) : Nat := (((List.range k).filter t.active).map p).foldl op identity
    let v := t.rv a.toNat
    let xorTo (k : Nat) : Nat := (((List.range k).filter fun l => t.active l && t.edge v l).map p).foldl (· ^^^ ·) 0
    let combines (acc x c : Nat) (res : Nat × Nat) : Prop :=
      CombinedOf t.etype (if t.round = 5 then .rne else rmodeAt t.round 0) t.flush o.toNat acc x c res
    let start : Nat := match o.toNat with
      | 0 => fpSigned t.etype true 0 | 1 => fpInfOf t.etype | _ => fpSigned t.etype true (fpInfOf t.etype)
    let gives (f : Nat → Nat) : Prop :=
      (Completes (.vred d a o) s fun u => VectorResult s u d (n = 64) (fun _ => true) (fun _ => .ofNat 64 (f t.lanes)) ∧ NoFlags s u) ∧
      Completes (.vscan d a o) s fun u => VectorResult s u d (n = 64) t.active (fun l => .ofNat 64 (f (l + 1))) ∧ NoFlags s u
    t.Canonical → d.toNat < t.nv → a.toNat < t.nv → t.Room d.toNat (n = 64) →
    (t.etype < 8 → o.toNat < 5 → gives wholeOf) ∧
    (t.etype < 8 → o.toNat = 5 → gives xorTo) ∧
    (8 ≤ t.etype → t.etype < 12 → o.toNat < 3 →
      ∃ (acc fl : Nat → Nat) (val lf : Nat → Nat), acc 0 = start ∧
        (∀ lo hi, t.oneSegment v lo hi → (t.active lo = true → combines (acc lo) (p lo) (hi - lo) (acc hi, fl lo)) ∧
          (t.active lo = false → acc hi = acc lo) ∧
          ∀ l, lo ≤ l → l < hi → t.active lo = true → combines (acc lo) (p lo) (l - lo + 1) (val l, lf l)) ∧
        RaisesFlags s (.vred d a o) (fun l => t.active l && t.edge v l) (fun l res => res.2 = fl l)
          (fun _ u => VectorResult s u d (n = 64) (fun _ => true) fun _ => .ofNat 64 (acc t.lanes)) ∧
        RaisesFlags s (.vscan d a o) (fun l => t.active l && t.edge v l)
          (fun l res => ∀ hi, t.oneSegment v l hi → ∀ k, res.2.testBit k = true ↔ ∃ j, l ≤ j ∧ j < hi ∧ (lf j).testBit k = true)
          (fun _ u => VectorResult s u d (n = 64) t.active fun l => .ofNat 64 (val l)))

/-- R64, R71, R89, R117, R120: what stops a vector instruction, and leaves everything as it was but for the trap. A destination register at or above the
declared count, a floating type for an integer function, or an integer type for a special function raises RESERVED_FIELD with the word. A flag whose trap
is enabled raises FP_EXCEPTION with the lane. A result whose slots do not fit raises RUN_OVERFLOW with the slots needed and held: of KIND 0 for a vector
register, 1 for a mask register, 2 for what a BRD pushes and leaves in m0, 3 for an entry that a JOIN reloads.
MODEL'S CHOICE: That a JOIN reads the spill record as memory stands is the model's choice (log entry 40). -/
def Obligations.VectorTraps : Prop :=
  ∀ (s : State) (d a b : Reg) (fb : Bool) (k : BitVec 4) (off : BitVec 20),
    let t := s.team
    let e := t.etype
    let n := fmtBits e
    let refused (i : Instr) : Prop := ∃ w, encode i = some w ∧ exec i s = .next (s.trapped 2 (w.setWidth 64))
    let p (l : Nat) : Nat := t.elem (t.rv a.toNat) l
    let q (l : Nat) : Nat := t.elem (t.rv b.toNat) l
    let x (l : Nat) : Bool := maskAt (t.rm a.toNat) l
    let y (l : Nat) : Bool := maskAt (t.rm b.toNat) l
    let runs {α : Type} [DecidableEq α] (val : Nat → α) : Nat := 1 + ((List.range (t.lanes - 1)).filter fun l => decide (val l ≠ val (l + 1))).length
    let overflow (i : Instr) (kind reg need avail : Nat) : Prop := avail < need →
      exec i s = .next (s.trapped 4 (.ofNat 64 (need % 2 ^ 16 * 2 ^ 48 + avail % 2 ^ 16 * 2 ^ 32 + kind * 2 ^ 8 + reg) ||| .ofNat 64 (t.repStep * 2 ^ 10)))
    (∀ i ∈ [Instr.vadd d a b, .vmul d a b, .vmin d a b, .vand d a b, .vabs d a, .vmov d a, .vperm d a b, .vbcast d a b], t.nv ≤ d.toNat → refused i) ∧
    (∀ i ∈ [Instr.vmulh d a b, .vshl d a b, .vshr d a b, .vmulhScalar d a b, .vshlScalar d a b, .vshrScalar d a b, .vclz d a, .vpop d a, .viota d],
      8 ≤ e → refused i) ∧
    (∀ i ∈ [Instr.vrcp d a fb, .vrsq d a fb, .vsqrt d a fb, .vdiv d a b fb, .vexp2 d a fb, .vlog2 d a fb, .vsin d a fb, .vcos d a fb], e < 8 → refused i) ∧
    (t.Canonical →
      (∀ i ∈ [Instr.vabs d a, .vneg d a], ∀ l, 8 ≤ e → e < 12 → d.toNat < t.nv → a.toNat < t.nv → t.trapEn.testBit 4 = true → l < t.lanes →
        t.active l = true → fpSignalling e (p l) = true → (∀ j, j < l → t.active j = true → fpSignalling e (p j) = false) →
        exec i s = .next (s.trapped 12 (.ofNat 64 (l * 2 ^ 16) ||| .ofNat 64 (t.repStep * 2 ^ 6) ||| .ofNat 64 16))) ∧
      (let old (l : Nat) : Nat := ((t.rv d.toNat).lane (resultWidth (n = 64)) l).toNat
       let admits (i : Instr) (val : Nat → Nat) (edge : Nat → Bool) : Prop :=
        ((List.range t.lanes).filter fun l => t.active l && edge l).length ≤ 16 →
          overflow i 0 d.toNat ((if n = 64 then 2 else 1) * runs (fun l => if t.active l then val l else old l)) (t.free + (t.rv d.toNat).cost)
       let one (l : Nat) : Bool := t.edge (t.rv a.toNat) l
       let two (l : Nat) : Bool := one l || t.edge (t.rv b.toNat) l
       e < 8 → d.toNat < t.nv → a.toNat < t.nv → b.toNat < t.nv → (∃ rs, (t.rv a.toNat).shape = .g rs) →
        admits (.vmov d a) p one ∧
        admits (.vadd d a b) (fun l => (t.fit (t.number (p l) + t.number (q l))).toNat) two ∧
        admits (.vsub d a b) (fun l => (t.fit (t.number (p l) - t.number (q l))).toNat) two ∧
        admits (.vmul d a b) (fun l => (t.fit (t.number (p l) * t.number (q l))).toNat) two ∧
        admits (.vand d a b) (fun l => p l &&& q l) two ∧ admits (.vor d a b) (fun l => p l ||| q l) two) ∧
      (let admits (i : Instr) (val : Nat → Bool) : Prop := overflow i 1 d.toNat (runs val) (t.free + (t.rm d.toNat).length)
       d.toNat < 16 →
        admits (.mset d a b) (fun l => decide ((t.rs a.toNat).toNat ≤ l ∧ l < (t.rs b.toNat).toNat)) ∧
        (a.toNat < 16 → admits (.mnot d a) (fun l => !x l) ∧ admits (.mmov d a) x ∧
          (b.toNat < 16 → admits (.mand d a b) (fun l => x l && y l) ∧ admits (.mor d a b) (fun l => x l || y l) ∧
            admits (.mxor d a b) (fun l => x l ^^ y l) ∧ admits (.mandn d a b) (fun l => x l && !y l)))) ∧
      (let taken (l : Nat) : Bool := t.active l && maskAt (t.rm k.toNat) l && t.guardHolds l
       let rest (l : Nat) : Bool := t.active l && !taken l
       t.stack.length < 32 →
        ((∃ l, l < t.lanes ∧ taken l = true) → overflow (.brd k off) 2 0 (runs t.active + runs rest + runs taken) (t.free + (t.rm 0).length)) ∧
        ((∀ l, l < t.lanes → taken l = false) → overflow (.brd k off) 2 0 (3 * runs t.active) (t.free + (t.rm 0).length)))) ∧
    ∀ at_ older v, t.stack = [] → t.spilled = at_ :: older →
      (∀ i, s.core.uncorrectable false ((s.group.spBase + (s.group.privBase t.tid + at_ + 8 * i)) / 8) = false) →
      parseEntry (fun i => s.core.readSp s.group (s.group.privBase t.tid + at_ + 8 * i)) t.lanes (s.group.privSize - at_) = some v →
      overflow .join 3 0 (v.saved.length + v.pending.length) t.free
/-! ## Local memory -/

/-- R405, R406, R407, R138: LDS, LDT, LDC and LD, over a vector of lanes or as one scalar access, complete when the window is there, every access is
allowed, no word read is lost and the result fits. Each lane of m0 gets its n bytes, zero-extended, as the team sees them; every other lane keeps
its pattern. The result is not readable before 24, 32 or 48 cycles have passed, and no byte of memory changes.
MODEL'S CHOICE: When a load's bytes are read, and the latency of an LDC, are read as log entries 35 and 37 say. -/
def Obligations.LoadsComplete : Prop :=
  ∀ (s : State) (d a b : Reg) (z : BitVec 2) (v c f : Bool) (r : Reach) (base : Int),
    ∀ p ∈ [(LocalKind.scratch, Instr.lds d a b z v c f), (.tile, .ldt d a b z v c f), (.cluster, .ldc d a b z v c f), (.pointer, .ld d a b z v c f)],
    let t := s.team
    let n := 2 ^ z.toNat
    let at_ (l : Nat) : Int := laneOffset s base b v l
    let inEm (l : Nat) : Prop := if c then l = 0 else l < t.lanes ∧ t.active l = true
    let value (l : Nat) : Nat := s.m.peekN t r.core r.tile (s.m.phys r (at_ l)) n
    t.Canonical → s.m.reachOf p.1 (s.reg a) = .ok (r, base) →
    (c = true → v = false) → (c = false → d.toNat < t.nv ∧ t.Room d.toNat (n = 8)) → (v = true → b.toNat < t.nv) →
    (∀ l, inEm l → accessAllowed s r n false (at_ l) ∧ (s.m.core r.core).uncorrectable r.tile (s.m.phys r (at_ l) / 8) = false) →
    Completes p.2 s fun u =>
      (u.team = { t with s := u.team.s, v := u.team.v, pc := u.team.pc, pos := u.team.pos, repCnt := u.team.repCnt, repWord := u.team.repWord,
                         immWord := u.team.immWord, pend := u.team.pend, flags := u.team.flags, nextIssue := u.team.nextIssue }) ∧
      (∀ k, u.team.rs k = if c = true ∧ k = d.toNat ∧ k ≠ 0 then .ofNat 64 (value 0) else t.rs k) ∧
      (∀ k, k ≠ d.toNat ∨ c = true → u.team.rv k = t.rv k) ∧
      (c = false → (u.team.rv d.toNat).w = decide (n = 8) ∧ ∀ l, l < t.lanes → (u.team.rv d.toNat).lane (resultWidth (n = 8)) l =
        if t.active l then .ofNat 64 (value l) else (t.rv d.toNat).lane (resultWidth (n = 8)) l) ∧
      u.team.flagCount (t.flagOf f) = t.flagCount (t.flagOf f) + 1 ∧
      ((c = true → d ≠ 0) → ∀ now, now < s.m.now + (if r.cluster then 48 else if r.tile then 32 else 24) →
        u.team.pending now (if c then .scalar else .vector, d.toNat) = true) ∧
      OnlyCores s u ∧ OtherTeamsKept s u ∧ BytesKept s u (fun _ _ _ => False)

/-- R405, R406, R407, R207: STS, STT, STC and ST complete when the window is there and every access is allowed. The lanes that m0 and the guard hold,
in increasing order, enter the store queue with the n low bytes of each at its address; no byte of memory and no register changes yet. Without such
a lane nothing happens. -/
def Obligations.StoresEnterTheQueue : Prop :=
  ∀ (s : State) (d a b : Reg) (z : BitVec 2) (v c : Bool) (r : Reach) (base : Int),
    ∀ p ∈ [(LocalKind.scratch, Instr.sts d a b z v c), (.tile, .stt d a b z v c), (.cluster, .stc d a b z v c), (.pointer, .st d a b z v c)],
    let t := s.team
    let n := 2 ^ z.toNat
    let at_ (l : Nat) : Int := laneOffset s base b v l
    let held : List Nat := (List.range t.lanes).filter fun l => t.active l && t.guardHolds l
    let lanes : List Nat := if c then [0] else held
    let value (l : Nat) : Nat := if c then (s.reg d).toNat else ((t.rv d.toNat).lane (if n = 8 then 64 else 32) l).toNat
    t.Canonical → s.m.reachOf p.1 (s.reg a) = .ok (r, base) →
    (c = true → v = false) → (c = false → d.toNat < t.nv) → (v = true → b.toNat < t.nv) →
    (∀ l ∈ lanes, accessAllowed s r n true (at_ l)) →
    (held = [] → exec p.2 s = .next (s.withTeam t.retire)) ∧
    (held ≠ [] → ∃ q : QueuedStore,
      q.core = r.core ∧ q.tile = r.tile ∧ q.cluster = r.cluster ∧ q.entered = s.m.now ∧
      q.bytes = (lanes.flatMap fun l => (List.range n).map fun i => (s.m.phys r (at_ l) + i, BitVec.ofNat 8 (value l / 256 ^ i))) ∧
      exec p.2 s = .next (s.withTeam { t with storeQ := t.storeQ ++ [q] }.retire))

/-- R207, R208, R140: the head of a team's store queue is served one cycle at a time, after the cycle it entered in. When the banks that its last words
need are free, its bytes reach the memory it names, a later one over an earlier one, every other byte of the machine stays, and it leaves the queue;
otherwise the words that found no bank wait. One word finds its bank when no access of the cycle has taken one. A cluster-window store leaves for its target
at once; there the oldest in flight to that target has its bank phase, after the target's own accesses of the cycle and those of other cores that came
first, and when that is over it is performed and acknowledged.
MODEL'S CHOICE: When a bank phase ends, that lanes that store to one word share a bank write, and when a store in flight to another core is performed, are read as log entries 36, 124 and 139 say. -/
def Obligations.StoresArePerformed : Prop :=
  ∀ (s : State) (c p : Nat) (t : Team), (s.m.core c).teams.find? p = some t →
    let x := s.m.core c
    let reach (q : QueuedStore) (u : State) : Prop :=
      (∀ a, ((u.m.core q.core).bytes q.tile).read a =
        match q.bytes.reverse.find? (fun b => b.1 = a) with | some b => b.2 | none => ((s.m.core q.core).bytes q.tile).read a) ∧
      BytesKept s u (fun k tile a => k = q.core ∧ tile = q.tile ∧ ∃ b ∈ q.bytes, b.1 = a) ∧ (∀ k r, k ≠ c ∨ r ≠ p → u.m.teamAt k r = s.m.teamAt k r)
    let same (us qs : List QueuedStore) : Prop := us.map (fun q => (q.core, q.tile, q.cluster, q.bytes)) = qs.map fun q => (q.core, q.tile, q.cluster, q.bytes)
    (∀ q qs, t.storeQ = q :: qs → q.entered < s.m.now →
      (q.cluster = true → Completes (.storePerform c p) s fun u => OnlyCores s u ∧ BytesKept s u (fun _ _ _ => False) ∧
        ∃ us, same us qs ∧ u.m.teamAt c p = { t with storeQ := us, flight := t.flight ++ [q] }) ∧
      (q.cluster = false →
        ((x.serveStore q x.use).1 = [] → Completes (.storePerform c p) s fun u => reach q u ∧ OnlyCores s u ∧
          ∃ us, same us qs ∧ u.m.teamAt c p = { t with storeQ := us }) ∧
        ((x.serveStore q x.use).1 ≠ [] → Completes (.storePerform c p) s fun u => OnlyCores s u ∧ BytesKept s u (fun _ _ _ => False) ∧
          u.m.teamAt c p = { t with storeQ := { q with left := (x.serveStore q x.use).1, entered := s.m.now } :: qs }) ∧
        (q.left = [] → (x.serveStore q x.use).1 = []) ∧
        (∀ w, q.left = [w] → x.use = BankUse.idle → x.tileTests = [] → (x.serveStore q x.use).1 = []))) ∧
    (t.flight ≠ [] → (∀ q ∈ t.flight, q.entered < s.m.now) → Completes (.clusterStoreAck c p) s fun u =>
      ∃ older q newer, t.flight = older ++ q :: newer ∧ (∀ z ∈ older, z.core ≠ q.core) ∧
        let served := ((s.m.core q.core).serveStore q ((s.m.core q.core).busy.headD BankUse.idle)).1
        (q.left = [] → served = []) ∧ OnlyCores { s with free := u.free } u ∧
        (served = [] → reach q u ∧ u.m.teamAt c p = { t with flight := older ++ newer }) ∧
        (served ≠ [] → BytesKept s u (fun _ _ _ => False) ∧
          u.m.teamAt c p = { t with flight := t.flight.map fun k => if k = q then { q with left := served, entered := s.m.now } else k }))

/-- R136, R138, R146, R250, R142: the checks of a local access in their order, each over the lanes in increasing order, and TRAPINFO. A lane held is the
one scalar access, or a lane of m0, for a store one that the guard holds too. MISALIGNED, code 10, comes before the bounds, code 8 or 9, then a range
lock registered before this cycle, code 5, by its lowest entry, then a store to word 0 of a live task control block, code 17; a load whose lanes all
pass takes ECC_UNCORRECTABLE, code 20, at its first lane with a lost word, and the errors met are noted. A generic pointer with no window is
WINDOW_FAULT, code 7, a private one of another core FOREIGN_SCRATCH, code 6, and a cluster window with no peer there is NOPEER.
MODEL'S CHOICE: Which task control blocks are live is read as log entry 43 says. -/
def Obligations.LocalAccessTraps : Prop :=
  ∀ (s : State) (d a b : Reg) (z : BitVec 2) (v c f : Bool),
    let t := s.team
    let n := 2 ^ z.toNat
    let x := s.reg a
    let ld (k : LocalKind) : Instr := match k with
      | .scratch => .lds d a b z v c f | .tile => .ldt d a b z v c f | .cluster => .ldc d a b z v c f | .pointer => .ld d a b z v c f
    let st (k : LocalKind) : Instr := match k with
      | .scratch => .sts d a b z v c | .tile => .stt d a b z v c | .cluster => .stc d a b z v c | .pointer => .st d a b z v c
    let held (write : Bool) : List Nat := (List.range t.lanes).filter fun l => t.active l && (!write || t.guardHolds l)
    let lanes (write : Bool) : List Nat := if c then [0] else held write
    let first (write : Bool) (bad : Nat → Prop) (l : Nat) : Prop := l ∈ lanes write ∧ bad l ∧ ∀ j ∈ lanes write, bad j → l ≤ j
    t.Canonical → (c = true → v = false) → (c = false → d.toNat < t.nv) → (v = true → b.toNat < t.nv) →
    (∀ k (r : Reach) (base : Int) (write : Bool), s.m.reachOf k x = .ok (r, base) → (write = true → held true ≠ []) →
      let i := if write then st k else ld k
      let at_ (l : Nat) : Int := laneOffset s base b v l
      let y := s.m.core r.core
      let aligned (l : Nat) : Prop := at_ l % (n : Int) = 0
      let within (l : Nat) : Prop := 0 ≤ at_ l ∧ at_ l + n ≤ r.limit
      let hits (l e : Nat) (k : Lock) : Prop := y.locks.find? e = some k ∧ k.from_ ≤ s.m.now ∧ k.tile = r.tile ∧ k.group = r.group ∧
        r.rel (at_ l) < k.stop ∧ k.start < r.rel (at_ l) + n ∧ k.start < k.stop ∧ (write = true ∨ k.rw = true)
      let locked (l : Nat) : Prop := ∃ e k, hits l e k
      let live (l j : Nat) : Prop := write = true ∧ r.tile = false ∧ j ∈ (y.group r.group).live ∧ r.rel (at_ l) < 64 * j + 8 ∧ 64 * j < r.rel (at_ l) + n
      let lost (l : Nat) : Prop := y.uncorrectable r.tile (s.m.phys r (at_ l) / 8) = true
      (∀ l, first write (fun l => ¬ aligned l) l → exec i s = .next (s.trapped 10 (.ofInt 64 (at_ l)))) ∧
      ((∀ l ∈ lanes write, aligned l) → ∀ l, first write (fun l => ¬ within l) l →
        exec i s = .next (s.trapped (if r.tile then 9 else 8) (.ofInt 64 (at_ l)))) ∧
      ((∀ l ∈ lanes write, aligned l ∧ within l) → (List.map Prod.fst y.locks).Pairwise (· < ·) → ∀ l e k, first write locked l → hits l e k →
        (∀ j k', hits l j k' → e ≤ j) → e < 64 → k.queue < 4 → k.slot < 64 → max (r.rel (at_ l)) k.start < 2 ^ 20 →
        ∃ info : Word, exec i s = .next (s.trapped 5 info) ∧
          Fields info [(57, 52, e), (51, 51, if r.tile then 1 else 0), (50, 50, if write then 1 else 0), (49, 48, k.queue), (47, 42, k.slot),
            (19, 0, max (r.rel (at_ l)) k.start)]) ∧
      ((∀ l ∈ lanes write, aligned l ∧ within l ∧ ¬ locked l) → ∀ l j, first write (fun l => ∃ j, live l j) l → live l j → j < 65536 →
        exec i s = .next (s.trapped 17 (.ofNat 64 (bits (y.tcb0 (y.group r.group) j) 63 61 * 2 ^ 32 + j * 2 ^ 16 + 7)))) ∧
      (write = false → (∀ l ∈ lanes false, accessAllowed s r n false (at_ l)) → (c = false → t.Room d.toNat (n = 8)) → ∀ l, first false lost l →
        let met := s.m.noteErrors s.m r.core r.tile ((lanes false).map fun l => s.m.phys r (at_ l))
        exec i s = .next { s with m := met.trap ⟨20, .ofNat 64 ((if r.tile then 2 ^ 63 else 0) + r.rel (at_ l) % 2 ^ 20)⟩ })) ∧
    (∀ (k : LocalKind) (write : Bool),
      let i := if write then st k else ld k
      let ptr := k = .pointer
      let win := x.toNat / 2 ^ 60
      let off := x.toNat % 2 ^ 60
      let target := x.toNat / 2 ^ 48 % 8
      let inSet (h : Group) : Prop := s.group.lrec.coloc ≠ 0 ∧ h.grid = s.group.grid ∧
        h.idx / 2 ^ h.lrec.coloc = s.group.idx / 2 ^ s.group.lrec.coloc ∧ (h.phase = .resident ∨ h.phase = .draining)
      (ptr → win = 0 → exec i s = .next (s.trapped 7 1)) ∧
      (ptr → (1 ≤ win ∧ win ≤ 7) ∨ 12 ≤ win → exec i s = .next (s.trapped 7 (.ofNat 64 (win * 2 ^ 60 + 2)))) ∧
      (ptr → (win = 8 ∧ 2 ^ 19 ≤ off) ∨ (win = 9 ∧ (320 ≤ off / 2 ^ 51 ∨ 2 ^ 19 ≤ off % 2 ^ 51)) ∨ (win = 10 ∧ (8 * 2 ^ 48 ≤ off ∨ 2 ^ 19 ≤ off % 2 ^ 48)) ∨
          (win = 11 ∧ 2 ^ 20 ≤ off) → exec i s = .next (s.trapped 7 (.ofNat 64 (win * 2 ^ 60 + 3)))) ∧
      (ptr → win = 9 → off / 2 ^ 51 < 320 → off / 2 ^ 51 ≠ s.m.cur.core → s.m.cur.core < 320 → off % 2 ^ 51 < 2 ^ 19 →
        exec i s = .next (s.trapped 6 (.ofNat 64 (off / 2 ^ 51 * 2 ^ 41 + s.m.cur.core * 2 ^ 32 + off % 2 ^ 51)))) ∧
      (k = .cluster ∨ (ptr ∧ win = 10 ∧ off < 8 * 2 ^ 48 ∧ off % 2 ^ 48 < 2 ^ 19) →
        (∀ p ∈ (s.m.core (s.m.cur.core / 8 * 8 + target)).groups, ¬ inSet p.2) → exec i s = .next (s.trapped 7 (.ofNat 64 (10 * 2 ^ 60 + 4)))))

/-- R374, R209: ATOM completes when its window is there, every access is allowed, no word is lost and a register of every lane's runs would fit. The
lanes that m0 and the guard hold read, combine and write in increasing order, each lane of vD getting the old value; every other byte and lane
stays.
MODEL'S CHOICE: The slot test of a register that no lane writes is read as log entry 39 says. -/
def Obligations.AtomicUpdates : Prop :=
  ∀ (s : State) (d a b : Reg) (o : BitVec 4) (w sgn v f : Bool) (r : Reach),
    let t := s.team
    let n := if w then 8 else 4
    let at_ (l : Nat) : Int := (ptrOff (s.reg a) : Int) + (if v then (((t.rv b.toNat).lane 32 l).setWidth 32).toInt else 0)
    let lanes : List Nat := (List.range t.lanes).filter fun l => t.active l && t.guardHolds l
    let less (x y : Nat) : Bool :=
      if sgn then decide ((BitVec.ofNat (8 * n) x).toInt < (BitVec.ofNat (8 * n) y).toInt) else decide (x < y)
    let combine (x y cmp : Nat) : Nat := match o.toNat with
      | 0 => (x + y) % 2 ^ (8 * n)
      | 1 => if less y x then y else x
      | 2 => if less x y then y else x
      | 3 => x &&& y
      | 4 => x ||| y
      | 5 => x ^^^ y
      | 6 => y
      | _ => if x = cmp then y else x
    let operand (k l : Nat) : Nat := ((t.rv k).lane (8 * n) l).toNat
    let step (acc : Mem × List (Nat × Nat)) (l : Nat) : Mem × List (Nat × Nat) :=
      let x := acc.1.readN (s.m.phys r (at_ l)) n
      (acc.1.writeN (s.m.phys r (at_ l)) n (combine x (operand d.toNat l) (operand (d.toNat + 1) l)), acc.2 ++ [(l, x)])
    let done := lanes.foldl step ((s.m.core r.core).bytes r.tile, [])
    t.Canonical → o.toNat < 8 → (sgn = true → o.toNat = 1 ∨ o.toNat = 2) → (v = false → b = 0) → s.m.reachPtr (s.reg a) = .ok r →
    d.toNat < t.nv → (v = true → b.toNat < t.nv) → (o.toNat = 7 → d.toNat + 1 < t.nv) → t.Room d.toNat w →
    (∀ l ∈ lanes, accessAllowed s r n true (at_ l) ∧ (s.m.core r.core).uncorrectable r.tile (s.m.phys r (at_ l) / 8) = false) →
    Completes (.atom d a b o w sgn v f) s fun u =>
      (u.m.core r.core).bytes r.tile = done.1 ∧
      (∀ l x, (l, x) ∈ done.2 → (u.team.rv d.toNat).lane (resultWidth w) l = .ofNat 64 x) ∧
      (∀ l, l < t.lanes → l ∉ lanes → (u.team.rv d.toNat).lane (resultWidth w) l = (t.rv d.toNat).lane (resultWidth w) l) ∧
      t.SameButVectors { u.team with nextIssue := t.nextIssue } ∧ (∀ k, k ≠ d.toNat → u.team.rv k = t.rv k) ∧
      u.team.flagCount (t.flagOf f) = t.flagCount (t.flagOf f) + 1 ∧ OnlyCores s u ∧ OtherTeamsKept s u ∧
      BytesKept s u (fun c tile x => c = r.core ∧ tile = r.tile ∧ ∃ l ∈ lanes, s.m.phys r (at_ l) ≤ x ∧ x < s.m.phys r (at_ l) + n)

/-- R133, R134, R210: SPACE answers the window code of a well-formed pointer and 0xF for any other value; CAST of a private pointer names the same
byte in the scratchpad and cluster windows, or is the invalid pointer when the offset does not fit; FENCE changes nothing, and KIND 0 and SCOPE 10 to
15 raise ILLEGAL_OPCODE. -/
def Obligations.PointersAndFences : Prop :=
  ∀ (s : State) (d a : Reg) (w : BitVec 4) (k : BitVec 2) (sc : BitVec 4) (off : Nat), off < 2 ^ 19 →
    let x := s.reg a
    let n := x.toNat
    let wellFormed : Prop :=
      n < 2 ^ 55 ∨ (8 * 2 ^ 60 ≤ n ∧ n < 8 * 2 ^ 60 + 2 ^ 19) ∨
      (∃ owner o, owner ≤ 319 ∧ o < 2 ^ 19 ∧ n = 9 * 2 ^ 60 + owner * 2 ^ 51 + o) ∨
      (∃ target o, target < 8 ∧ o < 2 ^ 19 ∧ n = 10 * 2 ^ 60 + target * 2 ^ 48 + o) ∨
      (11 * 2 ^ 60 ≤ n ∧ n < 11 * 2 ^ 60 + 2 ^ 20)
    let bad : Word := 0xF000000000000000
    let c := s.m.cur.core
    let g := s.group.privBase s.team.tid + off
    (wellFormed → exec (.space d a) s = .next (s.scalarDone d (.ofNat 64 (n / 2 ^ 60)))) ∧
    (¬ wellFormed → exec (.space d a) s = .next (s.scalarDone d 15)) ∧
    (w ∈ [(0 : BitVec 4), 8, 9, 10, 11] → Completes (.cast d a w) s fun t => ∃ v : Word, t = s.scalarDone d v ∧
      (¬ wellFormed → v = bad) ∧
      (c < 320 → n = 8 * 2 ^ 60 + off →
        (w = 8 → v = x) ∧
        (w = 9 → v = if g < 2 ^ 19 then .ofNat 64 (9 * 2 ^ 60 + c * 2 ^ 51 + g) else bad) ∧
        (w = 10 → v = if g < 2 ^ 19 then .ofNat 64 (10 * 2 ^ 60 + c % 8 * 2 ^ 48 + g) else bad) ∧
        (w = 0 ∨ w = 11 → v = bad))) ∧
    (w ∉ [(0 : BitVec 4), 8, 9, 10, 11] → ∃ i, encode (.cast d a w) = some i ∧ exec (.cast d a w) s = .next (s.trapped 2 (i.setWidth 64))) ∧
    (k ≠ 0 → sc.toNat < 10 → exec (.fence k sc) s = .next (s.withTeam s.team.retire)) ∧
    (k = 0 ∨ 10 ≤ sc.toNat → ∃ i, encode (.fence k sc) = some i ∧ exec (.fence k sc) s = .next (s.trapped 1 (i.setWidth 64)))

/-! ## Barriers and the copy queues -/

/-- R376, R377, R172: the barrier instructions at an offset that is a multiple of 8, in the partition and under no range lock. BINIT, BARV and BEXP
write the barrier word, PHASE in bits 63 to 48, EXPECT in 31 to 16, COUNT in 15 to 0, and nothing else of memory; BWAIT goes on or parks its team;
BTEST answers 1 or 0 after 24 cycles. A barrier word that is lost raises ECC_UNCORRECTABLE.
MODEL'S CHOICE: That a lost barrier word raises ECC_UNCORRECTABLE is read as log entry 138 says. -/
def Obligations.BarriersComplete : Prop :=
  ∀ (s : State) (d a b : Reg),
    let off := (s.reg a).toInt
    let v := (s.reg b).toNat % 65536
    let old := (s.core.readSp s.group off.toNat).toNat
    let phase := old / 2 ^ 48
    let expect := old / 2 ^ 16 % 65536
    let count := old % 65536
    let word (p e c : Nat) : Nat := p % 65536 * 2 ^ 48 + old / 2 ^ 32 % 65536 * 2 ^ 32 + e * 2 ^ 16 + c
    let arrived (e n : Nat) : Nat :=
      if e = 0 then word phase 0 (min (count + n) 65535) else word (phase + (count + n) / e) e ((count + n) % e)
    let free (write : Bool) : Prop := lockHit (s.core.seenLocks s.m.now) false s.team.group off.toNat 8 write = none
    let writes (i : Instr) (new : Nat) : Prop := Completes i s fun t =>
      (t.m.myCore.readSp t.m.group off.toNat).toNat = new ∧ t.team = s.team.retire ∧ OnlyCores s t ∧ OtherTeamsKept s t ∧
      BytesKept s t (fun c tile x => c = s.m.cur.core ∧ tile = false ∧
        s.group.spBase + off.toNat ≤ x ∧ x < s.group.spBase + off.toNat + 8)
    let seen := (s.m.barrierSeen off.toNat).toNat / 2 ^ 48
    let reachedAt : Prop := (seen + 65536 - v) % 65536 < 32768
    off % 8 = 0 → 0 ≤ off → off + 8 ≤ s.group.spSize →
    (free true → s.Readable [off.toNat] →
      writes (.binit a b) (v * 2 ^ 16) ∧ writes (.barv a b) (arrived expect v) ∧ writes (.bexp a b) (arrived v 0)) ∧
    (free false →
      ReadsWords (.bwait a b) s [off.toNat]
        (if reachedAt then s.team.retire else { s.team.retire with phase := .parked (.bwait off.toNat v) }) ∧
      ReadsWords (.btest d a b) s [off.toNat] ((s.team.ws d.toNat (if reachedAt then 1 else 0)).awaitS d.toNat (s.m.now + 24) .other).retire) ∧
    (free true → ∀ i ∈ [Instr.binit a b, .barv a b, .bexp a b, .bwait a b, .btest d a b], LostWordTraps i s [off.toNat])

/-- R385, R145, R151, R387, R384: CPOST of a record that passes its checks takes the lowest free entry of its queue with the record's words, counts
against its flag and registers a lock for each range: read-write for the destination, write for source, index list and word 7, each
the bounding interval of the bytes touched. A record with failures is RECORD_INVALID, code 18, with the lowest reason and word; a lost word of it is
ECC_UNCORRECTABLE. CQSTAT answers the counts of its queue; CCANCEL marks the most recently
accepted of its group's commands with that record, and nothing when there is none.
MODEL'S CHOICE: Which commands a CCANCEL reaches is read as log entry 47 says, and a lost word of a record as log entry 138. -/
def Obligations.CopyCommandsComplete : Prop :=
  ∀ (s : State) (d a : Reg) (q : BitVec 2) (f : Bool),
    let t := s.team
    let x := s.core
    let off := (s.reg a).toInt
    let checked := s.m.postCheck off.toNat
    let ranges := s.m.postRanges off.toNat checked
    let key (slot : Nat) : Nat := 64 * q.toNat + slot
    let mine (p : Nat × Cmd) : Bool := p.1 / 64 = q.toNat && p.2.group = t.group
    let count (p : Nat × Cmd → Bool) : Nat := x.cmds.countP p
    let named (c : Cmd) : Prop := c.group = t.group ∧ BitVec.ofNat 64 c.off = s.reg a ∧ (c.state = .posted ∨ c.state = .running ∨ c.state = .suspended)
    let record := s.m.recordAt off.toNat
    let w (k : Nat) : Word := record.getD k 0
    let kind := cKIND (w 0)
    let operand (word fmt n : Nat) (mustHandle : Bool) : Option Operand :=
      (s.m.operandIn s.m.cur.core t.group t.tid true record word fmt n (s.m.layoutOf s.m.cur.core t.group (w word)) mustHandle).1
    let spot (p : Word) : Option Spot := s.m.spotOf s.m.cur.core t.group t.tid true p
    let rows (indexed : Bool) : Option (List Nat) := if indexed then (spot (w 3)).map fun p => s.m.indexList p (bits (w 4) 39 0) else none
    let E := elements kind (bits (w 4) 39 0) checked.src checked.dst
    let covers (rs : List Range) (word fmt : Nat) (rw indexed : Bool) : Prop :=
      ∃ o, operand word fmt E indexed = some o ∧ BoundingRange rs o.spot rw (o.Touches E (rows indexed))
    let bytes (rs : List Range) (word : Nat) (rw : Bool) (n : Int) : Prop :=
      ∃ p, spot (w word) = some p ∧ BoundingRange rs p rw (fun b => p.off ≤ b ∧ b < p.off + n)
    (checked.failures = [] → ∃ dst src ind : List Range,
      ranges = dst ++ src ++ ind ++ [⟨s.m.cur.core, t.group, false, false, off.toNat + 56, off.toNat + 64⟩] ∧
      (kind ≤ 3 → covers dst 2 (cDFMT (w 0)) true (kind = 2)) ∧ (kind < 3 → covers src 1 (cSFMT (w 0)) false (kind = 1)) ∧
      (kind = 1 ∨ kind = 2 → bytes ind 3 false (4 * bits (w 4) 39 0 : Nat)) ∧ (kind = 4 → w 2 ≠ 0 → bytes dst 2 true (if cWIDE (w 0) then 8 else 4)) ∧
      (5 ≤ kind ∨ (kind = 4 ∧ w 2 = 0) → dst = []) ∧ (3 ≤ kind → src = []) ∧ (kind ≠ 1 → kind ≠ 2 → ind = [])) ∧
    (∀ slot, s.m.postOffset off = .ok () → checked.failures = [] → s.m.locksFit ranges = true →
      (∀ k n, (s.m.core k).uncorrectable false n = false) →
      slot < 64 → x.cmds.find? (key slot) = none → (∀ k, k < slot → x.cmds.find? (key k) ≠ none) →
      Completes (.cpost a q f) s fun u => ∃ c : Cmd,
        u.core.cmds = x.cmds.set (key slot) c ∧ c.state = .posted ∧ c.accepted = false ∧ c.group = t.group ∧ c.team = s.m.cur.place ∧
        c.off = off.toNat ∧ c.postedAt = s.m.now ∧ c.words = (List.range 7).map (fun k => x.readSp s.group (off.toNat + 8 * k)) ∧
        u.team = (t.countUp (t.flagOf f)).retire ∧ OnlyCores s u ∧ OtherTeamsKept s u ∧ BytesKept s u (fun _ _ _ => False) ∧
        ∀ r ∈ ranges, ∃ e l, (u.m.core r.core).locks.find? e = some l ∧ l.start = r.start ∧ l.stop = r.stop ∧ l.tile = r.tile ∧ l.rw = r.rw ∧
          l.group = r.group ∧ l.ocore = s.m.cur.core ∧ l.queue = q.toNat ∧ l.slot = slot) ∧
    (s.m.postOffset off = .ok () → LostWordTraps (.cpost a q f) s (s.m.postOffs off.toNat) ∧
      ∀ reason word, s.Intact (s.m.postOffs off.toNat) → (reason, word) ∈ checked.failures → reason < 256 → word < 256 →
        (∀ p ∈ checked.failures, reason < p.1 ∨ (reason = p.1 ∧ word ≤ p.2)) →
        exec (.cpost a q f) s = .next (s.trapped 18 (.ofNat 64 (off.toNat % 2 ^ 19 * 2 ^ 32 + word * 2 ^ 8 + reason)))) ∧
    (count (fun p => p.1 / 64 = q.toNat) ≤ 64 → exec (.cqstat d q) s = .next (s.scalarDone d (.ofNat 64
      ((64 - x.locks.length) * 2 ^ 40 + (64 - count (fun p => p.1 / 64 = q.toNat)) * 2 ^ 32 + count mine * 2 ^ 24 +
        count (fun p => mine p && p.2.state = .suspended) * 2 ^ 16 + count (fun p => mine p && p.2.state = .running) * 2 ^ 8 +
        count (fun p => mine p && p.2.state = .posted))))) ∧
    ((∀ p ∈ x.cmds, ¬ named p.2) → exec (.ccancel a) s = .next (s.withTeam t.retire)) ∧
    ((List.map Prod.fst x.cmds).Nodup → (∃ p ∈ x.cmds, named p.2) → Completes (.ccancel a) s fun u => ∃ k c, x.cmds.find? k = some c ∧ named c ∧
      (∀ p ∈ x.cmds, named p.2 → p.2.accepted = c.accepted ∨ c.accepted = false) ∧
      (∀ p ∈ x.cmds, named p.2 → p.2.accepted = true → c.accepted = true → p.2.order ≤ c.order) ∧
      u.core.cmds.find? k = some { c with cancelling := true } ∧ (∀ j, j ≠ k → u.core.cmds.find? j = x.cmds.find? j) ∧
      u.team = t.retire ∧ OnlyCores s u ∧ OtherTeamsKept s u ∧ BytesKept s u (fun _ _ _ => False))

/-! ## Matrix engine -/

/-- R238, R243 to R247: MMA, MLOOP, MZERO, MLDA and MSTA on an accumulator that the group has, when every check passes, queue one operation on the
core's engine, set the accumulator's tag and go on; MSTA under DITH also advances PHASE of its format-block record by 37. An accumulator that the
group does not have raises RESERVED_FIELD. -/
def Obligations.MatrixInstructionsQueue : Prop :=
  ∀ (s : State) (c : BitVec 3) (a b f : Reg) (spa neg accd : Bool) (af : BitVec 2) (n : Nat),
    let t := s.team
    let g := s.group
    let queued (x : Core) (tag : AccTag) (kind : MatKind) (cycles : Nat) : State :=
      s.withCore (({ x with
        matQ := x.matQ ++ [({ group := t.group, acc := n, tag := tag, kind := kind, issued := s.m.now, cycles := cycles } : MatOp)]
        accs := x.accs.set n { x.acc n with tag := tag } }).setTeam s.m.cur.place t.retire)
    let block : Option Word := if f = 0 then none else some (s.reg f)
    let l := (s.reg f).toNat
    let steps := l / 2 ^ 56 + 1
    let incA := (BitVec.ofNat 20 (l / 2 ^ 36)).toInt
    let incB := (BitVec.ofNat 20 (l / 2 ^ 16)).toInt
    let loopBlock : Option Word := if l / 2 ^ 15 % 2 = 1 then some (.ofNat 64 (32 * (l % 2 ^ 15))) else none
    let params (k : Nat) (da db : Int) : MmaP := ⟨shapeOf (s.reg a), shapeOf (s.reg b), none, k, da, db, spa⟩
    let shape := shapeOf (s.reg a)
    let tag : AccTag := if af.toNat = 1 then .fp64 else if af.toNat = 2 then .int32 else .fp32
    let span := shape.span shape.base
    (c.toNat < g.lrec.nacc → n = g.accs.getD c.toNat 0 →
      (∀ p, s.m.checkMma (s.core.acc n).tag accd (params 1 0 0) block = .ok p →
        exec (.mma spa c a b f neg accd) s =
          .next (queued s.core p.accFmt (.mma (s.reg a) (s.reg b) p.fb 1 0 0 neg accd spa) p.interval)) ∧
      (∀ p, s.m.checkMma (s.core.acc n).tag accd (params steps incA incB) loopBlock = .ok p →
        exec (.mloop spa c a b f neg accd) s =
          .next (queued s.core p.accFmt (.mma (s.reg a) (s.reg b) p.fb steps incA incB neg accd spa) (steps * p.interval))) ∧
      (af ≠ 3 → exec (.mzero c af) s = .next (queued s.core tag .mzero 1)) ∧
      (af ≠ 3 → tileFailures shape tag (mldaFormat tag shape.fmt) g.tileSize = [] → lockFailures s.core s.m.now t.group false [span] = [] →
        exec (.mlda c a af) s = .next (queued s.core tag (.mlda (s.reg a)) (transferCycles shape tag))) ∧
      (let own := (s.core.acc n).tag
       tileFailures shape own (fmtBits shape.fmt ≠ 0) g.tileSize = [] → lockFailures s.core s.m.now t.group true [span] = [] →
        exec (.msta c a 0) s = .next (queued s.core own (.msta (s.reg a) t.round 0 t.sat own) (transferCycles shape own))) ∧
      (let own := (s.core.acc n).tag
       let off := (s.reg b).toNat
       let w := (s.core.tile.readD (g.tileBase + off + 24)).toNat
       let phase := w / 2 ^ 58
       b ≠ 0 → blockFailures g.tileSize (s.reg b) = [] → w % 2 ^ 58 = 0 →
        tileFailures shape own (fmtBits shape.fmt ≠ 0) g.tileSize = [] →
        lockFailures s.core s.m.now t.group true [((off + 24 : Nat), (off + 32 : Nat)), span] = [] →
        ∃ x : Core, exec (.msta c a b) s = .next (queued x own (.msta (s.reg a) t.round phase t.sat own) (transferCycles shape own)) ∧
          (t.round ≠ 5 → x = s.core) ∧
          (t.round = 5 → x = { s.core with tile := x.tile, badTile := x.badTile, detected := x.detected } ∧
            (x.tile.readD (g.tileBase + off + 24)).toNat = (phase + 37) % 64 * 2 ^ 58 ∧
            ∀ k, k < g.tileBase + off + 24 ∨ g.tileBase + off + 32 ≤ k → x.tile.read k = s.core.tile.read k))) ∧
    (g.lrec.nacc ≤ c.toNat →
      ∀ i ∈ [Instr.mma spa c a b f neg accd, .mloop spa c a b f neg accd, .mzero c af, .mlda c a af, .msta c a b],
        (i = .mzero c af ∨ i = .mlda c a af → af ≠ 3) → ∃ w, encode i = some w ∧ exec i s = .next (s.trapped 2 (w.setWidth 64)))

/-- R246, R237, R123, R124, R241, R243 to R245: MATRIX_OP_START runs the oldest queued operation of an idle engine and occupies it for its cycles;
MATRIX_OP_COMPLETE ends it. MZERO makes every element zero. An MMA, or each step of an MLOOP, changes the elements of its rows and columns: INT32 by the exact
sum of products modulo 2^32, FP64 by one rounding a product, FP32 by one rounding a granule. MLDA loads the described region's elements, MSTA stores them
converted under its rounding. Nothing else of accumulators, tile stores or teams changes.
MODEL'S CHOICE: That an operation's reads and writes happen at its start is the model's choice (log entry 60). -/
def Obligations.MatrixOperationsRun : Prop :=
  ∀ (s : State) (c : Nat) (op : MatOp) (rest : List MatOp),
    let x := s.m.core c
    let tileBase := (x.group op.group).tileBase
    let rd (a n : Nat) : Nat := x.tile.readN (tileBase + a) n
    let size := op.tag.size
    let elem (a : Acc) (i j : Nat) : Nat := a.mem.readN (size * (op.tag.cols * i + j)) size
    let old := elem (x.acc op.acc)
    let starts (P : Core → Prop) : Prop := Completes (.matrixOpStart c) s fun u =>
      (u.m.core c).matRun = some op ∧ (u.m.core c).matQ = rest ∧ (u.m.core c).matEnd = s.m.now + op.cycles - 1 ∧
      (∀ k, k ≠ c → u.m.core k = s.m.core k) ∧ (∀ p, u.m.teamAt c p = s.m.teamAt c p) ∧ (∀ n, n ≠ op.acc → (u.m.core c).acc n = x.acc n) ∧
      BytesKept s u (fun k tile a => k = c ∧ tile = true ∧ ∃ w r p z tg row col e, op.kind = .msta w r p z tg ∧ row < (shapeOf w).rows ∧
        col < (shapeOf w).cols ∧ e < elemBytes (shapeOf w).fmt ∧ a = tileBase + ((shapeOf w).at (shapeOf w).base row col).toNat + e) ∧
      P (u.m.core c)
    let becomes (P : Nat → Nat → Nat → Prop) : Prop := starts fun y => ∀ i j, i < 64 → j < op.tag.cols → P i j (elem (y.acc op.acc) i j)
    x.matQ = op :: rest → x.matRun = none → op.issued < s.m.now → (0 < x.matEnd → x.matEnd < s.m.now) → x.tileTests = [] →
    8 * (x.occupied + 1) ≤ s.ramp c * s.m.usCycles → x.tileStoresBefore c op = false → (x.acc op.acc).mem.wf = true →
    starts (fun _ => True) ∧
    (op.kind = .mzero → starts fun y => ∀ a, (y.acc op.acc).mem.read a = 0) ∧
    (∀ sa sb fb steps incA incB neg accd spa, op.kind = .mma sa sb fb steps incA incB neg accd spa →
      let p : MmaP := ⟨shapeOf sa, shapeOf sb, fb, steps, incA, incB, spa⟩
      let G := 256 / p.wide
      let pairs (t i j lo n : Nat) : List (FVal × FVal) :=
        ((((p.partsA rd t i).drop lo).take n).zip (((p.colB rd t j).drop lo).take n)).flatMap fun q => q.1.map fun a => (a, q.2)
      let runs (step : Nat → Nat → Nat → Nat → Nat → Prop) : Prop := becomes fun i j new =>
        (i < p.M → j < p.N → ∃ v : Nat → Nat, v 0 = old i j ∧ v steps = new ∧
          ∀ t, t < steps → step t i j (if accd && t = 0 then 0 else v t) (v (t + 1))) ∧ (p.M ≤ i ∨ p.N ≤ j → new = old i j)
      mmaFormat p.a.fmt = true → mmaFormat p.b.fmt = true → p.K = p.Kb →
      (op.tag = .int32 → mmaInt p.a.fmt = true → mmaInt p.b.fmt = true → p.sca.blk = 0 → p.scb.blk = 0 → runs fun t i j v w =>
        let sum : Int := ((pairs t i j 0 p.K).map fun q => q.1.toInt * q.2.toInt).sum
        (w : Int) = (v + if neg then -sum else sum) % (2 ^ 32 : Nat)) ∧
      (op.tag = .fp32 → runs fun t i j v w => ∃ g : Nat → Nat, g 0 = v ∧ g ((p.K + G - 1) / G) = w ∧
        ∀ q, q < (p.K + G - 1) / G → GranuleOf neg (g q) (pairs t i j (q * G) G) (g (q + 1))) ∧
      (op.tag = .fp64 → p.a.fmt = 11 → p.b.fmt = 11 → spa = false → p.sca.blk = 0 → p.scb.blk = 0 → runs fun t i j v w =>
        let a (k : Nat) : Nat := if p.a.trans then p.a.code rd (p.baseA t) k i else p.a.code rd (p.baseA t) i k
        let b (k : Nat) : Nat := if p.b.trans then p.b.code rd (p.baseB t) j k else p.b.code rd (p.baseB t) k j
        ∃ g : Nat → Nat, g 0 = v ∧ g p.K = w ∧ ∀ k, k < p.K → ∃ flags, FusedOf 11 .rne false neg (a k) (b k) (g k) (g (k + 1), flags))) ∧
    (∀ w, op.kind = .mlda w →
      let sh := shapeOf w
      mldaFormat op.tag sh.fmt = true → becomes fun i j new =>
        let r := if sh.trans then j else i
        let k := if sh.trans then i else j
        let code := sh.code rd sh.base r
        (sh.rows ≤ r ∨ sh.cols ≤ k → new = old i j) ∧
        (r < sh.rows → k < sh.cols →
          (op.tag ≠ .int32 → ∃ flags, ConversionOf sh.fmt op.tag.fmt .rne false false (code k) (new, flags)) ∧
          (op.tag = .int32 → sh.fmt ≠ 17 → ∀ z : Int, sourceVal sh.fmt false (code k) = z → (new : Int) = z % (2 ^ 32 : Nat)) ∧
          (op.tag = .int32 → sh.fmt = 17 → (new : Int) = o4Value (code (k / 2 * 2)) (code (k / 2 * 2 + 1)) (k % 2 = 1) % (2 ^ 32 : Nat)))) ∧
    (∀ w round phase sat, op.kind = .msta w round phase sat op.tag →
      let sh := shapeOf w
      let value (r k : Nat) : Nat := if sh.trans then old k r else old r k
      let md (r k : Nat) : RMode := if sh.trans then rmode round k r phase else rmode round r k phase
      sh.overlaps = false → fmtBits sh.fmt ≠ 0 → sh.outRows ≤ 64 → sh.outCols ≤ op.tag.cols → starts fun y =>
        let now (a n : Nat) : Nat := y.tile.readN (tileBase + a) n
        ∀ r k, r < sh.rows → k < sh.cols →
          let stored := sh.code now sh.base r k
          (sh.fmt ≠ 17 → ∃ v flags, ConversionOf op.tag.fmt sh.fmt (md r k) sat false (value r k) (v, flags) ∧ stored = v) ∧
          (sh.fmt = 17 → let e := k / 2 * 2
            let x1 : FVal := if e + 1 < sh.cols then decodeF op.tag.fmt (value r (e + 1)) else .fin false 0 0
            let o := toO4 (md r e) (if e + 1 < sh.cols then md r (e + 1) else md r e) (decodeF op.tag.fmt (value r e)) x1
            stored = if k % 2 = 0 then o.1 else o.2.1) ∧
          (sh.four = true → sh.cols % 2 = 1 → sh.code now sh.base r sh.cols = sh.code rd sh.base r sh.cols)) ∧
    (∀ u : State, (u.m.core c).matRun = some op → (u.m.core c).matEnd < u.m.now →
      exec (.matrixOpComplete c) u = .next { u with m := u.m.setCore c { u.m.core c with matRun := none } })

/-! ## Tasks -/

/-- R256 to R262, R435, R251: the task instructions when no team of the group is parked in TTAKE.wait: TSUB of an empty, well-formed block; TTAKE with a
READY task, with none and no live block, and with none and live ones; TDONE; both forms of TRETRY; TCANCEL of a task none of whose successors
can be cancelled. A block with a lost word raises ECC_UNCORRECTABLE. Word 0 of the named block alone of memory changes, but for the successors that TDONE decrements; of other teams only one that held the task
loses its hold.
MODEL'S CHOICE: What makes a block live, the end of the cancel walk and a lost word of a task control block are read as log entries 42, 43 and 138 say. -/
def Obligations.TaskInstructionsComplete : Prop :=
  ∀ (s : State) (d e a : Reg) (i : Nat),
    let t := s.team
    let x := s.core
    let g := s.group
    let gi := t.group
    let w := (x.tcb0 g i).toNat
    let field (hi lo : Nat) : Nat := w / 2 ^ lo % 2 ^ (hi - lo + 1)
    let state := field 63 61
    let at_ := g.spBase + 64 * i
    let after (u : State) (p : Nat) : Word := u.core.readSp g (64 * p)
    let word0 (u : State) : Prop := OnlyCores s u ∧ BytesKept s u (fun c tile k => c = s.m.cur.core ∧ tile = false ∧ at_ ≤ k ∧ k < at_ + 8)
    let kept (u : State) : Prop := word0 u ∧ OtherTeamsKept s u
    let freed (u : State) : Prop := ∀ c p, c ≠ s.m.cur.core ∨ p ≠ s.m.cur.place →
      u.m.teamAt c p = if c = s.m.cur.core ∧ (s.m.teamAt c p).group = gi ∧ (s.m.teamAt c p).held = some i then { s.m.teamAt c p with held := none }
        else s.m.teamAt c p
    let goesOn (u : State) (cycles : Nat) : Prop := u.team = { t.retire with held := u.team.held, nextIssue := s.m.now + cycles }
    let letsGo (u : State) : Prop := u.team.held = if t.held = some i then none else t.held
    let took (u : State) (id entry : Word) (held : Option Nat) : Prop := OnlyCores s u ∧ OtherTeamsKept s u ∧
      u.team = { t.retire with s := u.team.s, held := held, nextIssue := s.m.now + 1 } ∧
      ∀ r, u.team.rs r = if r = 0 then 0 else if r = e.toNat then entry else if r = d.toNat then id else t.rs r
    let same (u : State) : Prop := BytesKept s u (fun _ _ _ => False)
    let named : Prop := (s.reg a).toNat = i ∧ 64 * (i + 1) ≤ g.lrec.sharedBytes
    let live (u : State) (j : Nat) : Prop := j ∈ (u.core.group gi).live
    let resident := x.isResident gi i = true
    let stamped (u : State) : Prop := (u.core.group gi).stamps.find? i = some s.m.now
    let readable (list : Bool) : Prop := s.Readable (x.taskOffs g i list)
    x.parkedTake gi = none →
    (named → x.taskLocks s.m.now gi i true = none → ∀ j ∈ [Instr.tsub a, .tdone a], LostWordTraps j s (x.taskOffs g i true)) ∧
    (named → x.taskLocks s.m.now gi i false = none → ∀ j ∈ [Instr.tretry a true, .tretry a false, .tcancel a], LostWordTraps j s (x.taskOffs g i false)) ∧
    (named → x.taskLocks s.m.now gi i true = none → readable true → state = 0 → x.tcbFieldsOk g i = true →
      Completes (.tsub a) s fun u => kept u ∧ goesOn u 1 ∧ u.team.held = t.held ∧ live u i ∧ (field 31 16 = 0 → resident → stamped u) ∧
        after u i = .ofNat 64 ((if field 31 16 = 0 ∧ resident then 2 else 1) * 2 ^ 61 + field 60 51 * 2 ^ 51 + field 49 48 * 2 ^ 48 + field 39 0)) ∧
    (t.held = none → ∀ md,
      (∀ st, (i, st) ∈ g.stamps → (∀ j sj, (j, sj) ∈ g.stamps → j ≠ i →
          let pi := tcbPrio (x.tcb0 g i); let pj := tcbPrio (x.tcb0 g j)
          pj < pi ∨ (pj = pi ∧ (st < sj ∨ (st = sj ∧ i < j)))) → (∀ sj, (i, sj) ∈ g.stamps → sj = st) → s.m.cur.place < 64 →
        Completes (.ttake d e md) s fun u => word0 u ∧ took u (.ofNat 64 i) (.ofNat 64 ((x.tcb g i 1).toNat % 2 ^ 55)) (some i) ∧
          after u i = .ofNat 64 (3 * 2 ^ 61 + field 60 16 * 2 ^ 16 + s.m.cur.place * 2 ^ 10 + field 9 0)) ∧
      (g.stamps = [] → g.live = [] → Completes (.ttake d e md) s fun u => took u (-1) 0 none ∧ same u) ∧
      (g.stamps = [] → g.live ≠ [] → md = true → Completes (.ttake d e md) s fun u => took u (-2) 0 none ∧ same u) ∧
      (g.stamps = [] → g.live ≠ [] → md = false → Completes (.ttake d e md) s fun u => OnlyCores s u ∧ OtherTeamsKept s u ∧ same u ∧
        u.team = { t.retire with phase := .parked (.ttake d.toNat e.toNat), nextIssue := s.m.now + 1 })) ∧
    (named → x.taskLocks s.m.now gi i true = none → readable true → state = 3 → t.held = some i → x.badSuccessor g i = none →
      Completes (.tdone a) s fun u => u.team.held = none ∧ ¬ live u i ∧ OnlyCores s u ∧ freed u ∧
        goesOn u (1 + ((x.successors g i).filter fun j => decide (tcbState (x.tcb0 g j) ≠ 6)).length + x.listCycles g i) ∧
        (i ∉ x.successors g i → after u i = .ofNat 64 (4 * 2 ^ 61 + field 60 16 * 2 ^ 16 + field 9 0)) ∧
        (x.successors g i = [] → word0 u)) ∧
    (named → x.taskLocks s.m.now gi i false = none → readable false → state = 5 →
      (field 15 10 = s.m.cur.place → Completes (.tretry a true) s fun u => kept u ∧ goesOn u 1 ∧ u.team.held = t.held ∧
        after u i = .ofNat 64 (3 * 2 ^ 61 + field 60 48 * 2 ^ 48 + field 39 0)) ∧
      (Completes (.tretry a false) s fun u => word0 u ∧ freed u ∧ goesOn u 1 ∧ letsGo u ∧ (resident → stamped u) ∧
        after u i = .ofNat 64 ((if resident then 2 else 1) * 2 ^ 61 + field 60 48 * 2 ^ 48 + field 39 16 * 2 ^ 16 + field 9 0))) ∧
    (named → x.taskLocks s.m.now gi i false = none → readable false → state ≤ 2 ∨ state = 5 → (∀ j ∈ x.walkSuccessors g i, j ≠ i → 3 ≤ tcbState (x.tcb0 g j)) →
      Completes (.tcancel a) s fun u => word0 u ∧ ¬ live u i ∧ goesOn u (1 + x.walkCycles g i) ∧ (state ≠ 5 → kept u ∧ u.team.held = t.held) ∧
        (state = 5 → freed u ∧ letsGo u) ∧ after u i = .ofNat 64 (6 * 2 ^ 61 + field 60 16 * 2 ^ 16 + field 9 0))

/-- R252, R260: TDONE decrements each successor that the task's word 6 names, in order and one named twice twice: a cancelled one stays; one whose
COUNT is 0 keeps it and gets UNDER; any other's COUNT falls by one, whatever its state, and a WAITING, live and resident one whose COUNT reaches 0
becomes READY. The other fields of word 0 stay, and so does every byte that is in no word 0 of these tasks. Nothing traps.
MODEL'S CHOICE: What makes a block live is read as log entry 43 says, and a lost word as log entry 138. -/
def Obligations.SuccessorsAreDecremented : Prop :=
  ∀ (s : State) (a : Reg) (i : Nat),
    let t := s.team
    let x := s.core
    let g := s.group
    let js := x.successors g i
    let field (w : Word) (hi lo : Nat) : Nat := w.toNat / 2 ^ lo % 2 ^ (hi - lo + 1)
    let dec (j : Nat) (w : Word) : Word :=
      let count := field w 31 16
      let state := field w 63 61
      let ready : Prop := state = 1 ∧ j ∈ g.live ∧ x.isResident t.group j = true
      if state = 6 then w
      else if count = 0 then .ofNat 64 (field w 63 51 * 2 ^ 51 + 2 ^ 50 + field w 49 0)
      else .ofNat 64 ((if count = 1 ∧ ready then 2 else state) * 2 ^ 61 + field w 60 32 * 2 ^ 32 + (count - 1) * 2 ^ 16 + field w 15 0)
    let own := x.tcb0 g i
    let first (j : Nat) : Word := if j = i then .ofNat 64 (4 * 2 ^ 61 + field own 60 16 * 2 ^ 16 + field own 9 0) else x.tcb0 g j
    (s.reg a).toNat = i → 64 * (i + 1) ≤ g.lrec.sharedBytes → x.taskLocks s.m.now t.group i true = none → s.Readable (x.taskOffs g i true) →
    field own 63 61 = 3 →
    t.held = some i → x.badSuccessor g i = none → x.parkedTake t.group = none →
    Completes (.tdone a) s fun u =>
      (∀ j ∈ i :: js, u.core.readSp g (64 * j) = (js.filter (· = j)).foldl (fun w _ => dec j w) (first j)) ∧
      u.team = { t.retire with held := none, nextIssue := s.m.now + 1 + ((js.filter fun j => decide (tcbState (x.tcb0 g j) ≠ 6)).length + x.listCycles g i) } ∧
      BytesKept s u (fun c tile k => c = s.m.cur.core ∧ tile = false ∧ ∃ j ∈ i :: js, g.spBase + 64 * j ≤ k ∧ k < g.spBase + 64 * j + 8)

/-! ## Child launches and collectives -/

/-- R402, R408: LAUNCH below depth 10, at a multiple of 64, in the partition and under no range lock, hands its record to the dispatcher, clears the
status word behind it and counts against its flag; sD is readable only at acceptance. At depth 10 it raises NEST_DEPTH, code 14. LWAIT answers the
status word of a rejected child and that of a completed one, for which it asks for the bumps of every class on its die, and parks while the child is
pending or runs. A lost word of the record or the status word raises ECC_UNCORRECTABLE.
MODEL'S CHOICE: The order of the status word and the acquire is read as log entry 66 says, and a lost word as log entry 138. -/
def Obligations.LaunchesAndWaits : Prop :=
  ∀ (s : State) (d a : Reg) (f : Bool),
    let t := s.team
    let g := s.group
    let off := (s.reg a).toInt
    let o := (s.reg a).toNat % 2 ^ 19
    let status := (s.m.childWord s.m.cur.core s.m.cur.place (s.reg a))
    let st := status.toNat / 2 ^ 60
    (g.depth = 10 → exec (.launch d a f) s = .next (s.trapped 14 0)) ∧
    (g.depth ≠ 10 → off % 64 = 0 → 0 ≤ off → off + 72 ≤ g.spSize → lockHit (s.core.seenLocks s.m.now) false t.group off.toNat 72 true = none →
      s.Readable ((List.range 8).map fun k => off.toNat + 8 * k) →
      Completes (.launch d a f) s fun u => ∃ r : LaunchReq,
        u.m.launches = s.m.launches ++ [r] ∧ r.core = s.m.cur.core ∧ r.place = s.m.cur.place ∧ r.group = t.group ∧ r.grid = g.grid ∧ r.off = off.toNat ∧
        r.dst = d.toNat ∧ r.issued = s.m.now ∧ r.words = (List.range 8).map (fun k => s.core.readSp g (off.toNat + 8 * k)) ∧
        u.core.readSp g (off.toNat + 64) = 0 ∧ u.team.flagCount (t.flagOf f) = t.flagCount (t.flagOf f) + 1 ∧
        (d ≠ 0 → ∀ now, now < 2 ^ 64 → u.team.pending now (.scalar, d.toNat) = true) ∧ OtherTeamsKept s u ∧ t.SameButScalars { u.team with flags := t.flags } ∧
        BytesKept s u (fun c tile k => c = s.m.cur.core ∧ tile = false ∧ g.spBase + off.toNat + 64 ≤ k ∧ k < g.spBase + off.toNat + 72)) ∧
    (g.depth ≠ 10 → off % 64 = 0 → 0 ≤ off → off + 72 ≤ g.spSize → lockHit (s.core.seenLocks s.m.now) false t.group off.toNat 72 true = none →
      LostWordTraps (.launch d a f) s ((List.range 8).map fun k => off.toNat + 8 * k)) ∧
    (o % 64 = 0 → o + 72 ≤ g.spSize → lockHit (s.core.seenLocks s.m.now) false t.group (o + 64) 8 false = none →
      let goesOn : Team := { t.retire.ws d.toNat status with nextIssue := s.m.now + 1, phase := .running }
      LostWordTraps (.lwait d a) s [o + 64] ∧
      (st ≤ 1 → ReadsWords (.lwait d a) s [o + 64] { t.retire with phase := .parked (.lwait (s.reg a) d.toNat) }) ∧
      (st = 3 ∨ 5 ≤ st → ReadsWords (.lwait d a) s [o + 64] goesOn) ∧
      (st = 2 ∨ st = 4 → s.Readable [o + 64] → Completes (.lwait d a) s fun u => u.team = goesOn ∧ OtherTeamsKept s u ∧ BytesKept s u (fun _ _ _ => False) ∧
        u.m.bumps = s.m.bumps ++ (List.range 16).map (fun k => ⟨s.m.cur.core / 80, k, s.m.now, s.m.nextToken, true⟩) ∧
        (s.Intact [o + 64] → u.m.cores = (s.withTeam goesOn).m.cores)))

/-- R307, R388 to R391: CXA, CXG, CXS, CXB, CXT and CXP, when every check passes, post one collective with a status word that says RUNNING, count
against their flag and hold their team until the context accepts it; the buffer and the other bytes keep their values. -/
def Obligations.CollectivesIssue : Prop :=
  ∀ (s : State) (d a b : Reg) (red : BitVec 3) (f : Bool),
    let t := s.team
    let issues (i : Instr) (op : Nat) (status : Nat) : Prop := Completes i s fun u => ∃ c : Coll,
      u.m.colls = s.m.colls ++ [c] ∧ c.op = op ∧ c.core = s.m.cur.core ∧ c.team = s.m.cur.place ∧ c.group = t.group ∧ c.accepted = false ∧
      c.issued = s.m.now ∧ c.id = s.m.nextColl ∧ u.m.nextColl = s.m.nextColl + 1 ∧
      (u.core.readSp s.group status).toNat / 2 ^ 52 = 0 ∧
      u.team = { (t.countUp (t.flagOf f)).retire with nextIssue := 2 ^ 64 } ∧ OtherTeamsKept s u ∧
      BytesKept s u (fun k tile x => k = s.m.cur.core ∧ tile = false ∧ s.group.spBase + status ≤ x ∧ x < s.group.spBase + status + 8)
    let ctl := s.reg d
    let shape := s.reg a
    let stoff := ctl.toNat / 2 ^ 19 % 2 ^ 19
    let passes (op r : Nat) : Prop := s.m.collCheck op r ctl shape = .ok ()
    (passes 0 red.toNat → issues (.cxa d a b red f) 0 stoff) ∧
    (passes 1 0 → issues (.cxg d a b f) 1 stoff) ∧
    (passes 2 red.toNat → issues (.cxs d a b red f) 2 stoff) ∧
    (passes 3 0 → issues (.cxb d a b f) 3 stoff) ∧
    (passes 4 0 → issues (.cxt d a b f) 4 stoff) ∧
    (∀ k, s.m.cxpCheck shape.toInt = .ok k → issues (.cxp a f) 5 (shape.toInt.toNat + 56)) ∧
    (ctl.toNat / 2 ^ 48 = 0 → ∀ i ∈ [Instr.cxa d a b red f, .cxg d a b f, .cxs d a b red f, .cxb d a b f, .cxt d a b f],
      exec i s = .next (s.trapped 18 (recordInfo 0 (2, 0))))

/-! ## What comes to teams, and dispatch -/

/-- R118, R138, R447, R416, R458: what comes to a team by itself. The earliest issued vector instruction whose final pass is over raises its flags in
STATUS and nothing else; a load's or special function's result that is due is no longer awaited and its clause flag counts one fewer; a result of the
divider is readable when its cycle has come; a YIELD whose time is over is over.
MODEL'S CHOICE: From which cycle YIELD's 64 cycles count is read as log entry 21 says. -/
def Obligations.TeamEvents : Prop :=
  ∀ (s : State) (c p : Nat) (t : Team), (s.m.core c).teams.find? p = some t →
    let put (u : Team) : State := { s with m := s.m.setTeamAt c p u }
    (∀ xs r ys, t.passes = xs ++ r :: ys → r.due < s.m.now → (∀ q ∈ ys, s.m.now ≤ q.due) →
      Completes (.vectorFinalPass c p) s fun n => ∃ st : Word, n = put { t with passes := xs ++ ys, status := st } ∧
        ∀ i, i < 64 → st.getLsbD i = (t.status.getLsbD i || (decide (i < 5) && r.flags.testBit i))) ∧
    (∀ k ∈ [PendKind.load, PendKind.special], ∀ xs q ys, t.pend = xs ++ q :: ys → q.kind = k → q.due ≤ s.m.now →
      (∀ z ∈ ys, z.kind = k → s.m.now < z.due) → t.phase ≠ .ending →
      exec (if k = .load then .loadDataReady c p else .specialFunctionReady c p) s = .next (put
        { t with pend := xs ++ ys, flags := match q.flag with | some f => t.flags.set f (t.flagCount f - 1) | none => t.flags })) ∧
    (0 < (s.m.core c).dividerFree → (s.m.core c).dividerFree ≤ s.m.now →
      Completes (.dividerFree c) s fun n => (n.m.core c).dividerFree = 0 ∧ OnlyCores s n ∧ BytesKept s n (fun _ _ _ => False) ∧
        ∃ u, (n.m.core c).teams.find? p = some u ∧ u = { t with pend := u.pend } ∧
          ∀ q, q ∈ u.pend ↔ q ∈ t.pend ∧ (q.kind = .divider → s.m.now < q.due)) ∧
    (∀ e, t.yielding = some e → e ≤ s.m.now → exec (.yieldExpiry c p) s = .next (put { t with yielding := none }))

/-- R32, R38, R42, R43, R35, R144: the way of a launch from its ring to a core. LAUNCH_RECORD_READ takes the record at HEAD and moves HEAD past it; a
record that a check of R38 rejects makes a notification of code 1 with the reason, any other a live grid, the head launch of its queue.
BATCH_HANDOUT gives the next groups of the grid served to the next die that can take them, with their priority tags. GROUP_PLACEMENT puts a die's
oldest group on the lowest core that can take it whole, its partitions all zero, its teams at their entry, once the groups of its grid that were handed out
before it are placed. R494: one batch goes out in a cycle.
MODEL'S CHOICE: The identifier of a grid, the shared choices of the dispatcher and TRAPCAUSE at placement are the model's (log entries 9, 67 and 71). -/
def Obligations.LaunchesAreDispatched : Prop :=
  ∀ (s : State), s.sys.pstate = 0 →
    (∀ q ws, q < 64 → s.sys.boot = 0 → (s.m.queue q).head ≠ (s.m.queue q).tail → (s.m.queue q).current = none →
      let k := s.m.queue q
      let base := bits k.rbase 51 6 * 64 + 64 * k.head
      let moved : LaunchQ := { k with head := (k.head + 1) % 2 ^ k.log2 }
      (∀ i, i < 8 → inDevice (base + 8 * i) = true) → s.SoundAt base 64 → ws = s.mem.readDs base 8 →
      Completes (.launchRecordRead q) s fun u => u.mem = s.mem ∧
        (∀ reason, s.m.rejects ws = some reason → u.m = s.m.setQueue q { moved with notes := k.notes ++
          [⟨.ofNat 64 (2 ^ 56 + reason % 2 ^ 8 * 2 ^ 48 + q * 2 ^ 40), (launchRec ws).user⟩] }) ∧
        (s.m.rejects ws = none → ∃ id g, u.m.grids.find? id = some g ∧ u.m.queue q = { moved with current := some id, last := some id, had := true } ∧
          g.lrec = launchRec ws ∧ g.queue = q ∧ g.aspace = k.aspace ∧ g.depth = 0 ∧ g.parent = none ∧ g.next = 0 ∧ g.complete = 0 ∧ g.saved = [] ∧
          u.m.cores = s.m.cores)) ∧
    (∀ n, s.m.now < s.m.batchFrom → exec (.batchHandout n) s = .next s) ∧
    (∀ n id g d, s.savedFirst = false → s.m.batchFrom ≤ s.m.now → s.m.served = some (id, g) → s.m.grids.find? id = some g → g.lrec.coop = false → g.needAcq = false →
      s.m.dieOrder.find? (fun d => s.m.takes d id g) = some d → 0 < n → n ≤ 64 → n % g.lrec.factor = 0 → n ≤ s.m.dieCount d id n →
      let prio := if g.parent.isSome then g.prio else max g.lrec.prio (s.m.queue g.queue).prio
      Completes (.batchHandout n) s fun u => u = { s with m := u.m } ∧ u.m.cores = s.m.cores ∧
        u.m.handedTo d = s.m.handedTo d ++ (List.range n).map (fun i => ⟨id, g.next + i, prio⟩) ∧ (∀ e, e ≠ d → u.m.handedTo e = s.m.handedTo e) ∧
        u.m.grids.find? id = some { g with next := g.next + n } ∧ u.m.lastDie = some d ∧ u.m.batchFrom = s.m.now + 1 ∧
        (g.lrec.groups ≤ g.next + n → (u.m.queue g.queue).current ≠ some id ∧ id ∉ u.m.children)) ∧
    (∀ d h rest g c gr, d < 4 → s.m.handedTo d = h :: rest → (∀ e k, e < 4 → k ∈ s.m.handedTo e → k.grid = h.grid → h.idx ≤ k.idx) → s.m.grids.find? h.grid = some g → g.lrec.coloc = 0 → g.acquire = none → c < 80 →
      (s.m.core (80 * d + c)).grant? g.lrec g.lrec.needs = some gr → (∀ b, b < c → (s.m.core (80 * d + b)).grant? g.lrec g.lrec.needs = none) →
      Completes (.groupPlacement d) s fun u => u = { s with m := u.m } ∧ u.m.handedTo d = rest ∧ (∀ b, b ≠ 80 * d + c → u.m.core b = s.m.core b) ∧
        let x := u.m.core (80 * d + c)
        let v := x.group gr.group
        v.grid = h.grid ∧ v.idx = h.idx ∧ v.prio = h.prio ∧ v.aspace = g.aspace ∧ v.lrec = g.lrec ∧ v.phase = .resident ∧ v.children = 0 ∧
        v.spUnit = gr.sp ∧ v.tileUnit = gr.tile ∧ v.accs = gr.accs ∧ v.stopping = false ∧
        (v.filling = none ↔ v.spSize = 0 ∧ v.tileSize = 0) ∧ (∀ f, v.filling = some f → s.m.now < f) ∧
        (∀ a, v.spBase ≤ a → a < v.spBase + v.spSize → x.scratch.read a = 0) ∧ (∀ a, v.tileBase ≤ a → a < v.tileBase + v.tileSize → x.tile.read a = 0) ∧
        ∀ i p, i < g.lrec.teams → gr.places[i]? = some p →
          let t := x.team p
          t.group = gr.group ∧ t.tid = i ∧ t.lanes = 32 * 2 ^ g.lrec.width ∧ t.allot = g.lrec.allot ∧ t.pc = .ofNat 64 g.lrec.entry ∧ t.pos = 0 ∧
          t.phase = .running ∧ t.mode = 0 ∧ t.status = 0 ∧ t.trapVec = 0 ∧ t.trapCause = 0 ∧ t.stack = [] ∧ t.rs 1 = g.lrec.arg ∧
          (∀ r, r ≠ 1 → r ≠ 63 → t.rs r = 0) ∧ (∀ l, l < t.lanes → t.active l = true))

/-- R39, R46, R294, R321: the register writes of a launch queue by the function that owns it: a doorbell moves TAIL to an index ahead of the present
one that does not pass HEAD, and wakes a device in P1, where a request for P0 that is still pending is then met; in P2 it is ignored. A priority write sets the queue's priority; an empty queue moves to the
other port. R144, R48, R49, R41, R403, R40, R295, R297: the end of a partition's fill lets the group's teams issue, once a restore's acquire is made and its watches are armed. A DRAINING group
whose engines are done leaves its place and frees its range locks: one with live children as a PLACEHOLDER while the die's table has room, any other as
complete; a top-level grid without a signal address whose groups are all complete retires at a cycle's end, once all that its dies sent is performed. An accepted child launch writes its parent's status word and the handle; a notification and a fault record go to their
rings while these have room, and raise their vectors.
MODEL'S CHOICE: When a DRAINING group is complete, when a grid's release starts, what a doorbell does in P1 and P2 and how a leaving group's queued stores end are read as log entries 68, 70, 101, 102, 115 and 153 say. -/
def Obligations.DispatchRecords : Prop :=
  ∀ (s : State),
    (∀ q tail port, q < 64 → (s.m.queue q).ownPort = port → s.sys.boot = 0 → s.sys.pstate ≤ 2 →
      let k := s.m.queue q
      let size := 2 ^ k.log2
      let past (x : Nat) : Nat := (x + size - k.head % size) % size
      (k.enable = true → tail < size → past k.tail < past tail →
        (s.sys.pstate ≤ 1 → Completes (.doorbell q tail port) s fun u => u.m = s.m.setQueue q { k with tail := tail } ∧
          u.sys = { s.sys with pstate := 0, preqPending := if s.sys.pstate = 1 then s.sys.preqPending && s.sys.preq ≠ 0 else s.sys.preqPending } ∧ u.mem = s.mem ∧ (s.sys.pstate = 1 → ∀ d, d < 4 → (u.die d).ramp = 1) ∧ (s.sys.pstate = 0 → u.l2 = s.l2)) ∧
        (s.sys.pstate = 2 → exec (.doorbell q tail port) s = .next s)) ∧
      (∀ prio, prio < 8 → exec (.queuePriorityWrite q prio port) s = .next { s with m := s.m.setQueue q { k with prio := prio } }) ∧
      (∀ other, k.head = k.tail → other < 2 →
        exec (.queueOwnportMove q other port) s = .next { s with m := s.m.setQueue q { k with ownPort := other } })) ∧
    (∀ c g v f, (s.m.core c).groups.find? g = some v → v.filling = some f → f ≤ s.m.now → (∀ k, v.acquire = some k → ∀ b ∈ s.m.bumps, b.token ≠ k) →
      (∀ p ∈ (s.m.core c).cmds, p.2.group = g → p.2.kind = kWATCH → p.2.state = .running → p.2.stage ≠ 0 ∨ p.2.cancelling = true ∨ p.2.replay ≠ none) →
      exec (.partitionFillEnd c g) s = .next { s with m := s.m.setGroupAt c g { v with filling := none, acquire := none } }) ∧
    (∀ c g v, (s.m.core c).groups.find? g = some v → v.phase = .draining → s.m.enginesDone c g = true →
      let left (ph : GroupPhase) (u : State) : Prop := (u.m.core c).groups.find? g = some { v with phase := ph } ∧
        (∀ h, h ≠ g → (u.m.core c).groups.find? h = (s.m.core c).groups.find? h) ∧
        (∀ l, l ∈ (u.m.core c).locks ↔ l ∈ (s.m.core c).locks ∧ l.2.group ≠ g) ∧
        ((∀ p ∈ (s.m.core c).teams, p.2.group = g → p.2.flight = [] ∧ p.2.storeQ = []) →
          (∀ x ∈ s.m.cores, ∀ p ∈ x.2.teams, ∀ q ∈ p.2.flight ++ p.2.storeQ, q.into c v = false) →
          ∀ b tile a, ((u.m.core b).bytes tile).read a = ((s.m.core b).bytes tile).read a)
      (v.children ≠ 0 → Completes (.groupComplete c g) s fun u => u = { s with m := u.m } ∧ u.m.grids = s.m.grids ∧
        (s.m.holders (c / 80) < 1024 → left .gone u ∧ u.m.placeholders = s.m.placeholders ++ [⟨c / 80, v.grid, v.idx, v.children⟩]) ∧
        (1024 ≤ s.m.holders (c / 80) → left .waitingPlaceholder u ∧ u.m.placeholders = s.m.placeholders)) ∧
      (v.children = 0 → ∀ k, s.m.grids.find? v.grid = some k →
        Completes (.groupComplete c g) s fun u => u = { s with m := u.m } ∧ left .gone u ∧
          u.m.grids.find? v.grid = some { k with complete := k.complete + 1 } ∧ u.m.placeholders = s.m.placeholders)) ∧
    (∀ id k, s.m.grids.find? id = some k →
      let sent : Prop := ∀ d ∈ k.dies, (s.die d).performedAll = true
      (k.complete < k.lrec.groups ∨ ¬ sent → retireGrid levels id s = s) ∧
      (k.lrec.groups ≤ k.complete → sent → k.lrec.sigaddr = 0 → k.parent = none →
        (retireGrid levels id s).m.grids.find? id = none ∧ ∀ c p, (retireGrid levels id s).m.teamAt c p = s.m.teamAt c p)) ∧
    (∀ c g xs r ys, s.m.launches = xs ++ r :: ys → (∀ q ∈ xs, q.core ≠ c ∨ q.group ≠ g) → r.core = c → r.group = g → r.issued + 64 ≤ s.m.now →
      let v := s.m.groupAt c g
      let ends (handle status : Word) (u : State) : Prop :=
        u.m.launches = xs ++ ys ∧ (r.dst ≠ 0 → (u.m.teamAt c r.place).rs r.dst = handle) ∧ (u.m.core c).readSp v (r.off + 64) = status
      Completes (.launchAccept c g) s fun u =>
        (∀ reason, s.m.rejects r.words = some reason → ends (.ofNat 64 (2 ^ 31 ||| r.off)) (.ofNat 64 (3 * 2 ^ 60 ||| reason * 2 ^ 52)) u ∧
          u.m.grids = s.m.grids) ∧
        (s.m.rejects r.words = none → ∃ id k, ends (.ofNat 64 (id * 2 ^ 32 ||| r.off)) (.ofNat 64 (2 ^ 60 ||| id)) u ∧ u.m.grids.find? id = some k ∧
          k.lrec = launchRec r.words ∧ k.aspace = v.aspace ∧ k.queue = v.queue ∧ k.depth = v.depth + 1 ∧ k.parent = some ⟨v.grid, v.idx, r.off⟩ ∧
          k.prio = min (launchRec r.words).prio v.prio ∧ (u.m.groupAt c g).children = v.children + 1)) ∧
    (∀ q n rest, q < 64 → (s.m.queue q).notes = n :: rest → ((s.m.queue q).ntail + 1) % 2 ^ (s.m.queue q).nlog2 ≠ (s.m.queue q).nhead →
      let k := s.m.queue q
      let at_ := bits k.nbase 51 4 * 16 + 16 * k.ntail
      inDevice at_ = true → Completes (.notificationPost q) s fun u => u.mem.readD at_ = n.w0 ∧ u.mem.readD (at_ + 8) = n.w1 ∧
        u.m.queue q = { k with notes := rest, ntail := (k.ntail + 1) % 2 ^ k.nlog2 } ∧ u.sys.outputs = s.sys.outputs ++ [.msix k.ownPort q] ∧
        ∀ a, a < at_ ∨ at_ + 16 ≤ a → u.mem.read a = s.mem.read a) ∧
    (∀ r rest, s.m.faults = r :: rest → r.words.length = 4 → (s.sys.fqTail + 1) % 2 ^ s.sys.fqLog2 ≠ s.sys.fqHead → s.sys.boot = 0 →
      let at_ := bits s.sys.fqBase 51 5 * 32 + 32 * s.sys.fqTail
      inDevice at_ = true → Completes .faultRecordPost s fun u => u.mem.readDs at_ 4 = r.words ∧ u.m.faults = rest ∧
        u.sys = { s.sys with fqTail := (s.sys.fqTail + 1) % 2 ^ s.sys.fqLog2, outputs := s.sys.outputs ++ [.msix s.sys.ctlPort r.vector] } ∧
        ∀ a, a < at_ ∨ at_ + 32 ≤ a → u.mem.read a = s.mem.read a)
/-! ## Saving, restoring, debugging -/

/-- R54, R280, R282, R283, R284, R57, R55, R285, R286: making room. PRIORITY_PREEMPTION chooses, for the first waiting group that groups of lower
priority can make room for, such groups; their teams are to stop. A chosen group that has come to rest is saved: its slot is taken and holds its group
record, its commands suspended with PREEMPT, it is in its grid's restore list, its place is free. QUANTUM_EXPIRY chooses a group that has run out its
quantum for a waiting one of its own priority, undispatched or SAVED, PARKED_EVICTION the oldest parked group of an EVICTABLE grid, HOST_PREEMPT_REQUEST
what the host names; GRID_STALL notifies once. GROUP_RESTORE brings a group back from its slot with its partitions and with the teams that its galleys
give; one whose record fails its checks ends as a faulted group.
MODEL'S CHOICE: When groups are chosen, what a record keeps beside R283's fields, what of a record is checked and in which order groups return are the model's (log entries 72 to 75, 116 and 119). -/
def Obligations.GroupsAreSavedAndRestored : Prop :=
  ∀ (s : State),
    let chosen (us : List (Nat × Nat)) (u : State) : Prop :=
      u = { s with m := u.m } ∧
      ∀ c g, u.m.groupAt c g = if (c, g) ∈ us then { s.m.groupAt c g with stopping := true } else s.m.groupAt c g
    let suspended (k : Cmd) : Cmd := { k with state := .suspended, fault := if k.state = .suspended then k.fault else 9 }
    (∀ c g slot k, s.restingUnit (fun _ _ => true) = some [(c, g)] → s.sys.freeSlot? = some slot →
      s.m.grids.find? (s.m.groupAt c g).grid = some k → Completes .priorityPreemption s fun u =>
        let x := s.m.core c
        let base := s.sys.slotBase slot
        u.sys = { s.sys with usedSlots := slot :: s.sys.usedSlots } ∧ (u.m.groupAt c g).phase = .gone ∧ (u.m.groupAt c g).grid = (s.m.groupAt c g).grid ∧
        (∃ r k', u.m.grids.find? (s.m.groupAt c g).grid = some k' ∧ k'.saved = k.saved ++ [r] ∧ r.idx = (s.m.groupAt c g).idx ∧ r.slot = slot ∧
          r.prio = (s.m.groupAt c g).prio ∧ r.die = c / 80 ∧ r.live = (s.m.groupAt c g).live) ∧
        ((∀ p ∈ x.cmds, ∀ q ∈ x.cmds, p.1 = q.1 ∨ (p.2.group = g ∧ q.2.group = g ∧ p.2.order = q.2.order) → p = q) →
          (∀ p ∈ (s.die (c / 80)).lines, p.2.dirty ≠ 0 → 128 * p.1 + 128 ≤ base ∨ base + 2 ^ 22 ≤ 128 * p.1) →
          RecordOf u.mem base { x with scratch := (u.m.core c).scratch } c g (s.headerAt (x.group g).aspace)
            ((x.ownCmds g).map fun p => suspended p.2) (u.m.core c).scratch.read)) ∧
    (∀ id g pre rest v vs, s.restingUnit (fun _ _ => true) = none → s.m.unplaced = pre ++ (id, g) :: rest →
      let by_ (p : Nat × Grid) := s.victims (.fresh p.1 p.2) (fun w => decide (w.prio < s.m.prioOf p.2))
      (∀ p ∈ pre, by_ p = none ∨ by_ p = some []) → by_ (id, g) = some (v :: vs) →
      Completes .priorityPreemption s (chosen (v :: vs).flatten)) ∧
    (∀ c g us v, s.restingUnit (fun c' g' => (s.m.unitOf c g).contains (c', g')) = none → (s.m.core c).groups.has g = true →
      (s.m.groupAt c g).phase = .resident → s.sys.quantum ≠ 0 → (s.m.groupAt c g).placedAt + s.sys.quantum * 100000 * nsUnits ≤ s.m.time →
      (s.m.waitingAt (s.m.groupAt c g).prio).findSome? (fun w =>
        s.victims w (fun w => w.prio = (s.m.groupAt c g).prio && s.ranOut w)) = some us →
      us.find? (fun w => w.contains (c, g)) = some v → Completes (.quantumExpiry c g) s (chosen v)) ∧
    (∀ id g v, s.restingUnit (fun c' g' => (s.m.groupAt c' g').grid = id) = none → s.m.grids.find? id = some g → g.lrec.evictable = true →
      s.stalled id g = true → (∀ p ∈ s.m.waitingFor id g, (s.m.without s.m.stopped).fits p.1 p.2 = false) → s.oldestUnit id = some v →
      Completes (.parkedEviction id) s (chosen v)) ∧
    (∀ id g t, s.m.grids.find? id = some g → g.stallSince = some t → g.lrec.evictable = false → g.stallPosted = false →
      t + (if g.lrec.stalliv = 0 then 1000000 else g.lrec.stalliv * 10000) * nsUnits ≤ s.m.time → Completes (.gridStall id) s fun u =>
        u.m.grids.find? id = some { g with stallPosted := true } ∧ u = { s with m := { s.m with grids := u.m.grids, queues := u.m.queues } } ∧
        ∃ n, (u.m.queue g.queue).notes = (s.m.queue g.queue).notes ++ [n] ∧ n.w1 = g.lrec.user ∧
          (g.queue < 64 → id < 2 ^ 32 → n.w0.toNat = 2 * 2 ^ 56 + g.queue * 2 ^ 40 + id)) ∧
    (∀ id port, s.sys.ctlPort = port → s.sys.boot = 0 → s.sys.pstate ≠ 3 → Completes (.hostPreemptRequest id port) s (fun u => u.sys.preReq = .ofNat 32 id) ∧
      (∀ c g v, s.m.residents.filter (fun p => p.2.2.grid = id) = [(c, g, v)] → (s.m.groupAt c g).lrec.coop = false → (s.m.groupAt c g).lrec.coloc = 0 →
        s.choosable [(c, g)] = true → Completes (.hostPreemptRequest id port) s fun u => u.sys.preReq = .ofNat 32 id ∧ (u.m.groupAt c g).stopping = true)) ∧
    (∀ id idx g ref c gt, s.m.grids.find? id = some g → g.saved = [ref] → ref.idx = idx → g.lrec.coop = false → g.lrec.coloc = 0 →
      s.m.outranks id ref = true ∨ s.m.servedAfter id = true → (∀ r ∈ s.returning, r.2.before ref = false) → (∀ d, d < 4 → s.m.handedTo d = []) →
      s.m.partCoop = none → s.sys.pstate = 0 → s.coresFor g [ref] = some [(c, gt)] →
      (∀ p ∈ (s.m.core c).cmds, p.2.group ≠ gt.group) →
      let base := s.sys.slotBase ref.slot
      s.rangeStalls base g.lrec.recordBytes = false → s.readRange base g.lrec.recordBytes = s →
      (∀ v, ref.die = c / 80 → s.readRecord id g ref gt.group = some v → v.cmds = [] → (∀ h ∈ v.held, h = none) →
        (∀ (i : Nat) (t : Team), v.teams[i]? = some t →
          GalleyGives (fun k => s.mem.readD (base + (s.mem.readD (base + 0x380 + 8 * i)).toNat + 8 * k)) t) ∧
        Completes (.groupRestore id idx) s fun u =>
          let w := u.m.groupAt c gt.group
          u.mem = s.mem ∧ u.sys = { s.sys with usedSlots := s.sys.usedSlots.filter (· ≠ ref.slot) } ∧
          (u.m.grids.find? id).map Grid.saved = some [] ∧ w.grid = id ∧ w.idx = idx ∧ w.prio = ref.prio ∧ w.phase = .resident ∧
          w.live = ref.live ∧ w.children = bits (s.mem.readD (base + 8)) 31 0 ∧
          (∀ i, i < w.spSize → (u.m.core c).scratch.read (w.spBase + i) = s.mem.read (base + 0x35000 + i)) ∧
          (∀ i, i < w.tileSize → (u.m.core c).tile.read (w.tileBase + i) = s.mem.read (base + 0xB5000 + i)) ∧
          ∀ (i p : Nat) (t : Team), gt.places[i]? = some p → v.teams[i]? = some t → u.m.teamAt c p = { t with held := none }) ∧
      (s.readRecord id g ref gt.group = none → c < 320 → gt.group < 16 → id < 2 ^ 32 → idx < 2 ^ 32 → g.complete + 1 < g.lrec.groups →
        Completes (.groupRestore id idx) s fun u => u.mem = s.mem ∧ u.m.cores = s.m.cores ∧
          u.sys = { s.sys with usedSlots := s.sys.usedSlots.filter (· ≠ ref.slot) } ∧
          (∃ r, u.m.faults = s.m.faults ++ [r] ∧ r.vector = 64 ∧
            r.words = [.ofNat 64 (17 * 2 ^ 56 + c * 2 ^ 47 + gt.group * 2 ^ 43), 0, .ofNat 64 (id * 2 ^ 32 + idx), 0]) ∧
          (bits (s.mem.readD (base + 8)) 31 0 = 0 →
            u.m.grids.find? id = some { g with faulted := true, faultPosted := true, saved := [], complete := g.complete + 1 })))

/-- R287, R288: debug commands, honoured through CTLPORT's function while debug is open. HALT asks a running or parked team to stop, and is under way
until it has: at a clause boundary or between REP steps, with its group's matrix operations over. RESUME returns a halted team to what it was halted from;
STEP lets it issue one word; on a team that is not halted these two change nothing, but that a halt asked for is dropped by RESUME. SNAP writes the group
record of a group whose teams are all HALTED or EXITED to the lowest free slot and leaves the group as it is; otherwise it is ignored. SNAP_RELOAD gives
the halted teams the state of their galleys, and changes nothing when a galley fails its checks.
MODEL'S CHOICE: Details of halting, stepping and reloading are read as log entry 76 says. -/
def Obligations.DebugCommands : Prop :=
  ∀ (s : State) (c p g port : Nat), s.sys.ctlPort = port → s.sys.boot = 0 → s.sys.pstate ≠ 3 → s.sys.dbg ≠ 0 → c < 320 →
    let x := s.m.core c
    let onCore (y : Core) : State := { s with m := s.m.setCore c y }
    let halted (t : Team) : Prop := t.phase = .exited ∨ ∃ k, t.phase = .halted k
    (x.teams.find? p = none → ∀ i ∈ [Instr.debugHalt c p port, .debugResume c p port, .debugStep c p port],
      exec i s = .next (onCore { x with dbgPlace := p, dbgCmd := 0 })) ∧
    (∀ t, x.teams.find? p = some t →
      (t.phase = .running ∨ (∃ k, t.phase = .parked k) →
        exec (.debugHalt c p port) s = .next (onCore { x.setTeam p { t with haltReq := true } with dbgPlace := p, dbgCmd := 1 })) ∧
      (∀ k, t.phase = .halted k → exec (.debugHalt c p port) s = .next (onCore { x with dbgPlace := p, dbgCmd := 1 })) ∧
      (t.phase = .ending ∨ t.phase = .exited → exec (.debugHalt c p port) s = .next (onCore { x with dbgPlace := p, dbgCmd := 0 })) ∧
      (t.haltReq = true → t.phase = .running → t.pos = 0 → x.matBusy t.group = false →
        x.halts.teams.find? p = some { t with phase := .halted none, haltReq := false }) ∧
      (∀ k, t.phase = .halted k →
        let back : Phase := match k with | none => .running | some w => .parked w
        exec (.debugResume c p port) s = .next (onCore { x.setTeam p { t with phase := back, haltReq := false } with dbgPlace := p, dbgCmd := 0 }) ∧
        exec (.debugStep c p port) s =
          .next (onCore { x.setTeam p { t with phase := back, haltReq := false, stepping := true } with dbgPlace := p, dbgCmd := 3 })) ∧
      ((∀ k, t.phase ≠ .halted k) →
        exec (.debugResume c p port) s = .next (onCore { x.setTeam p { t with haltReq := false } with dbgPlace := p, dbgCmd := 0 }) ∧
        exec (.debugStep c p port) s = .next (onCore { x with dbgPlace := p, dbgCmd := 0 }))) ∧
    (∀ slot, s.sys.freeSlot? = some slot → (x.group g).phase = .resident ∨ (x.group g).phase = .draining → x.groups.has g = true →
      ((∀ q ∈ x.teams, q.2.group = g → halted q.2) → x.matBusy g = false →
        Completes (.snap c g port) s fun u => u.sys = { s.sys with usedSlots := slot :: s.sys.usedSlots } ∧ (u.m.core c).snapSlot = slot ∧
          u.m.groupAt c g = x.group g ∧ (∀ q, u.m.teamAt c q = x.team q) ∧
          RecordOf u.mem (s.sys.slotBase slot) x c g (s.headerAt (x.group g).aspace) ((x.ownCmds g).map Prod.snd) x.scratch.read) ∧
      ((∃ q ∈ x.teams, q.2.group = g ∧ ¬ halted q.2) ∨ x.matBusy g = true → exec (.snap c g port) s = .next (onCore { x with dbgGroup := g }))) ∧
    (x.groups.has g = true → (∀ q ∈ x.teams, q.2.group = g → halted q.2) → x.matBusy g = false →
      let base := s.sys.slotBase x.snapSlot
      Fields (s.mem.readD base) [(63, 32, (x.group g).grid), (31, 0, (x.group g).idx)] →
      (∀ new : Nat → Team, (∀ q ∈ x.ownTeams g, s.reloadTeam base (x.group g).lrec q.2 = some (new q.1)) →
        let y := ((x.ownTeams g).foldl (fun (y : Core) q => y.setTeam q.1 (new q.1)) x).drain g
        (y.granted ≤ 65536 → exec (.snapReload c g) s = .next (onCore y)) ∧
        ∀ q ∈ x.ownTeams g, (q.2.phase = .exited → new q.1 = q.2) ∧ (q.2.phase ≠ .exited → (new q.1).group = q.2.group ∧ (new q.1).tid = q.2.tid ∧
          GalleyGives (fun k => s.mem.readD (base + (s.mem.readD (base + 0x380 + 8 * q.2.tid)).toNat + 8 * k)) (new q.1))) ∧
      ((∃ q ∈ x.ownTeams g, s.reloadTeam base (x.group g).lrec q.2 = none) → exec (.snapReload c g) s = .next s))
/-! ## Copy commands -/

/-- R150, R174, R156, R155, R151, R172, R177, R279, R384, R385: the life of a copy command in its entry. Eight cycles after its post the engine accepts
the earliest posted command of its queue, which counts down the poster's flag; one that CCANCEL has named by then is CANCELLED in that step's place. The
oldest unstarted one starts unless a FENCE ahead of it, being a SIGNAL itself, or the acquire of an earlier LWAIT holds it back. A command that has done all that it does, and all of whose
accesses are acknowledged, completes with DONE its element count; one marked for cancellation ends as CANCELLED with DONE as it is, unless its one access
is made already: its locks are freed, word 7 says its state, and its arrival lands on its barrier as the cycle ends. FQSVC resumes a suspended command or
marks it for cancellation.
MODEL'S CHOICE: Which commands a cancel reaches, a DRAINING group's commands, a late cancel and the place of word 7's writes are read as log entries 47, 48, 121 and 143 say. -/
def Obligations.CopyCommandsLiveAndEnd : Prop :=
  ∀ (s : State) (c q slot : Nat) (k : Cmd),
    let key := 64 * q + slot
    let x := s.m.core c
    let g := s.m.groupAt c k.group
    let word7 (u : State) : Nat := ((u.m.core c).readSp g (k.off + 56)).toNat
    let n := bits (k.w 6) 63 48
    let boff := bits (k.w 6) 18 0
    let sent (m : Msg) : Prop := m ∈ (s.die (c / 80)).msgs ∧ k.waits.contains m.id = true
    -- nothing can take back a FENCE's release and acquire, or a SIGNAL's write, that is made
    let made : Prop := k.remoteFault = 0 ∧ ((k.kind = 6 ∧ k.stage = 4 ∧ ∀ t, k.token = some t → ∀ b ∈ s.m.bumps, b.token ≠ t) ∨
      (k.kind = 5 ∧ (3 ≤ k.stage ∨ (k.stage = 2 ∧ if k.peers = [] then ∀ m, sent m → m.kind = .performed else bits (k.w 0) 26 24 ≠ 0))))
    let ended (u : State) (state : CmdState) (code done : Nat) : Prop :=
      (∃ d, u.cmd? c key = some d ∧ d.state = state ∧ d.done = done ∧ d.words = k.words) ∧
      (∀ core e l, (u.m.core core).locks.find? e = some l → ofCommand c q slot l = false) ∧ word7 u / 2 ^ 60 = code ∧
      (u.m.core c).arrivals = x.arrivals ++ (if n = 0 then [] else [⟨key, g.spBase + boff, n⟩])
    q < 4 → slot < 64 → g.filling = none → k.off + 64 ≤ g.spSize →
    (x.cmds.find? key = some k → k.accepted = false → k.state = .posted → k.postedAt + 8 ≤ s.m.now →
      (∀ p ∈ x.cmds, p.1 / 64 = q → p.2.accepted = false → k.postedAt < p.2.postedAt ∨ (k.postedAt = p.2.postedAt ∧ k.team ≤ p.2.team)) →
      Completes (.commandAccept c q slot) s fun u => OnlyCores s u ∧ (u.m.core c).nextOrder = x.nextOrder + 1 ∧
        (k.cancelling = false → u.cmd? c key = some { k with accepted := true, order := x.nextOrder } ∧ word7 u / 2 ^ 60 = 0) ∧
        (k.cancelling = true → ended u .cancelled 4 k.done) ∧
        ∀ t, x.teams.find? k.team = some t → t.phase ≠ .ending →
          ∃ v, (u.m.core c).teams.find? k.team = some v ∧
            v = { t with flags := t.flags.set k.flag (t.flagCount k.flag - 1), storeQ := v.storeQ, flight := v.flight } ∧
            ∀ z ∈ v.flight ++ v.storeQ, z.core = c → z.tile = false → z.issued ≤ k.postedAt →
              ∀ b ∈ z.bytes, b.1 < g.spBase + k.off + 56 ∨ g.spBase + k.off + 64 ≤ b.1) ∧
    ((key, k) ∈ x.cmds → k.accepted = true → k.started = false → k.state = .posted → k.cancelling = false → x.groups.has k.group = true →
      (∀ p ∈ x.cmds, p.1 / 64 = q → p.2.accepted = true → p.2.started = false → p.2.state = .posted → p ≠ (key, k) → k.order < p.2.order) →
      (∀ p ∈ x.cmds, p.1 / 64 = q → p.2.accepted = true → p.2.order < k.order → p.2.state = .posted ∨ p.2.state = .running ∨ p.2.state = .suspended →
        p.2.kind ≠ 6 ∧ k.kind ≠ 5) → (∀ b ∈ s.m.bumps, b.lwait = true → b.die = c / 80 → k.postedAt ≤ b.at_) →
      Completes (.commandStart c q) s fun u => u.cmd? c key = some { k with started := true, state := .running } ∧ word7 u / 2 ^ 60 = 1 ∧
        OnlyCores s u) ∧
    (x.cmds.find? key = some k → x.stopEng = false → k.state = .running → (k.kind ≤ 3 ∧ k.total ≤ k.done) ∨ (3 < k.kind ∧ k.stage = 4) →
      k.cancelling = false ∨ made → s.acked c k = true → s.openRequests c key = false → (∀ t, k.token = some t → ∀ b ∈ s.m.bumps, b.token ≠ t) →
      Completes (.commandComplete c q slot) s fun u => ended u .done 3 k.total ∧ OnlyCores s u) ∧
    (x.cmds.find? key = some k → k.state = .posted ∨ k.state = .running ∨ k.state = .suspended → k.cancelling = true → k.accepted = true → ¬ made →
      (∀ m, sent m → k.kind = 5 ∧ k.stage = 2 ∧ m.kind ≠ .performed) →
      (k.kind ≤ 3 → k.stage = 2 → k.state = .running → k.remoteFault = 0 → s.openRequests c key = false) →
      Completes (.cancellationComplete c q slot) s fun u => ended u .cancelled 4 k.done) ∧
    (∀ a, x.arrivals = [a] → x.landAll.arrivals = [] ∧ x.landAll.scratch.readD a.off = arrive (x.scratch.readD a.off) a.count) ∧
    (∀ w1 port core e d, s.sys.ctlPort = port → s.sys.boot = 0 → s.sys.pstate ≠ 3 →
      s.m.serviced (w1.toNat % 2 ^ 32) (bits s.sys.svc0 31 0) (bits s.sys.svc0 61 60) (bits s.sys.svc0 59 54) = some (core, e, d) →
      (bits s.sys.svc0 63 62 = 1 → d.cancelling = false → Completes (.fqsvcResume w1 port) s fun u =>
        u.cmd? core e = some { d with state := .running, fault := 0, remoteFault := 0 }) ∧
      (bits s.sys.svc0 63 62 = 2 → Completes (.fqsvcCancel w1 port) s fun u => OnlyCores { s with sys := u.sys } u ∧
        u.cmd? core e = (s.cmd? core e).map fun d => { d with cancelling := true }))

/-- R158 to R166, R186, R188, R194, R199: what copy commands do, in entries whose command runs and is not cancelled. A step of FILL, COPY, GATHER or SCATTER between
local memories in one format writes the one element: the constant, or the source element, with the index list naming the source's or the destination's row
element, once what comes first on those bytes is performed; DONE counts it and nothing else changes but word 7. WATCH arms at its home unless its
comparison holds already; a satisfied one stores its value. SIGNAL releases, then sends its write, then has done all that it does; so have FENCE and FLUSH
after their release, and each HINT after one step, which a migrating page of its range makes wait. DONE of these five stays 0 until they complete.
MODEL'S CHOICE: The path of a SIGNAL's write, the details of FLUSH and HINT, a WATCH that saw part of a write, and a WATCH to a tile store are the model's (log entries 49, 56, 57, 58, 123 and 147). -/
def Obligations.CopyCommandsAct : Prop :=
  ∀ (s : State) (c q slot : Nat) (k : Cmd),
    let key := 64 * q + slot
    let g := s.m.groupAt c k.group
    let d := c / 80
    let wide : Prop := 6 ≤ bits (k.w 0) 59 56
    q < 4 → slot < 64 → g.filling = none → s.cmd? c key = some k → k.state = .running → k.cancelling = false → k.replay = none →
    (s.m.core c).stopEng = false →
    (∀ o, s.m.mayAccess c key k = true → k.done < k.total → k.answers = [] →
      let f := bits (k.w 0) 34 30
      bits (k.w 0) 39 35 = f → isFourBit f = false → bits (k.w 0) 26 24 = 0 →
      s.m.operandOf c k 2 f k.total k.dst = some o → o.spot.global = false →
      let w7 := g.spBase + k.off + 56
      let moves (i j v : Nat) (t u : State) : Prop :=
        let p := t.m.phys o.spot.reach (o.at j)
        let mine (core : Nat) (tile : Bool) (a : Nat) : Prop :=
          core = o.spot.reach.core ∧ tile = o.spot.reach.tile ∧ p ≤ a ∧ a < p + elemBytes f
        let stat (core : Nat) (tile : Bool) (a : Nat) : Prop := core = c ∧ tile = false ∧ w7 ≤ a ∧ a < w7 + 8
        ((∀ core tile a, ¬ (mine core tile a ∧ stat core tile a)) →
          ((u.m.core o.spot.reach.core).bytes o.spot.reach.tile).readN p (elemBytes f) = v % 2 ^ (8 * elemBytes f)) ∧
        (u.cmd? c key).map Cmd.done = some (i + 1) ∧ BytesKept s u (fun core tile a => mine core tile a ∨ stat core tile a)
      let ready (r : Reach) (off : Int) (n : Nat) (write : Bool) : Prop := s.m.tileWaits r off n write k.postedAt = false
      let sound (r : Reach) (off : Int) (n : Nat) : Prop := (s.m.core r.core).uncorrectable r.tile (s.m.phys r off / 8) = false ∧ ready r off n false
      let put (j : Nat) : Prop := ready o.spot.reach (o.at j) (elemBytes f) true
      let value (r : Reach) (off : Int) (n : Nat) : Nat := ((s.m.core r.core).bytes r.tile).readN (s.m.phys r off) n
      (k.kind = 3 → put k.done → Completes (.fillCmd c q slot 1) s (moves k.done k.done (k.w 3).toNat s)) ∧
      (∀ b, s.m.operandOf c k 1 f k.total k.src = some b → b.spot.global = false →
        (k.kind = 0 → put k.done → sound b.spot.reach (b.at k.done) (elemBytes f) →
          Completes (.copyCmd c q slot 1) s (moves k.done k.done (value b.spot.reach (b.at k.done) (elemBytes f)) s)) ∧
        (∀ z, s.m.spotOf c k.group k.tid false (k.w 3) = some z →
          let at_ : Int := z.off + 4 * (k.done / k.rowLen : Nat)
          let j := value z.reach at_ 4
          let row := j * k.rowLen + k.done % k.rowLen
          sound z.reach at_ 4 →
          (k.kind = 1 → j < b.extOuter → put k.done → sound b.spot.reach (b.at row) (elemBytes f) →
            Completes (.gatherCmd c q slot 1) s (moves k.done k.done (value b.spot.reach (b.at row) (elemBytes f)) s)) ∧
          (k.kind = 2 → j < o.extOuter → put row → sound b.spot.reach (b.at k.done) (elemBytes f) →
            Completes (.scatterCmd c q slot 1) s (moves k.done row (value b.spot.reach (b.at k.done) (elemBytes f)) s))))) ∧
    (k.kind = 4 →
      let size := if bitOf (k.w 0) 15 then 8 else 4
      (∀ t l, k.stage = 0 → (∀ a, g.acquire = some a → ∀ b ∈ s.m.bumps, b.token ≠ a) →
        s.engineAccess c key k (bits (k.w 1) 54 0 : Nat) .read = .ok (t, l) → l.remote = false →
        let pa := l.pa (bits (k.w 1) 54 0)
        inDevice pa = true → t.SoundAt pa size → (t.home (stackOf pa)).watches = [] →
        let w : Watch := { owner := .command c key, pa := pa, size := size, mask := k.w 3, cmp := k.w 5, rel := bits (k.w 0) 17 16, armed := true }
        let v : Word := .ofNat 64 (s.mem.readN pa size)
        Completes (.watchCmd c q slot) s fun u => u.mem = s.mem ∧
          (w.meets v = true → u.cmd? c key = some { k with stage := 1, watchVal := some v } ∧ (u.home (stackOf pa)).watches = []) ∧
          (w.meets v = false → u.cmd? c key = some { k with stage := 1 } ∧ (u.home (stackOf pa)).watches = [w])) ∧
      (∀ v, k.stage = 1 → k.watchVal = some v → s.m.mayAccess c key k = true →
        (∀ z, k.w 2 ≠ 0 → s.m.spotOf c k.group k.tid false (k.w 2) = some z → s.m.tileWaits z.reach z.off size true k.postedAt = false) → Completes (.watchComplete c q slot) s fun u =>
        (∃ t, u.cmd? c key = some { k with stage := 4, token := t } ∧
          (wide → ∀ cls, cls < 16 → (bits (k.w 0) 55 40).testBit cls = true → ∃ b ∈ u.m.bumps, t = some b.token ∧ b.die = d ∧ b.cls = cls)) ∧
        ∀ z, k.w 2 ≠ 0 → s.m.spotOf c k.group k.tid false (k.w 2) = some z →
          ((u.m.core z.reach.core).bytes z.reach.tile).readN (s.m.phys z.reach z.off) size = v.toNat % 2 ^ (8 * size))) ∧
    (k.kind = 5 →
      let size := if bitOf (k.w 0) 15 then 8 else 4
      let va := bits (k.w 2) 54 0
      let op := bits (k.w 0) 26 24
      (k.stage = 0 → Completes (.signalCmd c q slot) s fun u => ∃ ws, u.cmd? c key = some { k with stage := 1, waits := ws } ∧
        (wide → ∀ m ∈ (u.die d).msgs, m.id ∈ ws)) ∧
      (∀ t l, k.stage = 1 → s.acked c k = true → s.engineXlat c g.aspace (va : Nat) (if op = 0 then .write else .atomic) = (t, .ok l) →
        l.remote = false → inDevice (l.pa va) = true → (op ≠ 0 → t.SoundAt (l.pa va) size) →
        Completes (.signalCmd c q slot) s fun u => (u.cmd? c key).map Cmd.stage = some 2 ∧
          ∃ v : Word, v.toNat = (k.w 3).toNat % 2 ^ (8 * size) ∧ (u.die d).msgs = (t.die d).msgs ++ [⟨(t.die d).nextMsg, l.pa va / 128,
            l.cls, .atomic (l.pa va) op (if size = 8 then 7 else 6) size v, l.rdup⟩]) ∧
      (k.stage = 2 → s.acked c k = true → k.remoteFault = 0 → s.openRequests c key = false → k.peers = [] →
        exec (.signalCmd c q slot) s = .next (s.setCmd c key { k with stage := 4 }))) ∧
    (k.kind = 6 → k.stage ≠ 4 → (∀ p ∈ (s.m.core c).cmds, p.1 / 64 = q → p.2.accepted = true → p.2.order < k.order →
        p.2.state = .done ∨ p.2.state = .cancelled) →
      (k.stage = 0 → Completes (.copyFence c q slot) s fun u => ∃ ws, u.cmd? c key = some { k with stage := 1, waits := ws } ∧
        (wide → bitOf (k.w 0) 20 = true → ∀ m ∈ (u.die d).msgs, m.id ∈ ws)) ∧
      (k.stage ≠ 0 → s.acked c k = true → Completes (.copyFence c q slot) s fun u => ∃ t, u.cmd? c key = some { k with stage := 4, token := t } ∧
        (wide → bitOf (k.w 0) 19 = true → t.isSome = true))) ∧
    (k.kind = 7 → k.stage ≠ 4 → s.rangeWaits c g.aspace (bits (k.w 2) 54 0) (bits (k.w 4) 39 0) = false →
      (k.stage = 0 → Completes (.flushCmd c q slot) s fun u => ∃ ws h, u.cmd? c key = some { k with stage := 1, waits := ws, hintDrop := h } ∧
        ∀ m ∈ (u.die d).msgs, m.id ∈ ws) ∧
      (k.stage ≠ 0 → s.acked c k = true → Completes (.flushCmd c q slot) s fun u => u.cmd? c key = some { k with stage := 4 })) ∧
    (k.kind = 8 → k.stage ≠ 4 → s.rangeWaits c g.aspace (bits (k.w 1) 54 0) (bits (k.w 4) 39 0) = false →
      ∀ page, s.migrating c g.aspace (bits (k.w 1) 54 0) (bits (k.w 4) 39 0) = some page →
      ∀ p ∈ [(0, Instr.hintPrefetchL2 c q slot), (1, .hintPrefetchHome c q slot), (2, .hintKeepResident c q slot), (3, .hintReleaseResidency c q slot)],
        bits (k.w 0) 14 13 = p.1 → Completes p.2 s fun u => u.mem = s.mem ∧ (c, key) ∈ (u.die d).replayQ ∧
          ∃ r, u.cmd? c key = some { k with replay := some r }) ∧
    (k.kind = 8 → k.stage ≠ 4 → s.rangeWaits c g.aspace (bits (k.w 1) 54 0) (bits (k.w 4) 39 0) = false →
      s.migrating c g.aspace (bits (k.w 1) 54 0) (bits (k.w 4) 39 0) = none → ∀ t ps h,
      s.rangePieces c g.aspace (bits (k.w 1) 54 0) (bits (k.w 4) 39 0) (fun l => l.read && !l.own) = (t, ps, h) →
      let hinted (u : State) : Prop := u.cmd? c key = some { k with hintDrop := h, stage := 4 } ∧ u.mem = s.mem
      let op := bits (k.w 0) 14 13
      (op = 0 → Completes (.hintPrefetchL2 c q slot) s fun u => hinted u ∧ ∀ p ∈ pieceLines ps, ∀ i, i < 4 →
        ((s.die d).serve (128 * p.1 + 32 * i) 32 p.2.cls).isSome = true ∨ ∃ f ∈ (u.die d).fills, f.pa = 128 * p.1 + 32 * i) ∧
      (op = 1 → Completes (.hintPrefetchHome c q slot) s hinted) ∧
      (op = 2 → Completes (.hintKeepResident c q slot) s fun u => u.cmd? c key = some { k with hintDrop := h, stage := 4 }) ∧
      (op = 3 → Completes (.hintReleaseResidency c q slot) s fun u => hinted u ∧
        ∀ p ∈ pieceLines ps, ∀ v, (u.die d).lines.find? p.1 = some v → v.ret = 0))
/-! ## Die L2s, homes, translation -/

/-- R186, R187, R182, R185, R167, R195, R201, R191, R197, R198: what the die L2s and the homes do by themselves. A requested bump moves its class's
generation on, unless a line of the next one is live, and serves the requests of its cycle alone where there was no stall, none of them that of a FENCE
being cancelled; a fill puts its sector's bytes
into the line and gives them to its command; a message that is its line's turn is performed at its home and then acknowledged, and a line that stands
under another class leaves first; one to a read-duplicated page makes the other holders drop the granule and is performed with that; the sweeper clears SV
of old lines; the scrubber reads the next sector, and the error that it holds or meets is corrected and counted, or marks it poisoned.
MODEL'S CHOICE: The places of lines and the moments of evictions, merges and scrubs are the model's (log entries 78 to 84 and 140 to 142). -/
def Obligations.MemoryEvents : Prop :=
  ∀ (s : State) (d i : Nat),
    let x := s.die d
    let kept (u : State) (p : Nat → Bool) : Prop := ∀ a, p a = false → u.mem.read a = s.mem.read a
    (∀ cls b, b ∈ s.m.bumps → b.die = d → b.cls = cls → b.at_ + 4 ≤ s.m.now → s.m.givenUp b = false →
      (x.liveCount cls ((x.gen cls + 1) % 64) = 0 → Completes (.generationBump d cls) s fun u =>
        (u.die d).gen cls = (x.gen cls + 1) % 64 ∧ (u.die d).bumpCount.get 0 cls = (x.bumpCount.get 0 cls + 1) % 65536 ∧
        (∀ k, k ≠ cls → (u.die d).gen k = x.gen k) ∧ (u.die d).lines = x.lines ∧ (u.die d).stalled.find? cls = none ∧ u.mem = s.mem ∧
        (∀ k ∈ u.m.bumps, k ∈ s.m.bumps) ∧ (∀ k ∈ s.m.bumps, k.die ≠ d ∨ k.cls ≠ cls ∨ s.m.givenUp k = true → k ∈ u.m.bumps) ∧ (∃ k ∈ s.m.bumps, k ∉ u.m.bumps) ∧
        (x.stalled.find? cls = none → ∀ k ∈ s.m.bumps, b.at_ < k.at_ → k ∈ u.m.bumps)) ∧
      (x.liveCount cls ((x.gen cls + 1) % 64) ≠ 0 → x.stalled.find? cls = none →
        exec (.generationBump d cls) s = .next (s.setDie d { x with stalled := x.stalled.set cls s.m.now }))) ∧
    (∀ g, x.msgs[i]? = some g → g.kind = .performed → exec (.homeAcknowledge d i) s = .next (s.setDie d { x with msgs := x.msgs.eraseIdx i })) ∧
    (∀ f k, x.fills[i]? = some f → s.SoundAt f.pa 32 → x.lines.find? (f.pa / 128) = none → f.rd = false →
      s.cmd? f.core f.key = some k → f.pa ∈ k.asked →
      let at_ := f.pa / 32 * 32
      Completes (.fillReturn d i) s fun u => (∃ c, u.cmd? f.core f.key = some c ∧ c.fills.find? f.pa = some (s.mem.readBytes at_ 32) ∧ f.pa ∉ c.asked) ∧
        (x.bypasses at_ = false → f.gen = x.gen f.cls → (u.die d).serve at_ 32 f.cls = some (s.mem.readBytes at_ 32))) ∧
    (∀ g, x.turn i = some g →
      let other (pa a : Nat) : Bool := match x.lines.find? (pa / 128) with
        | some l => l.cls ≠ g.cls && decide (a / 128 = pa / 128) && l.dirty.getLsbD (a % 128)
        | none => false
      let left (pa : Nat) (u : State) : Prop := ∀ l, x.lines.find? (pa / 128) = some l → l.cls ≠ g.cls → (u.die d).lines.find? (pa / 128) = none
      (∀ line l, g.kind = .writeBack line → x.lines.find? line = some l → Completes (.writeBack d i) s fun u =>
        (∀ y, y < 128 → l.dirty.getLsbD y = true → u.mem.read (128 * line + y) = l.data.get 0 y) ∧
        kept u (fun a => a / 128 = line && l.dirty.getLsbD (a % 128)) ∧ (u.die d).lines.find? line = some { l with dirty := 0 } ∧
        ∀ h ∈ (u.die d).msgs, h.id = g.id → h.kind = .performed) ∧
      (∀ pa bs, g.kind = .writeThrough pa bs → s.heldBy d pa g.rdup = false → Completes (.writeThrough d i) s fun u =>
        u.mem.readBytes pa bs.length = bs ∧ kept u (fun a => other pa a || decide (pa ≤ a) && decide (a < pa + bs.length)) ∧ left pa u ∧
        ∀ h ∈ (u.die d).msgs, h.id = g.id → h.kind = .performed) ∧
      (∀ pa op fmt size v, g.kind = .atomic pa op fmt size v → s.heldBy d pa g.rdup = false → s.rowStalls pa = false → s.takenBack d g = false →
        x.lines.find? (pa / 128) = none →
        Completes (.homeAtomic d i) s fun u =>
          u.mem.readN pa size = combine op fmt (s.mem.readN pa size) v.toNat % 2 ^ (8 * size) ∧
          kept u (fun a => decide (pa ≤ a) && decide (a < pa + size)) ∧ ∀ h ∈ (u.die d).msgs, h.id = g.id → h.kind = .performed) ∧
      (∀ pa, g.kind.pa? = some pa → s.heldBy d pa g.rdup = true → (g.kind.atomic? = true → s.rowStalls pa = false ∧ s.takenBack d g = false) →
        Completes (.rdupInvalidate d i) s fun u => u.otherHolders pa d = [] ∧ ∀ k ∈ s.otherHolders pa d, ∀ line l, line / 32 = pa / 4096 → (u.die k).lines.find? line = some l →
          l.sv = 0 ∧ l.dirty = 0) ∧
      (∀ pa bs, g.kind = .writeThrough pa bs → s.heldBy d pa g.rdup = true → Completes (.rdupInvalidate d i) s fun u =>
        u.mem.readBytes pa bs.length = bs ∧ ∀ h ∈ (u.die d).msgs, h.id = g.id → h.kind = .performed)) ∧
    (i < 32 → Completes (.sweeperVisit d i) s fun u => u.mem = s.mem ∧ ∀ n l, x.lines.find? n = some l →
      let old : Prop := n ∈ x.sweepLines i ∧ l.rd = false ∧ 32 ≤ (x.gen l.cls + 64 - l.gen) % 64
      ∃ sv, (u.die d).lines.find? n = some { l with sv := sv } ∧ (old → sv = 0) ∧ (¬ old → sv = l.sv)) ∧
    (∀ ecc, i < 8 → (s.home i).enable = true → s.sys.pstate ≠ 3 → (s.home i).rowTests.contains (Config.hbmRow (s.home i).scrubPos) = false →
      let met : SectorError := if ecc = .none then ((s.home i).errors.find? (s.home i).scrubPos).getD .none else ecc
      Completes (.scrubRead i ecc) s fun u =>
      (u.home i).scrubPos = (if (s.home i).scrubPos + 1 = 2 ^ 31 then 0 else (s.home i).scrubPos + 1) ∧ u.mem = s.mem ∧
      (u.home i).corr = (if met = .corrected then min 16383 ((s.home i).corr + 1) else (s.home i).corr) ∧
      (met = .uncorrectable → (s.home i).scrubPos ∈ (u.home i).poison ∧ (u.home i).poisonFlag = true) ∧
      (met ≠ .none → ∃ t ∈ u.sys.tests, t.site = ⟨.hbmRow, Config.hbmRow (s.home i).scrubPos, i⟩))

/-- R271, R272, R199, R273: translation. A page walk, made for one of the next 64 pages that a running command reaches, keeps a valid translation
that is not migrating; TLBINV removes the entries that cover its pages once every access translated under them is performed; a REPLAY write releases the
commands that wait for its page, or for another part of the block that maps it; a handover of pages, as its registers stood
when it started, is carried out on every die, whose translations of them are gone.
MODEL'S CHOICE: Which TLB entries go when is read as log entries 86 and 87 say; that walks wait for rows under test is read as log entry 136 says. -/
def Obligations.TranslationEvents : Prop :=
  ∀ (s : State) (d port : Nat) (v : Word), d < 4 →
    let x := s.die d
    let gone (u : State) (k aspace page n : Nat) : Prop := ∀ va, page ≤ va / 65536 → va / 65536 < page + n → tlbFind (u.die k).tlb aspace va = none
    (∀ aspace va, s.walksAhead d aspace va = false → exec (.pageWalk d aspace va) s = .next s) ∧
    (∀ aspace va level w l, aspace < 16 → s.walksAhead d aspace va = true → va < 2 ^ 55 → tlbFind x.tlb aspace va = none → walk s.mem s.sys.asroot aspace va = some (level, w) →
      decodeLeaf level w = some l → (∀ a ∈ s.walkReads d aspace va, s.rowStalls a = false) → Completes (.pageWalk d aspace va) s fun u => u.mem = s.mem ∧
        (l.mig = false → tlbFind (u.die d).tlb aspace va = some ⟨aspace, level, va / 2 ^ levelBits level, w⟩) ∧ (l.mig = true → (u.die d).tlb = x.tlb)) ∧
    (∀ w0 w1 rest, x.invQueue = (w0, w1) :: rest → s.drained d = true → Completes (.tlbinvComplete d) s fun u =>
      (if bitOf w0 59 then ∀ va, tlbFind (u.die d).tlb (bits w0 63 60) va = none
        else gone u d (bits w0 63 60) (bits w0 54 16) (bits w1 31 0)) ∧
      (∀ e ∈ x.tlb, e.aspace ≠ bits w0 63 60 → e ∈ (u.die d).tlb) ∧ (u.die d).invQueue = rest ∧ ((u.die d).invDone = true ↔ rest = [])) ∧
    (s.sys.ctlPort = port → s.sys.boot = 0 → s.sys.pstate ≠ 3 →
      (Completes (.tlbinv d v port) s fun u => (u.die d).invDone = false ∧ ∃ w1 : Word, w1.toNat = v.toNat % 2 ^ 32 ∧
        (u.die d).invQueue = x.invQueue ++ [(x.inv0, w1)] ∧ (u.die d).tlb = x.tlb) ∧
      (Completes (.replay d v port) s fun u =>
        (∀ i, i < 64 → (u.die d).replayReg.getLsbD i = (v.getLsbD i && (decide (60 ≤ i) || (decide (16 ≤ i) && decide (i ≤ 54))))) ∧
        let page := bits v 63 60 * 2 ^ 39 + bits v 54 16
        ∀ p ∈ x.replayQ, ∀ k r, s.cmd? p.1 p.2 = some k → k.replay = some r → r = page ∨ s.samePage page r = true → u.cmd? p.1 p.2 = some { k with replay := none } ∧ p ∉ (u.die d).replayQ) ∧
      (s.sys.hoDone = true → ∀ w : Word, w.toNat = v.toNat % 2 ^ 32 →
        let started : State := { s with sys := { s.sys with ho1 := w, hoDone := false, hoRun := (s.sys.ho0, w) } }
        (bitOf s.sys.ho0 63 = true → exec (.handoverTohost v port) s = .next started) ∧
        (bitOf s.sys.ho0 63 = false → exec (.handoverTodevice v port) s = .next started))) ∧
    (s.sys.hoDone = false → (∀ k, k < 4 → s.drained k = true) → (∀ a ∈ s.handReads, s.rowStalls a = false) → Completes .handoverComplete s fun u =>
      u.sys.hoDone = true ∧ (s.readEach s.handReads = s → u.sys = { s.sys with hoDone := true }) ∧
      gone u d (bits s.sys.hoRun.1 62 59) (bits s.sys.hoRun.1 54 16) (bits s.sys.hoRun.2 31 0))

/-! ## Hosts -/

/-- R290, R289, R293, R291, R319: what a host does. Through window 2 it reads and writes device memory at its homes, and its AtomicOps of 4 and 8 bytes
answer the old value and write the sum, the operand, or the operand where the old value is the one compared with. CTLPORT's function writes the registers
of window 0, a launch queue's owner its queue's; writes through another function are ignored. A power request is kept until it can be met.
MODEL'S CHOICE: Host accesses and register writes that no rule describes whole are read as log entries 100 to 102, 141 and 146 say. -/
def Obligations.HostEvents : Prop :=
  ∀ (s : State) (pa n port : Nat) (v w : Word), s.sys.boot = 0 → s.sys.pstate ≠ 3 → port < 2 →
    let answered (u : State) (bs : List Byte) : Prop := u.sys = { s.sys with outputs := s.sys.outputs ++ [.readData port bs false] }
    let old := s.mem.readN pa n
    let clean : Prop := (n = 0 ∨ s.poisoned pa n = false) ∧
      ∀ a, pa ≤ a → a < pa + n → s.rowStalls a = false ∧ (s.home (stackOf a)).errors.find? (sectorOf a) = none
    let writes (u : State) (x : Nat) : Prop := answered u (leBytes old n) ∧ u.mem.readN pa n = x % 2 ^ (8 * n) ∧
      ∀ a, a < pa ∨ pa + n ≤ a → u.mem.read a = s.mem.read a
    (pa + n ≤ 2 ^ 39 → clean → Completes (.hostRead pa n port) s fun u => answered u (s.mem.readBytes pa n) ∧ u.mem = s.mem) ∧
    (∀ bs, pa + bs.length ≤ 2 ^ 39 → Completes (.hostWrite pa bs port) s fun u => u.mem.readBytes pa bs.length = bs ∧ u.sys = s.sys ∧
      ∀ a, a < pa ∨ pa + bs.length ≤ a → u.mem.read a = s.mem.read a) ∧
    (n = 4 ∨ n = 8 → pa % n = 0 → pa + n ≤ 2 ^ 39 → clean →
      Completes (.hostFetchadd pa n v port) s (fun u => writes u (old + v.toNat)) ∧
      Completes (.hostSwap pa n v port) s (fun u => writes u v.toNat) ∧
      Completes (.hostCas pa n w v port) s (fun u => writes u (if old = w.toNat % 2 ^ (8 * n) then v.toNat else old))) ∧
    (n ≠ 4 → n ≠ 8 → pa + n ≤ 2 ^ 39 → ∀ e ∈ [Instr.hostFetchadd pa n v port, .hostSwap pa n v port, .hostCas pa n w v port],
      exec e s = .next { s with sys := { s.sys with outputs := s.sys.outputs ++ [.unsupported port] } }) ∧
    (port ≠ s.sys.ctlPort → ∀ d, 0x20000 ≤ d → d < 2 ^ 24 → exec (.registerWrite d 8 v port) s = .next s) ∧
    (port = s.sys.ctlPort →
      (∀ k, k < 16 → Completes (.registerWrite (0x30000 + 8 * k) 8 v port) s fun u => ∃ r : Word,
        u = { s with sys := { s.sys with asroot := s.sys.asroot.set k r } } ∧
        ∀ i, i < 64 → r.getLsbD i = (v.getLsbD i && (decide (i = 0) || (decide (16 ≤ i) && decide (i ≤ 51))))) ∧
      exec (.registerWrite 0x32000 8 v port) s =
        .next { s with sys := { s.sys with quantum := v.toNat / 2 ^ 48, nslot := v.toNat / 2 ^ 22 % 2 ^ 16 } } ∧
      exec (.registerWrite 0x3600C 4 v port) s = .next s ∧ exec (.registerWrite 0x32014 4 v port) s = .next s ∧
      exec (.powerRequest v port) s = .next { s with sys :=
        { s.sys with preq := v.toNat % 4, preqPending := decide (v.toNat % 4 ≠ s.sys.pstate), preqAt := s.m.time } }) ∧
    (∀ q, q < 64 → (s.m.queue q).ownPort = port → (s.m.queue q).enable = false →
      Completes (.registerWrite (0x10000 + 64 * q) 8 v port) s fun u => ∃ r : Word,
        u = { s with m := s.m.setQueue q { s.m.queue q with rbase := r } } ∧
        ∀ i, i < 64 → r.getLsbD i = (v.getLsbD i && decide (6 ≤ i) && decide (i ≤ 51)))

/-! ## The fabric -/

/-- R304, R308, R309, R310, R299, R301, R302, R303: the fabric. A window is defined with the ranks of its table; a collective is accepted by its context in
order; an in-place one runs once every member has joined, and one that runs on other values than a member's ends as MISMATCH, an aborted one as
ABORTED, one without its traffic as TIMEOUT. A flit in sequence is taken, a bad one answered with a NAK, a NAKed one sent again with those after
it and the port taken down after 16 replays. A peer's access is performed and answered on a port that is up, its writes once they are committed, which is
acknowledged; one that reads poisoned data is not performed; a request that is not answered is sent again, and
after the last resend its command has REMOTE_TIMEOUT.
MODEL'S CHOICE: The layout of packets, the answers, their moments, the order of acceptance and the numbering of a cached connection are the model's (log entries 88 to 99, 127, 135, 136, 149, 150 and 152). -/
def Obligations.FabricEvents : Prop :=
  ∀ (s : State) (port : Nat),
    let ended (u : State) (k : Coll) (rank state fault : Nat) : Prop :=
      (∀ j ∈ u.m.colls, j.id = k.id → j.done = true) ∧ (∀ c e l, (u.m.core c).locks.find? e = some l → l.coll ≠ some k.id) ∧
      (u.m.core k.core).readSp (s.m.groupAt k.core k.group) k.stoff = collStatus state fault rank 0 ∧
      (u.m.core k.core).arrivals = (s.m.core k.core).arrivals ++
        (if k.barrier.2 = 0 then [] else [⟨256 + k.id, (s.m.groupAt k.core k.group).spBase + k.barrier.1, k.barrier.2⟩])
    (∀ w v, s.sys.ctlPort = port → s.sys.boot = 0 → s.sys.pstate ≠ 3 → w < 256 →
      let x := s.fab.mcwins.get Mcwin.initial w
      (bitOf x.w0 63 = false → bitOf v 63 = true → bitOf v 62 = false → Completes (.mcwinDefine w v port) s fun u => ∃ r : Mcwin,
        u.fab = { s.fab with mcwins := s.fab.mcwins.set w r } ∧ u.mem = s.mem ∧
        (s.readRange (bits x.w1 51 3 * 8) (2 * (bits v 61 53 + 1)) = s → u = { s with fab := u.fab }) ∧ r.w1 = x.w1 ∧
        (∀ i, i < 64 → r.w0.getLsbD i = (v.getLsbD i && decide (44 ≤ i))) ∧
        r.ranks = (List.range (bits v 61 53 + 1)).map fun k => s.mem.readN (bits x.w1 51 3 * 8 + 2 * k) 2) ∧
      ∀ k, s.m.running [0, w] = some k → k.op < 5 → Completes (.collectiveAbort w port) s fun u => ended u k k.rank 5 0 ∧ u.mem = s.mem) ∧
    (∀ c i k, (s.m.collsOf c)[i]? = some k → k.accepted = false → s.m.collQuiet k = true → s.windowWaits k = false →
      (∀ t code, s.contextOf k = (t, .fault code) → Completes (.collectiveAccept c i) s fun u => ended u k k.rank 6 code) ∧
      (∀ t ctx rank t', s.contextOf k = (t, .ok ctx rank) → t.mustPrecede k (collKey ctx rank) = false →
        (s.m.colls.filter (fun j => j.accepted && !j.done && j.key = collKey ctx rank)).length < 17 → t.capture k = (t', none) →
        Completes (.collectiveAccept c i) s fun u => ended u k rank 6 6) ∧
      (∀ t ctx rank t' data, s.contextOf k = (t, .ok ctx rank) → t.mustPrecede k (collKey ctx rank) = false →
        (s.m.colls.filter (fun j => j.accepted && !j.done && j.key = collKey ctx rank)).length < 17 → t.capture k = (t', some data) →
        Completes (.collectiveAccept c i) s fun u => u.mem = s.mem ∧ ∃ j ∈ u.m.colls, j.id = k.id ∧ j.accepted = true ∧ j.ctx = ctx ∧ j.rank = rank ∧
          j.data = data ∧ (u.m.core k.core).readSp (s.m.groupAt k.core k.group) k.stoff = collStatus 0 0 rank 0)) ∧
    (∀ c i k, (s.m.collsOf c)[i]? = some k → k.accepted = true → k.done = false → s.m.collQuiet k = true → s.m.running k.key = some k → k.op < 5 →
      let sh := shapeOf k.shape
      Completes (.collectiveComplete c i .timeout) s (fun u => ended u k k.rank 4 0) ∧
      ∀ ms all, k.joined ms = some all →
        ((∃ m ∈ all, m.params ≠ k.params) → Completes (.collectiveComplete c i (.joined ms)) s fun u => ended u k k.rank 3 0) ∧
        ((∀ m ∈ all, m.params = k.params) → k.unfit all.length = false → sh.four = false → sh.overlaps = false →
          Completes (.collectiveComplete c i (.joined ms)) s fun u => ended u k k.rank 1 0 ∧ ∀ row col, row < sh.rows → col < sh.cols →
            k.changes all.length k.rank row = true →
            (u.m.core k.core).tile.readN ((s.m.groupAt k.core k.group).tileBase + (sh.at sh.base row col).toNat) (elemBytes sh.fmt) =
              k.newElem (all.map fun m => elementsOf (elemBytes sh.fmt) m.data) k.rank row col % 2 ^ (8 * elemBytes sh.fmt))) ∧
    (∀ p flit seq, p < 16 → (s.fab.port p).up = true → s.sys.pstate ≠ 3 →
      let x := s.fab.port p
      let h := flitHead flit
      (flit.length = 256 → flitGood flit = false → exec (.flitReceive p flit) s =
        .next { s with fab := { s.fab.setPort p { x with line := x.line ++ [flitOf 2 (bits h 55 44) x.rxSeq noPayload] } with
          sent := s.fab.sent ++ [.nak p (bits h 55 44)] } }) ∧
      (flit.length = 256 → flitGood flit = true → bits h 63 56 = 1 → bits h 55 44 = x.rxSeq → Completes (.flitReceive p flit) s fun u =>
        (u.fab.port p).received = x.received ++ [(flit.drop 8).take 240] ∧ (u.fab.port p).rxSeq = (x.rxSeq + 1) % 4096 ∧
        (u.fab.port p).line.getLast? = some (flitOf 0 (u.fab.port p).txSeq ((x.rxSeq + 1) % 4096) noPayload)) ∧
      (seq < 4096 → x.replay.has seq = true →
        (let y : Port := { x with nakSeq := seq, naks := if x.nakSeq = seq then x.naks + 1 else 1, line := x.line ++ x.from_ seq };
          x.nakSeq ≠ seq ∨ x.naks < 16 → exec (.flitNak p seq) s = .next { s with fab := s.fab.setPort p y }) ∧
        (x.nakSeq = seq → 16 ≤ x.naks → Completes (.flitNak p seq) s fun u => (u.fab.port p).up = false ∧
          ∃ t ∈ u.sys.tests, t.site.unit = .penufLane ∧ t.site.parent = p))) ∧
    (∀ r : RemoteAccess, r.key.getLsbD 31 = false → (r.src, r.cmd) ∉ s.fab.rejected → s.sys.pstate ≠ 3 → s.fab.upPorts ≠ [] →
      let sends (u : State) (code : Nat) (v : Word) : Prop := ∃ l q, u.fab.sent = l ++ [.answer q r.src r.cmd r.elem code v] ∧
        (r.src ≠ s.sys.devNum → ∃ p ∈ s.fab.upPorts, q = some p)
      let t := s.readEach (s.remoteReads r)
      let seen : Prop := ∃ x ∈ s.fab.seen, x.src = r.src ∧ x.cmd = r.cmd ∧ x.elem = r.elem
      (∀ a ∈ s.remoteReads r, s.rowStalls a = false) →
      (s.remoteCheck r = .refused → Completes (.remoteRequest r) s fun u => sends u 4 0 ∧ (r.src, r.cmd) ∈ u.fab.rejected ∧ u.mem = s.mem) ∧
      ∀ pa, s.remoteCheck r = .ok pa false → 0 < r.size →
        (r.kind = .read ∨ r.kind = .watch ∨ (r.kind = .atomic ∧ ¬ seen) → t.rowStalls pa = false → t.poisoned pa r.size = true →
          Completes (.remoteRequest r) s fun u => sends u 7 0 ∧ u.mem = s.mem) ∧
        (r.kind = .read → t.SoundAt pa r.size → Completes (.remoteRequest r) s fun u =>
          sends u 0 (.ofNat 64 (s.mem.readN pa r.size)) ∧ u.mem = s.mem) ∧
        (r.kind = .write → Completes (.remoteRequest r) s fun u => sends u 0 0 ∧ u.mem = s.mem ∧
          ∃ x ∈ u.fab.staged, x.src = r.src ∧ x.cmd = r.cmd ∧ x.elem = r.elem ∧ x.pa = pa ∧ x.bytes = leBytes r.value.toNat r.size) ∧
        (r.kind = .atomic → ¬ seen → t.SoundAt pa r.size → s.fab.seen.length < 4096 → r.size ≤ 8 →
          Completes (.remoteRequest r) s fun u => sends u 0 (.ofNat 64 (s.mem.readN pa r.size)) ∧
            u.mem.readN pa r.size = combine r.op r.fmt (s.mem.readN pa r.size) r.value.toNat % 2 ^ (8 * r.size))) ∧
    (∀ (r : RemoteCommit) (x : Staged), s.fab.staged = [x] → x.src = r.src → x.cmd = r.cmd → s.sys.pstate ≠ 3 →
      (r.notice = .commit → x.elem < r.upto → s.otherHolders x.pa 4 = [] → Completes (.remoteCommit r) s fun u => u.fab.staged = [] ∧
        u.mem.readBytes x.pa x.bytes.length = x.bytes ∧ (∀ a, a < x.pa ∨ x.pa + x.bytes.length ≤ a → u.mem.read a = s.mem.read a) ∧
        (r.src ≠ s.sys.devNum → s.fab.upPorts ≠ [] → ∃ l q, u.fab.sent = l ++ [.answer (some q) r.src r.cmd (r.upto - 1) 0 0])) ∧
      (r.notice ≠ .commit → Completes (.remoteCommit r) s fun u => u.fab.staged = [] ∧ (r.src, r.cmd) ∉ u.fab.rejected ∧ u.mem = s.mem)) ∧
    (∀ i x, s.fab.remotes[i]? = some x → x.due ≤ s.m.time →
      let wait (n : Nat) : Nat := max 1 s.sys.rto * 2 ^ n * oneUs
      let again (y : Remote) (u : State) : Prop := u.fab.remotes[i]? = some y ∧ u.m = s.m ∧
        (s.fab.upPorts ≠ [] → ∃ p, u.fab.sent = s.fab.sent ++ [.request p x.req])
      (x.busy = true → Completes (.busyRetry i) s (again { x with busy := false, due := s.m.time + wait x.tries })) ∧
      (x.busy = false → x.held = false → x.tries < s.sys.retries →
        Completes (.remoteTimeoutExpiry i) s (again { x with tries := x.tries + 1, due := s.m.time + wait (x.tries + 1) })) ∧
      (x.held = true → exec (.remoteTimeoutExpiry i) s = .next s) ∧
      (x.busy = false → x.held = false → s.sys.retries ≤ x.tries → ∀ k, s.cmd? x.req.core x.req.key = some k →
        Completes (.remoteTimeoutExpiry i) s fun u => u.fab = { s.fab with remotes := s.fab.remotes.eraseIdx i } ∧
          u.cmd? x.req.core x.req.key = some { k with remoteFault := 5 })) ∧
    (∀ (i : Nat) (x : Staged), s.fab.staged[i]? = some x → x.at_ + 16000000 * nsUnits ≤ s.m.time → exec (.stagingExpiry i) s =
      .next { s with fab := { s.fab with staged := s.fab.staged.filter fun y => !(y.src = x.src && y.cmd = x.cmd) } })

/-! ## The device -/

/-- R321, R320, R319, R318, R324, R325, R326, R322, R323: the device around its cores. The ramp limiter and the clock take one step; a power state is entered
when its condition holds; the clock changes as a cycle ends; a reset loses everything but memory and what is fused, and begins bring-up, whose steps check the
firmware, train and zero device memory and start the clusters. FREEZE acts with debug open, and a frozen device makes no move but a reset and scan
read-out, which shows the registers of window 0 and no key; a signed unlock opens debug and ends attestation; provisioning locks the device for good; a report attests a
locked one. A detected error starts a test, whose end is recorded.
MODEL'S CHOICE: CAPS.FCUR at reset, the reset's extent and times, power states, self-tests, keys and the scan are the model's where log entries 6, 102 to 108, 128, 130 and 134 say so. -/
def Obligations.DeviceEvents : Prop :=
  ∀ (s : State),
    (s.m.rampUs < s.m.us → Completes .rampAdjust s fun u => u.mem = s.mem ∧
      u.m.rampUs = s.m.us ∧ u.m.usStart = s.m.now ∧ (∀ c, (u.m.core c).occupied = 0 ∧ (u.m.core c).rampWait = false) ∧ ∀ d, d < 4 →
        let l := (s.die d).ramp
        let waited : Prop := ∃ k, k < 80 ∧ (s.m.core (80 * d + k)).rampWait = true
        let idle : Prop := ∀ k, k < 80 → 8 * (s.m.core (80 * d + k)).occupied ≤ (l - 1) * (s.m.now - s.m.usStart)
        (waited → (u.die d).ramp = min (s.die d).rampCap (min 8 (l + 1))) ∧
        (¬ waited → idle → (u.die d).ramp = min (s.die d).rampCap (max 1 (l - 1))) ∧
        (¬ waited → ¬ idle → (u.die d).ramp = min (s.die d).rampCap l)) ∧
    (∀ mw, s.m.powerUs / 10 < s.m.us / 10 → s.sys.pstate ≠ 3 →
      let m := { s.m with powerUs := s.m.us }
      (3600000 < mw → 10 < s.m.fnext → exec (.powerMeasure mw) s = .next { s with m := { m with fnext := s.m.fnext - 1 } }) ∧
      (3450000 ≤ mw → mw ≤ 3600000 → exec (.powerMeasure mw) s = .next { s with m := m }) ∧
      (3600000 < mw → s.m.fnext ≤ 10 → Completes (.powerMeasure mw) s fun u => u.m = m ∧
        ∀ d, d < 4 → (u.die d).rampCap = max 1 ((s.die d).rampCap - 1) ∧ (u.die d).ramp = min (s.die d).ramp ((u.die d).rampCap)) ∧
      (mw < 3450000 → Completes (.powerMeasure mw) s fun u => u.m = { m with fnext := min 36 (s.m.fnext + 1) })) ∧
    s.tick.m.fcur = s.m.fnext ∧
    (s.sys.preqPending = true → s.sys.pstate ≠ 3 →
      (s.sys.preq = 0 → s.sys.pstate ≠ 0 → s.sys.preqAt + (if s.sys.pstate = 1 then 10000 else 200000) * nsUnits ≤ s.m.time → Completes .powerStateEntry s fun u =>
        u.sys = { s.sys with pstate := 0, preqPending := false } ∧ ∀ d, d < 4 → (u.die d).ramp = 1) ∧
      ((∀ p ∈ s.m.cores, ∀ g ∈ p.2.groups, g.2.phase = .waitingPlaceholder ∨ g.2.phase = .gone) → (∀ p ∈ s.m.grids, p.2.saved = []) →
        (∀ p ∈ s.m.queues, p.2.head = p.2.tail) →
        (s.sys.preq = 1 → s.sys.pstate ≠ 1 → exec .powerStateEntry s = .next { s with sys := { s.sys with pstate := 1, preqPending := false } }) ∧
        (s.sys.pstate ≠ s.sys.preq → (∀ p ∈ s.m.queues, p.2.enable = false) →
          (s.sys.preq = 2 → Completes .powerStateEntry s fun u => u.sys = { s.sys with pstate := 2, preqPending := false } ∧
            ∀ d, d < 4 → (u.die d).lines = [] ∧ (u.die d).tlb = []) ∧
          (s.sys.preq = 3 → Completes .powerStateEntry s fun u => u.sys.pstate = 3 ∧ ∀ a, inDevice a = true → u.mem.read a = 0)))) ∧
    (∀ b : BootOutcome, Completes (.resetDevice b) s fun u =>
      u.sys.boot = 3 ∧ u.sys.bringUp = some ⟨b, 1, Config.bringUpTime 1⟩ ∧ u.m.time = 0 ∧ u.sys.running = s.sys.running ∧ u.sys.pstate = 0 ∧ u.sys.dbg = 0 ∧ u.sys.frozen = false ∧
      u.sys.sec = min s.sys.sec 1 ∧ u.sys.keys = s.sys.keys ∧ u.m.grids = [] ∧ (∀ c, (u.m.core c).teams = [] ∧ (u.m.core c).groups = []) ∧
      u.mem = s.mem) ∧
    (∀ b, s.sys.bringUp = some b → b.until_ ≤ s.m.time →
      let ended (code : Nat) : State := { s with sys := { s.sys with boot := code, bringUp := none } }
      (b.step = 1 → b.boot.signatureOk = true → s.bringUpStep =
        { s with sys := { s.sys with running := s.sys.firmware, bringUp := some { b with step := 2, until_ := s.m.time + Config.bringUpTime 2 } } }) ∧
      (b.step = 1 → b.boot.signatureOk = false → s.bringUpStep = ended 1) ∧
      (b.step = 2 → b.boot.trainingOk = false → s.bringUpStep = ended 2) ∧
      (b.step = 2 → b.boot.trainingOk = true → let u := s.bringUpStep
        (∃ n, u.sys = { s.sys with bringUp := some { b with step := 3, until_ := s.m.time + n } }) ∧ u.m = s.m ∧
        (∀ a, (inDevice a = true → u.mem.read a = 0) ∧ ((∃ k, targetOf a = .host k) → u.mem.read a = s.mem.read a)) ∧
        ∀ h, (u.home h).cache = [] ∧ (u.home h).watches = [] ∧ (u.home h).holders = []) ∧
      (3 ≤ b.step → s.bringUpStep = ended 0)) ∧
    (s.sys.dbg ≠ 0 → exec .freeze s = .next { s with sys := { s.sys with frozen := true } }) ∧
    (s.sys.frozen = true → (∀ b, s.agenda.head? ≠ some (.event (.resetDevice b))) → s.agenda.head? ≠ some .scanRead →
      step s = .next { s with agenda := s.agenda.tail }) ∧
    (s.sys.frozen = true → ∀ rest, s.agenda = .scanRead :: rest → ∃ u r, step s = .next u ∧ u.mem = s.mem ∧ u.m = s.m ∧ u.agenda = rest ∧
      u.sys.outputs = s.sys.outputs ++ [.scan r] ∧ r.keys = 0 ∧ (r.internal.isSome = true ↔ s.sys.dbg = 2) ∧
      r.scratch = List.map (fun c : Nat × Core => (c.1, c.2.scratch)) s.m.cores ∧ r.tile = List.map (fun c : Nat × Core => (c.1, c.2.tile)) s.m.cores ∧
      (∀ k, k < 16 → s.sys.boot = 0 → s.sys.asroot.get 0 k ≠ 0 → (0x30000 + 8 * k, s.sys.asroot.get 0 k) ∈ r.regs) ∧
      (∀ d ∈ windowOffsets, s.readReg d ≠ 0 → (d, s.readReg d) ∈ r.regs) ∧ ∀ a, inDevice a = true → r.mem.read a = s.mem.read a) ∧
    (let below := min s.sys.sec 1;
      (s.sys.sec ≠ 0 → exec (.signedUnlock .owner) s = .next { s with sys := { s.sys with sec := below, dbg := 1 } }) ∧
      exec (.signedUnlock .vendor) s = .next { s with sys := { s.sys with sec := below, dbg := 2 } } ∧
      exec .firmwareUpdate s = .next { s with sys := { s.sys with sec := below, firmware := s.sys.firmware + 1 } }) ∧
    (s.sys.sec = 0 → exec (.provisioningCommand .vendor) s = .next { s with sys := { s.sys with sec := 1, keys := s.sys.keys + 1 } }) ∧
    (∀ nonce, s.sys.sec ≠ 0 → s.sys.boot = 0 → s.sys.pstate ≠ 3 → Completes (.attestationReport nonce) s fun u => ∃ r : Report,
      u = { s with sys := { s.sys with sec := (if s.sys.dbg = 0 then 2 else s.sys.sec), outputs := s.sys.outputs ++ [.report r] } } ∧
      r.nonce = nonce ∧ r.firmware = Config.firmwareHash s.sys.running ∧ r.identity = Config.identityHash s.sys.keys ∧ r.sec = s.sys.sec ∧
      r.dbg = s.sys.dbg) ∧
    (∀ e : ErrorSite, siteExists e = true → s.sys.pstate ≠ 3 → s.sys.boot = 0 → Completes (.errorDetected e) s fun u => ∃ t ∈ u.sys.tests, t.site = e ∧
      ((∀ q ∈ s.sys.tests, q.site ≠ e) → t.count = 1 ∧ t.started = s.m.time) ∧ ∀ q ∈ s.sys.tests, q.site = e → ∃ z ∈ u.sys.tests, z.site = e ∧ z.count = q.count + 1) ∧
    ∀ (i : Nat) (t : SelfTest) (lasting : Bool), s.sys.tests[i]? = some t → s.sys.boot = 0 → Completes (.selfTestEnd i lasting) s fun u =>
      u.sys.tests = s.sys.tests.eraseIdx i ∧ (∃ l, u.m.faults = l ++ [errorRecord t lasting]) ∧
      (lasting = true → t.site.unit = .l2Slice → t.site.number ∈ (u.die t.site.parent).bypassed) ∧
      (lasting = true → t.site.unit = .tileBank → (u.m.core t.site.parent).lost = true) ∧
      (lasting = true → t.site.unit = .penufLane → (u.fab.port t.site.parent).lanes = 4)
end

