-- ==== Sys2Proof/Laws/Encode.lean ====
section
/-! SUPPORT. Fields of a word put together and taken apart, and the one row of the opcode table that a word fits. -/

namespace Sys2Proof

/-! ## Fields of words -/

@[simp] theorem fld_or (v w : Inst) (lo n : Nat) : fld (v ||| w) lo n = fld v lo n ||| fld w lo n := by
  unfold fld
  ext i hi
  simp

@[simp] theorem bit_or (v w : Inst) (i : Nat) : bit (v ||| w) i = (bit v i || bit w i) := by simp [bit]

@[simp] theorem fld_put_self {n : Nat} (x : BitVec n) (lo : Nat) (h : lo + n ≤ 32) : fld (put lo x) lo n = x := by
  unfold fld put
  ext i hi
  simp only [BitVec.getElem_extractLsb', BitVec.getLsbD_shiftLeft, BitVec.getLsbD_setWidth]
  have h1 : lo + i < 32 := by omega
  have h2 : lo + i - lo = i := by omega
  have h3 : i < 32 := by omega
  have h4 : ¬ lo + i < lo := by omega
  simp [h1, h2, h3, h4, BitVec.getLsbD_eq_getElem hi]

@[simp] theorem fld_put_above {n k : Nat} (x : BitVec k) (lo lo' : Nat) (h : lo + n ≤ lo') : fld (put lo' x) lo n = 0#n := by
  unfold fld put
  ext i hi
  simp only [BitVec.getElem_extractLsb', BitVec.getLsbD_shiftLeft, BitVec.getElem_zero]
  have : lo + i < lo' := by omega
  simp [this]

@[simp] theorem fld_put_below {n k : Nat} (x : BitVec k) (lo lo' : Nat) (h : lo' + k ≤ lo) : fld (put lo' x) lo n = 0#n := by
  unfold fld put
  ext i hi
  simp only [BitVec.getElem_extractLsb', BitVec.getLsbD_shiftLeft, BitVec.getLsbD_setWidth, BitVec.getElem_zero]
  have : x.getLsbD (lo + i - lo') = false := BitVec.getLsbD_of_ge _ _ (by omega)
  simp [this]

theorem putB_eq (lo : Nat) (b : Bool) : putB lo b = put lo (BitVec.ofBool b) := by
  cases b <;> simp [putB, put]

theorem bit_eq (w : Inst) (i : Nat) : bit w i = (fld w i 1 == 1#1) := by
  unfold bit fld
  have : w.extractLsb' i 1 = BitVec.ofBool (w.getLsbD i) := by
    ext j hj
    have : j = 0 := by omega
    subst this
    simp
  rw [this]
  cases w.getLsbD i <;> rfl

@[simp] theorem bit_putB_self (lo : Nat) (b : Bool) (h : lo < 32) : bit (putB lo b) lo = b := by
  rw [bit_eq, putB_eq, fld_put_self _ _ (by omega)]
  cases b <;> rfl

@[simp] theorem bit_put_above {k : Nat} (x : BitVec k) (i lo : Nat) (h : i < lo) : bit (put lo x) i = false := by
  rw [bit_eq, fld_put_above _ _ _ (by omega)]
  rfl

@[simp] theorem bit_put_below {k : Nat} (x : BitVec k) (i lo : Nat) (h : lo + k ≤ i) : bit (put lo x) i = false := by
  rw [bit_eq, fld_put_below _ _ _ (by omega)]
  rfl

@[simp] theorem fld_ofNat (x lo n : Nat) (h : lo + n ≤ 32) : fld (BitVec.ofNat 32 x) lo n = BitVec.ofNat n (x / 2 ^ lo) := by
  unfold fld
  ext i hi
  have h1 : lo + i < 32 := by omega
  rw [BitVec.getElem_extractLsb', BitVec.getLsbD_ofNat, ← BitVec.getLsbD_eq_getElem, BitVec.getLsbD_ofNat, Nat.testBit_div_two_pow,
    Nat.add_comm i lo]
  simp [h1, hi]

@[simp] theorem bit_ofNat (x i : Nat) (h : i < 32) : bit (BitVec.ofNat 32 x) i = decide (x / 2 ^ i % 2 = 1) := by
  rw [bit, BitVec.getLsbD_ofNat]
  simp [h, Nat.testBit_eq_decide_div_mod_eq]

@[simp] theorem fld_putB_self (lo : Nat) (b : Bool) (h : lo < 32) : fld (putB lo b) lo 1 = BitVec.ofBool b := by
  rw [putB_eq, fld_put_self _ _ (by omega)]

@[simp] theorem fld_putB_above {n : Nat} (b : Bool) (lo lo' : Nat) (h : lo + n ≤ lo') : fld (putB lo' b) lo n = 0#n := by
  rw [putB_eq, fld_put_above _ _ _ h]

@[simp] theorem fld_putB_below {n : Nat} (b : Bool) (lo lo' : Nat) (h : lo' + 1 ≤ lo) : fld (putB lo' b) lo n = 0#n := by
  rw [putB_eq, fld_put_below _ _ _ h]

@[simp] theorem bit_putB_ne (i lo : Nat) (b : Bool) (h : i ≠ lo) : bit (putB lo b) i = false := by
  rw [putB_eq]
  rcases Nat.lt_or_gt_of_ne h with h | h
  · exact bit_put_above _ _ _ h
  · exact bit_put_below _ _ _ (by omega)

/-- A field inside the low eight bits. -/
@[simp] theorem fld_put_inside {k : Nat} (x : BitVec k) (lo : Nat) (h : lo + k ≤ 8) : fld (put lo x) 0 8 = x.setWidth 8 <<< lo := by
  unfold fld put
  ext i hi
  rw [← BitVec.getLsbD_eq_getElem, ← BitVec.getLsbD_eq_getElem]
  simp only [BitVec.getLsbD_extractLsb', BitVec.getLsbD_shiftLeft, BitVec.getLsbD_setWidth]
  have h1 : i < 32 := by omega
  have h2 : i - lo < 32 := by omega
  have h3 : i - lo < 8 := by omega
  simp [h1, h2, h3, hi]

@[simp] theorem fld_putB_inside (lo : Nat) (b : Bool) (h : lo < 8) : fld (putB lo b) 0 8 = (BitVec.ofBool b).setWidth 8 <<< lo := by
  rw [putB_eq, fld_put_inside _ _ (by omega)]

/-- A field that starts in the low eight bits and goes on above them. -/
theorem fld_put_across {k : Nat} (x : BitVec k) (lo : Nat) (h : lo < 8) (_ : 8 < lo + k) : fld (put lo x) 0 8 = x.setWidth 8 <<< lo := by
  unfold fld put
  ext i hi
  rw [← BitVec.getLsbD_eq_getElem, ← BitVec.getLsbD_eq_getElem]
  simp only [BitVec.getLsbD_extractLsb', BitVec.getLsbD_shiftLeft, BitVec.getLsbD_setWidth]
  have h1 : i < 32 := by omega
  have h2 : i - lo < 32 := by omega
  have h3 : i - lo < 8 := by omega
  simp [h1, h2, h3, hi]

/-- The word whose n bits from `lo` up are set. -/
def span (lo n : Nat) : Inst := put lo (BitVec.allOnes n)

theorem put_and {n : Nat} (x : BitVec n) (lo : Nat) (mask : Inst) (h : span lo n &&& mask = 0) : put lo x &&& mask = 0 := by
  ext i hi
  have hb : (span lo n &&& mask).getLsbD i = false := by rw [h]; simp
  unfold span put at hb
  unfold put
  simp only [BitVec.getLsbD_and, BitVec.getLsbD_shiftLeft, BitVec.getLsbD_setWidth, BitVec.getLsbD_allOnes] at hb
  simp only [← BitVec.getLsbD_eq_getElem, BitVec.getLsbD_and, BitVec.getLsbD_shiftLeft, BitVec.getLsbD_setWidth]
  by_cases h1 : i < lo
  · simp [h1]
  · by_cases h2 : i - lo < n
    · have h3 : i - lo < 32 := by omega
      have hm : mask.getLsbD i = false := by simpa [h1, h2, h3, hi] using hb
      simp [hm]
    · rw [BitVec.getLsbD_of_ge x (i - lo) (by omega)]
      simp

theorem putB_and (b : Bool) (lo : Nat) (mask : Inst) (h : span lo 1 &&& mask = 0) : putB lo b &&& mask = 0 := by
  rw [putB_eq]
  exact put_and _ lo mask h

theorem and_or_left (v w mask : Inst) : (v ||| w) &&& mask = (v &&& mask) ||| (w &&& mask) := by
  ext i hi
  simp [Bool.and_or_distrib_right]

/-- A field at its place is the word cut to the field's bits. -/
theorem put_fld (w : Inst) (lo n : Nat) (h : lo + n ≤ 32) : put lo (fld w lo n) = w &&& span lo n := by
  unfold put fld span put
  ext i hi
  simp only [← BitVec.getLsbD_eq_getElem, BitVec.getLsbD_and, BitVec.getLsbD_shiftLeft, BitVec.getLsbD_setWidth, BitVec.getLsbD_extractLsb',
    BitVec.getLsbD_allOnes]
  by_cases h1 : i < lo
  · simp [h1]
  · have h2 : lo + (i - lo) = i := by omega
    have h3 : i - lo < 32 := by omega
    by_cases h4 : i - lo < n <;> simp [h1, h2, h3, h4, hi]

theorem putB_bit (w : Inst) (lo : Nat) (h : lo < 32) : putB lo (bit w lo) = w &&& span lo 1 := by
  rw [← put_fld w lo 1 (by omega), putB_eq, bit_eq]
  congr 1
  generalize fld w lo 1 = x
  revert x
  decide

theorem and_or_and (w a b : Inst) : (w &&& a) ||| (w &&& b) = w &&& (a ||| b) := by
  ext i hi
  simp [Bool.and_or_distrib_left]

/-! ## Rows -/

/-- Rows that no word fits both of. -/
def Row.apart (r q : Row) : Bool := (r.value ^^^ q.value) &&& r.mask &&& q.mask != 0

/-- No two rows of a list fit one word. -/
def rowsApart : List Row → Bool
  | [] => true
  | r :: rs => rs.all r.apart && rowsApart rs

theorem Row.apart_not (r q : Row) (w : Inst) (h : r.apart q = true) (hq : w &&& q.mask = q.value) : ¬ w &&& r.mask = r.value := by
  intro hr
  have : (r.value ^^^ q.value) &&& r.mask &&& q.mask = 0 := by
    rw [← hr, ← hq]
    ext i hi
    simp
    cases w[i] <;> cases r.mask[i] <;> cases q.mask[i] <;> simp
  simp [Row.apart, this] at h

/-- A word takes the row that it fits. -/
theorem firstRow_of_mem (rs : List Row) (h : rowsApart rs = true) (r : Row) (hr : r ∈ rs) (w : Inst) (hw : w &&& r.mask = r.value) :
    firstRow rs w = some (r.make w) := by
  induction rs with
  | nil => simp at hr
  | cons q qs ih =>
    simp only [rowsApart, Bool.and_eq_true, List.all_eq_true] at h
    rcases List.mem_cons.mp hr with rfl | hm
    · simp [firstRow, hw]
    · have := Row.apart_not q r w (h.1 r hm) hw
      simp [firstRow, this, ih h.2 hm]

/-- The row that a word takes is in the list and fits it. -/
theorem mem_of_firstRow (rs : List Row) (w : Inst) (i : Instr) (h : firstRow rs w = some i) :
    ∃ r ∈ rs, w &&& r.mask = r.value ∧ i = r.make w := by
  induction rs with
  | nil => simp [firstRow] at h
  | cons q qs ih =>
    unfold firstRow at h
    split at h
    · rename_i hq
      exact ⟨q, by simp, hq, by simpa using h.symm⟩
    · obtain ⟨r, hr, h1, h2⟩ := ih h
      exact ⟨r, by simp [hr], h1, h2⟩

/-- No word fits two rows of one major opcode. -/
theorem rows_apart : ∀ k, k < 64 → rowsApart (rowsOf k) = true := by decide

/-- The k-th row of a major opcode decodes a word that it fits and whose function code is assigned. -/
theorem decode_row (w : Inst) (k : Nat) (r : Row) (hk : major w = k) (h : r ∈ rowsOf k) (hw : w &&& r.mask = r.value)
    (hu : unassigned w = false) : decode w = .ok (r.make w) := by
  have hlt : k < 64 := by rw [← hk]; exact (fld w 26 6).isLt
  unfold decode
  rw [hu, hk, firstRow_of_mem _ (rows_apart k hlt) r h w hw]
  rfl

/-- The same by the row's place in its list. -/
theorem decode_row_at (w : Inst) (k j : Nat) (r : Row) (h : (rowsOf k)[j]? = some r) (hk : major w = k) (hw : w &&& r.mask = r.value)
    (hu : unassigned w = false) : decode w = .ok (r.make w) :=
  decode_row w k r hk (List.mem_of_getElem? h) hw hu

end Sys2Proof
end

