-- ==== Sys2Proof/Laws/Tab.lean ====
section
/-! SUPPORT. What tables read as after each update. None of these laws needs a table to be in any order. -/

namespace Sys2Proof.Machine

variable {α : Type}

theorem Tab.find?_erase_self (t : Tab α) (k : Nat) : (t.erase k).find? k = none := by
  induction t with
  | nil => rfl
  | cons p t ih =>
    obtain ⟨j, v⟩ := p
    by_cases h : j = k <;> simp [Tab.erase, Tab.find?, h, ih]

theorem Tab.find?_erase_ne (t : Tab α) {j k : Nat} (h : j ≠ k) : (t.erase k).find? j = t.find? j := by
  induction t with
  | nil => rfl
  | cons p t ih =>
    obtain ⟨i, v⟩ := p
    by_cases h1 : i = k
    · subst h1
      simp [Tab.erase, Tab.find?, ih, Ne.symm h]
    · simp only [Tab.erase, h1, if_false, Tab.find?, ih]

theorem Tab.find?_insert_self (t : Tab α) (k : Nat) (v : α) (h : t.find? k = none) : (t.insert k v).find? k = some v := by
  induction t with
  | nil => simp [Tab.insert, Tab.find?]
  | cons p t ih =>
    obtain ⟨j, w⟩ := p
    by_cases h1 : j = k
    · simp [Tab.find?, h1] at h
    · simp only [Tab.find?, h1, if_false] at h
      by_cases h2 : k < j <;> simp [Tab.insert, Tab.find?, h1, h2, ih h]

theorem Tab.find?_insert_ne (t : Tab α) {j k : Nat} (v : α) (h : j ≠ k) : (t.insert k v).find? j = t.find? j := by
  induction t with
  | nil => simp [Tab.insert, Tab.find?, Ne.symm h]
  | cons p t ih =>
    obtain ⟨i, w⟩ := p
    by_cases h2 : k < i
    · simp [Tab.insert, Tab.find?, h2, Ne.symm h]
    · simp only [Tab.insert, h2, if_false, Tab.find?, ih]

@[simp] theorem Tab.find?_set_self (t : Tab α) (k : Nat) (v : α) : (t.set k v).find? k = some v :=
  Tab.find?_insert_self _ _ _ (Tab.find?_erase_self t k)

theorem Tab.find?_set_ne (t : Tab α) {j k : Nat} (v : α) (h : j ≠ k) : (t.set k v).find? j = t.find? j := by
  rw [Tab.set, Tab.find?_insert_ne _ _ h, Tab.find?_erase_ne _ h]

@[simp] theorem Tab.get_set_self (d : α) (t : Tab α) (k : Nat) (v : α) : (t.set k v).get d k = v := by
  simp [Tab.get]

theorem Tab.get_set_ne (d : α) (t : Tab α) {j k : Nat} (v : α) (h : j ≠ k) : (t.set k v).get d j = t.get d j := by
  simp [Tab.get, Tab.find?_set_ne t v h]

theorem Tab.get_set (d : α) (t : Tab α) (j k : Nat) (v : α) : (t.set k v).get d j = if j = k then v else t.get d j := by
  by_cases h : j = k
  · subst h; simp
  · simp [Tab.get_set_ne d t v h, h]

@[simp] theorem Tab.get_erase_self (d : α) (t : Tab α) (k : Nat) : (t.erase k).get d k = d := by
  simp [Tab.get, Tab.find?_erase_self]

theorem Tab.get_erase_ne (d : α) (t : Tab α) {j k : Nat} (h : j ≠ k) : (t.erase k).get d j = t.get d j := by
  simp [Tab.get, Tab.find?_erase_ne t h]

theorem Tab.erase_insert (t : Tab α) (k : Nat) (v : α) : (t.insert k v).erase k = t.erase k := by
  induction t with
  | nil => simp [Tab.insert, Tab.erase]
  | cons p t ih =>
    obtain ⟨j, w⟩ := p
    unfold Tab.insert
    split
    · simp [Tab.erase]
    · simp only [Tab.erase]; rw [ih]

theorem Tab.erase_erase (t : Tab α) (k : Nat) : (t.erase k).erase k = t.erase k := by
  induction t with
  | nil => rfl
  | cons p t ih =>
    obtain ⟨j, w⟩ := p
    simp only [Tab.erase]
    split
    · exact ih
    · rename_i h; simp only [Tab.erase, if_neg h]; rw [ih]

/-- A second write under one number is the only one that counts. -/
@[simp] theorem Tab.set_set (t : Tab α) (k : Nat) (v w : α) : (t.set k v).set k w = t.set k w := by
  simp [Tab.set, Tab.erase_insert, Tab.erase_erase]

theorem Tab.find?_modify (t : Tab α) (j k : Nat) (f : α → α) :
    (t.modify k f).find? j = if j = k then (t.find? k).map f else t.find? j := by
  unfold Tab.modify
  cases h : t.find? k with
  | none => by_cases e : j = k <;> simp [e, h]
  | some v => by_cases e : j = k <;> simp [e, Tab.find?_set_ne]

theorem Tab.find?_map (t : Tab α) (k : Nat) (f : Nat → α → α) : (t.map f).find? k = (t.find? k).map (f k) := by
  induction t with
  | nil => rfl
  | cons p t ih =>
    obtain ⟨j, w⟩ := p
    show Tab.find? ((j, f j w) :: Tab.map t f) k = _
    simp only [Tab.find?]
    split
    · rename_i h; subst h; rfl
    · exact ih

/-- Items whose number alone is tested: those that pass are found, the others are not. -/
theorem Tab.find?_filter_key (t : Tab α) (k : Nat) (p : Nat → Bool) :
    (t.filter (fun j _ => p j)).find? k = if p k then t.find? k else none := by
  induction t with
  | nil => simp [Tab.filter, Tab.find?]
  | cons q t ih =>
    obtain ⟨j, w⟩ := q
    unfold Tab.filter at ih ⊢
    by_cases hj : j = k
    · subst hj
      by_cases hp : p j = true
      · simp [hp, Tab.find?]
      · simp only [List.filter_cons, hp]; simpa [hp] using ih
    · by_cases hp : p j = true
      · simp only [List.filter_cons, hp, if_true, Tab.find?, if_neg hj]; exact ih
      · simp only [List.filter_cons, hp]; simpa [Tab.find?, hj] using ih

end Sys2Proof.Machine
end

