-- ==== Sys2Proof/Laws/Mem.lean ====
section
/-! SUPPORT. Memory: a read after a write, and the canonical form, which every operation keeps. -/

namespace Sys2Proof.Machine

/-! ## Reading what was written -/

@[simp] theorem Mem.read_write_self (m : Mem) (a : Nat) (b : Byte) : (m.write a b).read a = b := by
  unfold Mem.write Mem.read
  split
  · rename_i h; simp [h]
  · simp

theorem Mem.read_write_ne (m : Mem) {a c : Nat} (b : Byte) (h : c ≠ a) : (m.write a b).read c = m.read c := by
  unfold Mem.write Mem.read
  split
  · exact Tab.get_erase_ne _ _ h
  · exact Tab.get_set_ne _ _ _ h

theorem Mem.read_write (m : Mem) (a c : Nat) (b : Byte) : (m.write a b).read c = if c = a then b else m.read c := by
  by_cases h : c = a
  · subst h; simp
  · simp [Mem.read_write_ne m b h, h]

/-- Bytes outside the ones written read as before. -/
theorem Mem.read_writeBytes_out (bs : List Byte) : ∀ (m : Mem) (a c : Nat), (c < a ∨ a + bs.length ≤ c) →
    (m.writeBytes a bs).read c = m.read c := by
  induction bs with
  | nil => intro m a c _; rfl
  | cons b bs ih =>
    intro m a c h
    simp only [List.length_cons] at h
    rw [Mem.writeBytes, ih _ _ _ (by omega), Mem.read_write_ne _ _ (by omega)]

/-- The bytes written read as they were written. -/
theorem Mem.read_writeBytes_in (bs : List Byte) : ∀ (m : Mem) (a i : Nat), i < bs.length →
    (m.writeBytes a bs).read (a + i) = bs.getD i 0 := by
  induction bs with
  | nil => intro m a i h; simp at h
  | cons b bs ih =>
    intro m a i h
    cases i with
    | zero => rw [Mem.writeBytes, Nat.add_zero, Mem.read_writeBytes_out _ _ _ _ (by omega)]; simp
    | succ i =>
      rw [Mem.writeBytes, show a + (i + 1) = a + 1 + i by omega, ih _ _ _ (by simpa using h)]
      simp

theorem Mem.readBytes_length (m : Mem) (n : Nat) : ∀ a, (m.readBytes a n).length = n := by
  induction n with
  | zero => intro a; rfl
  | succ n ih => intro a; simp [Mem.readBytes, ih]

theorem leBytes_length (n : Nat) : ∀ x, (leBytes x n).length = n := by
  induction n with
  | zero => intro x; rfl
  | succ n ih => intro x; simp [leBytes, ih]

theorem leNat_leBytes (n : Nat) : ∀ x, leNat (leBytes x n) = x % 256 ^ n := by
  induction n with
  | zero => intro x; simp [leBytes, leNat, Nat.mod_one]
  | succ n ih =>
    intro x
    have h : x % 256 ^ (n + 1) = x % 256 + 256 * (x / 256 % 256 ^ n) := by
      rw [Nat.pow_succ, Nat.mul_comm (256 ^ n) 256, Nat.mod_mul]
    rw [leBytes, leNat, ih, h, BitVec.toNat_ofNat]

theorem Mem.readBytes_writeBytes (bs : List Byte) : ∀ (m : Mem) (a : Nat), (m.writeBytes a bs).readBytes a bs.length = bs := by
  induction bs with
  | nil => intro m a; rfl
  | cons b bs ih =>
    intro m a
    simp only [List.length_cons, Mem.readBytes, Mem.writeBytes, ih]
    rw [Mem.read_writeBytes_out _ _ _ _ (by omega)]
    simp

/-- An n-byte number reads back as it was written, modulo its width. -/
theorem Mem.readN_writeN (m : Mem) (a n v : Nat) : (m.writeN a n v).readN a n = v % 256 ^ n := by
  have h := Mem.readBytes_writeBytes (leBytes v n) m a
  rw [leBytes_length] at h
  rw [Mem.readN, Mem.writeN, h, leNat_leBytes]

@[simp] theorem Mem.readD_writeD (m : Mem) (a : Nat) (v : Word) : (m.writeD a v).readD a = v := by
  rw [Mem.readD, Mem.writeD, Mem.readN_writeN]
  apply BitVec.eq_of_toNat_eq
  have := v.isLt
  simp only [BitVec.toNat_ofNat]
  omega

theorem Mem.readBytes_congr {m m' : Mem} (n : Nat) : ∀ a, (∀ i, i < n → m'.read (a + i) = m.read (a + i)) →
    m'.readBytes a n = m.readBytes a n := by
  induction n with
  | zero => intro a _; rfl
  | succ n ih =>
    intro a h
    have h0 := h 0 (by omega)
    simp only [Nat.add_zero] at h0
    simp only [Mem.readBytes, h0]
    rw [ih (a + 1) (fun i hi => by rw [show a + 1 + i = a + (i + 1) by omega]; exact h (i + 1) (by omega))]

/-- A byte that no pair names reads as before. -/
theorem Mem.read_writePairs_out (ps : List (Nat × Byte)) : ∀ (m : Mem) (c : Nat), (∀ p ∈ ps, p.1 ≠ c) →
    (m.writePairs ps).read c = m.read c := by
  induction ps with
  | nil => intro m c _; rfl
  | cons p ps ih =>
    intro m c h
    obtain ⟨a, b⟩ := p
    have h1 : a ≠ c := h (a, b) (by simp)
    rw [Mem.writePairs, ih _ _ (fun q hq => h q (by simp [hq])), Mem.read_write_ne _ _ (Ne.symm h1)]

/-! ## The canonical form -/

theorem Mem.wfFrom_mono : ∀ (m : Mem) {lo lo' : Nat}, lo' ≤ lo → m.wfFrom lo = true → m.wfFrom lo' = true
  | [], _, _, _, _ => rfl
  | (a, b) :: t, lo, lo', h, hw => by
    simp only [Mem.wfFrom, Bool.and_eq_true, decide_eq_true_eq] at hw ⊢
    exact ⟨⟨by omega, hw.1.2⟩, hw.2⟩

theorem Mem.wfFrom_erase (k : Nat) : ∀ (m : Mem) {lo : Nat}, m.wfFrom lo = true → Mem.wfFrom lo (Tab.erase m k) = true
  | [], _, _ => rfl
  | (a, b) :: t, lo, hw => by
    simp only [Mem.wfFrom, Bool.and_eq_true, decide_eq_true_eq] at hw
    have ih := Mem.wfFrom_erase k t hw.2
    by_cases h : a = k
    · simp only [Tab.erase, h, if_true]
      exact Mem.wfFrom_mono _ (by omega) ih
    · simp only [Tab.erase, h, if_false, Mem.wfFrom, Bool.and_eq_true, decide_eq_true_eq]
      exact ⟨hw.1, ih⟩

theorem Mem.wfFrom_insert (k : Nat) (v : Byte) (hv : v ≠ 0) : ∀ (m : Mem) {lo : Nat}, lo ≤ k → Tab.find? m k = none →
    m.wfFrom lo = true → Mem.wfFrom lo (Tab.insert m k v) = true
  | [], lo, hk, _, _ => by
    simp only [Tab.insert, Mem.wfFrom, Bool.and_eq_true, decide_eq_true_eq]
    exact ⟨⟨hk, hv⟩, trivial⟩
  | (a, b) :: t, lo, hk, hn, hw => by
    simp only [Mem.wfFrom, Bool.and_eq_true, decide_eq_true_eq] at hw
    have hak : a ≠ k := by
      intro h
      simp [Tab.find?, h] at hn
    simp only [Tab.find?, hak, if_false] at hn
    by_cases h : k < a
    · simp only [Tab.insert, h, if_true, Mem.wfFrom, Bool.and_eq_true, decide_eq_true_eq]
      exact ⟨⟨hk, hv⟩, ⟨by omega, hw.1.2⟩, hw.2⟩
    · simp only [Tab.insert, h, if_false, Mem.wfFrom, Bool.and_eq_true, decide_eq_true_eq]
      exact ⟨hw.1, Mem.wfFrom_insert k v hv t (by omega) hn hw.2⟩

theorem Mem.wf_write (m : Mem) (a : Nat) (b : Byte) (h : m.wf = true) : (m.write a b).wf = true := by
  unfold Mem.write
  split
  · exact Mem.wfFrom_erase a m h
  · rename_i hb
    exact Mem.wfFrom_insert a b hb _ (Nat.zero_le a) (Tab.find?_erase_self m a) (Mem.wfFrom_erase a m h)

theorem Mem.wf_writeBytes (bs : List Byte) : ∀ (m : Mem) (a : Nat), m.wf = true → (m.writeBytes a bs).wf = true := by
  induction bs with
  | nil => intro m a h; exact h
  | cons b bs ih => intro m a h; exact ih _ _ (Mem.wf_write m a b h)

theorem Mem.wf_writePairs (ps : List (Nat × Byte)) : ∀ (m : Mem), m.wf = true → (m.writePairs ps).wf = true := by
  induction ps with
  | nil => intro m h; exact h
  | cons p ps ih => intro m h; exact ih _ (Mem.wf_write m p.1 p.2 h)

theorem Mem.wf_writeN (m : Mem) (a n v : Nat) (h : m.wf = true) : (m.writeN a n v).wf = true := Mem.wf_writeBytes _ m a h

theorem Mem.wf_writeD (m : Mem) (a : Nat) (v : Word) (h : m.wf = true) : (m.writeD a v).wf = true := Mem.wf_writeN m a 8 _ h

/-- Bytes taken out leave the canonical form. -/
theorem Mem.wfFrom_filter (p : Host.Cell → Bool) : ∀ (m : Mem) {lo : Nat}, m.wfFrom lo = true → Mem.wfFrom lo (List.filter p m) = true
  | [], _, _ => rfl
  | (a, b) :: t, lo, hw => by
    simp only [Mem.wfFrom, Bool.and_eq_true, decide_eq_true_eq] at hw
    have ih := Mem.wfFrom_filter p t hw.2
    by_cases h : p (a, b) = true
    · simp only [List.filter_cons, h, if_true, Mem.wfFrom, Bool.and_eq_true, decide_eq_true_eq]
      exact ⟨hw.1, ih⟩
    · simp only [List.filter_cons, h]
      exact Mem.wfFrom_mono _ (by omega) ih

theorem Mem.wf_filter (m : Mem) (p : Host.Cell → Bool) (h : m.wf = true) : Mem.wf (List.filter p m) = true := Mem.wfFrom_filter p m h

theorem Mem.wf_clear (m : Mem) (lo hi : Nat) (h : m.wf = true) : (m.clear lo hi).wf = true := Mem.wf_filter m _ h

/-- A canonical memory lists nothing below its bound. -/
theorem Mem.read_below : ∀ (m : Mem) {lo a : Nat}, m.wfFrom lo = true → a < lo → m.read a = 0
  | [], _, _, _, _ => rfl
  | (c, b) :: t, lo, a, hw, ha => by
    simp only [Mem.wfFrom, Bool.and_eq_true, decide_eq_true_eq] at hw
    have ih := Mem.read_below t hw.2 (show a < c + 1 by omega)
    have hne : c ≠ a := by omega
    simp only [Mem.read, Tab.get, Tab.find?, hne, if_false] at ih ⊢
    exact ih

theorem Mem.eq_of_read_from : ∀ (m n : Mem) (lo : Nat), m.wfFrom lo = true → n.wfFrom lo = true → (∀ a, m.read a = n.read a) → m = n
  | [], [], _, _, _, _ => rfl
  | [], (a, b) :: t, lo, _, hn, h => by
    simp only [Mem.wfFrom, Bool.and_eq_true, decide_eq_true_eq] at hn
    have := h a
    simp [Mem.read, Tab.get, Tab.find?] at this
    exact absurd this.symm hn.1.2
  | (a, b) :: t, [], lo, hm, _, h => by
    simp only [Mem.wfFrom, Bool.and_eq_true, decide_eq_true_eq] at hm
    have := h a
    simp [Mem.read, Tab.get, Tab.find?] at this
    exact absurd this hm.1.2
  | (a, b) :: t, (c, d) :: u, lo, hm, hn, h => by
    simp only [Mem.wfFrom, Bool.and_eq_true, decide_eq_true_eq] at hm hn
    have rm : ∀ x, Mem.read ((a, b) :: t) x = if a = x then b else Mem.read t x := by
      intro x; simp only [Mem.read, Tab.get, Tab.find?]; split <;> rfl
    have rn : ∀ x, Mem.read ((c, d) :: u) x = if c = x then d else Mem.read u x := by
      intro x; simp only [Mem.read, Tab.get, Tab.find?]; split <;> rfl
    have hac : a = c := by
      rcases Nat.lt_trichotomy a c with hlt | heq | hgt
      · have := h a
        rw [rm, rn, if_pos rfl, if_neg (by omega), Mem.read_below u hn.2 (by omega)] at this
        exact absurd this hm.1.2
      · exact heq
      · have := h c
        rw [rm, rn, if_pos rfl, if_neg (by omega), Mem.read_below t hm.2 (by omega)] at this
        exact absurd this.symm hn.1.2
    subst hac
    have hbd : b = d := by
      have := h a
      rwa [rm, rn, if_pos rfl, if_pos rfl] at this
    subst hbd
    congr 1
    refine Mem.eq_of_read_from t u (a + 1) hm.2 hn.2 (fun x => ?_)
    by_cases hx : a = x
    · subst hx
      rw [Mem.read_below t hm.2 (by omega), Mem.read_below u hn.2 (by omega)]
    · have := h x
      rwa [rm, rn, if_neg hx, if_neg hx] at this

/-- Canonical memories that read alike are equal data. -/
theorem Mem.eq_of_read {m n : Mem} (hm : m.wf = true) (hn : n.wf = true) (h : ∀ a, m.read a = n.read a) : m = n :=
  Mem.eq_of_read_from m n 0 hm hn h

theorem State.reset_mem_wf : State.reset.mem.wf = true := rfl

end Sys2Proof.Machine
end

