-- ==== Sys2Proof/Laws/Homes.lean ====
section
/-! SUPPORT. What a write of memory can do: the bytes, the homes' caches, poison and watches, the commands that a watch satisfies, and
answers to peers; everything else is as before. -/

namespace Sys2Proof.Machine

/-- What stays when watches fire and homes note a write: memory, the dies, the registers, and of the cores all but the commands. -/
structure Noted (s t : State) : Prop where
  mem : t.mem = s.mem
  dies : t.l2.dies = s.l2.dies
  sys : t.sys = s.sys
  agenda : t.agenda = s.agenda
  free : t.free = s.free
  m : t.m = { s.m with cores := t.m.cores }
  core : ∀ c, t.m.core c = { s.m.core c with cmds := (t.m.core c).cmds }
  fab : t.fab = { s.fab with sent := t.fab.sent, ports := t.fab.ports, remotes := t.fab.remotes }
  turn : t.turn = s.turn

theorem Noted.refl (s : State) : Noted s s := ⟨rfl, rfl, rfl, rfl, rfl, rfl, fun _ => rfl, rfl, rfl⟩

theorem Noted.trans {s t u : State} (h : Noted s t) (k : Noted t u) : Noted s u where
  mem := k.mem.trans h.mem
  dies := k.dies.trans h.dies
  sys := k.sys.trans h.sys
  agenda := k.agenda.trans h.agenda
  free := k.free.trans h.free
  m := by rw [k.m, h.m]
  core := fun c => by rw [k.core c, h.core c]
  fab := by rw [k.fab, h.fab]
  turn := k.turn.trans h.turn

theorem Noted.foldl {α : Type} (f : State → α → State) (h : ∀ s a, Noted s (f s a)) (l : List α) (s : State) : Noted s (l.foldl f s) := by
  induction l generalizing s with
  | nil => exact .refl s
  | cons a l ih => exact (h s a).trans (ih _)

theorem Noted.setHome (s : State) (h : Nat) (x : Home) : Noted s (s.setHome h x) := ⟨rfl, rfl, rfl, rfl, rfl, rfl, fun _ => rfl, rfl, rfl⟩

/-- A command of a core changed, and this device's open requests. -/
theorem Noted.modifyCmd (s : State) (c k : Nat) (f : Cmd → Cmd) (rs : List Remote) :
    Noted s { s with m := s.m.setCore c { s.m.core c with cmds := (s.m.core c).cmds.modify k f }, fab := { s.fab with remotes := rs } } where
  mem := rfl
  dies := rfl
  sys := rfl
  agenda := rfl
  free := rfl
  m := rfl
  core := fun d => by
    by_cases h : d = c
    · subst h; simp [Mach.core, Mach.setCore]
    · simp [Mach.core, Mach.setCore, Tab.get_set_ne _ _ _ h]
  fab := rfl
  turn := rfl

theorem State.reply_noted (s : State) (src cmd elem code : Nat) (v : Word) (a : Nat) : Noted s (s.reply src cmd elem code v a) := by
  unfold State.reply
  split
  · exact ⟨rfl, rfl, rfl, rfl, rfl, rfl, fun _ => rfl, rfl, rfl⟩
  · split
    · exact .refl s
    · exact ⟨rfl, rfl, rfl, rfl, rfl, rfl, fun _ => rfl, rfl, rfl⟩

theorem State.fire_noted (s : State) (w : Watch) (v : Word) : Noted s (s.fire w v) := by
  unfold State.fire
  split
  · exact .modifyCmd _ _ _ _ _
  · split
    · exact .modifyCmd _ _ _ _ _
    · exact s.reply_noted _ _ _ _ _ _

theorem State.watchHome_noted (s : State) (h : Nat) (touched : Watch → Bool) : Noted s (s.watchHome h touched) := by
  unfold State.watchHome
  exact (Noted.setHome _ _ _).trans (Noted.foldl (fun (t : State) (p : Watch × Word) => t.fire p.1 p.2) (fun t p => t.fire_noted p.1 p.2) _ _)

theorem State.homeWritten_noted (s : State) (ps : List (Nat × Byte)) : Noted s (s.homeWritten ps) := by
  unfold State.homeWritten
  exact (Noted.foldl _ (fun t _ => Noted.setHome t _ _) _ _).trans (Noted.foldl _ (fun t _ => Noted.setHome t _ _) _ _)

/-- A write of memory: the bytes are written, and the rest is noted. -/
theorem State.storePairs_noted (s : State) (ps : List (Nat × Byte)) : Noted { s with mem := s.mem.writePairs ps } (s.storePairs ps) := by
  unfold State.storePairs State.watchWrite
  exact (State.homeWritten_noted _ _).trans (Noted.foldl _ (fun t h => t.watchHome_noted h _) _ _)

@[simp] theorem State.storePairs_mem (s : State) (ps : List (Nat × Byte)) : (s.storePairs ps).mem = s.mem.writePairs ps :=
  (s.storePairs_noted ps).mem

@[simp] theorem State.storePairs_sys (s : State) (ps : List (Nat × Byte)) : (s.storePairs ps).sys = s.sys := (s.storePairs_noted ps).sys

@[simp] theorem State.storePairs_dies (s : State) (ps : List (Nat × Byte)) : (s.storePairs ps).l2.dies = s.l2.dies :=
  (s.storePairs_noted ps).dies

@[simp] theorem State.storePairs_die (s : State) (ps : List (Nat × Byte)) (d : Nat) : (s.storePairs ps).die d = s.die d := by
  show L2Side.die _ d = L2Side.die _ d
  unfold L2Side.die
  rw [State.storePairs_dies]

@[simp] theorem State.storePairs_agenda (s : State) (ps : List (Nat × Byte)) : (s.storePairs ps).agenda = s.agenda :=
  (s.storePairs_noted ps).agenda

@[simp] theorem State.storePairs_free (s : State) (ps : List (Nat × Byte)) : (s.storePairs ps).free = s.free := (s.storePairs_noted ps).free

@[simp] theorem State.storePairs_turn (s : State) (ps : List (Nat × Byte)) : (s.storePairs ps).turn = s.turn := (s.storePairs_noted ps).turn

/-- Memory keeps its canonical form. -/
theorem State.storePairs_wf (s : State) (ps : List (Nat × Byte)) (h : s.mem.wf = true) : (s.storePairs ps).mem.wf = true := by
  rw [State.storePairs_mem]; exact Mem.wf_writePairs _ _ h

/-- A write-back, a dropped line and a release change memory only through such writes, so they keep its canonical form. -/
theorem State.writeBackLine_wf (s : State) (d line : Nat) (h : s.mem.wf = true) : (s.writeBackLine d line).mem.wf = true := by
  unfold State.writeBackLine
  split
  · exact h
  · split
    · exact h
    · exact State.storePairs_wf s _ h

theorem State.dropLine_wf (s : State) (d line : Nat) (h : s.mem.wf = true) : (s.dropLine d line).mem.wf = true := by
  unfold State.dropLine
  split
  · exact h
  · exact State.writeBackLine_wf s d line h

theorem State.releaseNow_wf (s : State) (d : Nat) (h : s.mem.wf = true) : (s.releaseNow d).mem.wf = true := by
  unfold State.releaseNow
  generalize (Tab.keys _) = l
  induction l generalizing s with
  | nil => exact h
  | cons a l ih => exact ih _ (State.writeBackLine_wf s d a h)

end Sys2Proof.Machine
end

