-- ==== Sys2Proof/Laws/State.lean ====
section
/-! SUPPORT. What each field of the state is after each of the named updates, and what the accessors read. -/

namespace Sys2Proof.Machine

/-! ## A core put into the machine -/

@[simp] theorem Mach.setCore_cur (m : Mach) (c : Nat) (x : Core) : (m.setCore c x).cur = m.cur := rfl
@[simp] theorem Mach.setCore_now (m : Mach) (c : Nat) (x : Core) : (m.setCore c x).now = m.now := rfl
@[simp] theorem Mach.setCore_fcur (m : Mach) (c : Nat) (x : Core) : (m.setCore c x).fcur = m.fcur := rfl
@[simp] theorem Mach.setCore_fnext (m : Mach) (c : Nat) (x : Core) : (m.setCore c x).fnext = m.fnext := rfl
@[simp] theorem Mach.setCore_time (m : Mach) (c : Nat) (x : Core) : (m.setCore c x).time = m.time := rfl
@[simp] theorem Mach.setCore_grids (m : Mach) (c : Nat) (x : Core) : (m.setCore c x).grids = m.grids := rfl
@[simp] theorem Mach.setCore_gridCount (m : Mach) (c : Nat) (x : Core) : (m.setCore c x).gridCount = m.gridCount := rfl
@[simp] theorem Mach.setCore_queues (m : Mach) (c : Nat) (x : Core) : (m.setCore c x).queues = m.queues := rfl
@[simp] theorem Mach.setCore_children (m : Mach) (c : Nat) (x : Core) : (m.setCore c x).children = m.children := rfl
@[simp] theorem Mach.setCore_launches (m : Mach) (c : Nat) (x : Core) : (m.setCore c x).launches = m.launches := rfl
@[simp] theorem Mach.setCore_handed (m : Mach) (c : Nat) (x : Core) : (m.setCore c x).handed = m.handed := rfl
@[simp] theorem Mach.setCore_lastDie (m : Mach) (c : Nat) (x : Core) : (m.setCore c x).lastDie = m.lastDie := rfl
@[simp] theorem Mach.setCore_lastQueue (m : Mach) (c : Nat) (x : Core) : (m.setCore c x).lastQueue = m.lastQueue := rfl
@[simp] theorem Mach.setCore_batchFrom (m : Mach) (c : Nat) (x : Core) : (m.setCore c x).batchFrom = m.batchFrom := rfl
@[simp] theorem Mach.setCore_placeholders (m : Mach) (c : Nat) (x : Core) : (m.setCore c x).placeholders = m.placeholders := rfl
@[simp] theorem Mach.setCore_bumps (m : Mach) (c : Nat) (x : Core) : (m.setCore c x).bumps = m.bumps := rfl
@[simp] theorem Mach.setCore_nextToken (m : Mach) (c : Nat) (x : Core) : (m.setCore c x).nextToken = m.nextToken := rfl
@[simp] theorem Mach.setCore_faults (m : Mach) (c : Nat) (x : Core) : (m.setCore c x).faults = m.faults := rfl
@[simp] theorem Mach.setCore_colls (m : Mach) (c : Nat) (x : Core) : (m.setCore c x).colls = m.colls := rfl
@[simp] theorem Mach.setCore_nextColl (m : Mach) (c : Nat) (x : Core) : (m.setCore c x).nextColl = m.nextColl := rfl
@[simp] theorem Mach.setCore_rampUs (m : Mach) (c : Nat) (x : Core) : (m.setCore c x).rampUs = m.rampUs := rfl
@[simp] theorem Mach.setCore_powerUs (m : Mach) (c : Nat) (x : Core) : (m.setCore c x).powerUs = m.powerUs := rfl
@[simp] theorem Mach.setCore_usStart (m : Mach) (c : Nat) (x : Core) : (m.setCore c x).usStart = m.usStart := rfl

/-! ## A team put into its core -/

@[simp] theorem Core.setTeam_groups (x : Core) (p : Nat) (t : Team) : (x.setTeam p t).groups = x.groups := rfl
@[simp] theorem Core.setTeam_scratch (x : Core) (p : Nat) (t : Team) : (x.setTeam p t).scratch = x.scratch := rfl
@[simp] theorem Core.setTeam_tile (x : Core) (p : Nat) (t : Team) : (x.setTeam p t).tile = x.tile := rfl
@[simp] theorem Core.setTeam_accs (x : Core) (p : Nat) (t : Team) : (x.setTeam p t).accs = x.accs := rfl
@[simp] theorem Core.setTeam_locks (x : Core) (p : Nat) (t : Team) : (x.setTeam p t).locks = x.locks := rfl
@[simp] theorem Core.setTeam_freed (x : Core) (p : Nat) (t : Team) : (x.setTeam p t).freed = x.freed := rfl
@[simp] theorem Core.setTeam_arrivals (x : Core) (p : Nat) (t : Team) : (x.setTeam p t).arrivals = x.arrivals := rfl
@[simp] theorem Core.setTeam_met (x : Core) (p : Nat) (t : Team) : (x.setTeam p t).met = x.met := rfl
@[simp] theorem Core.setTeam_veil (x : Core) (p : Nat) (t : Team) : (x.setTeam p t).veil = x.veil := rfl
@[simp] theorem Core.setTeam_cmds (x : Core) (p : Nat) (t : Team) : (x.setTeam p t).cmds = x.cmds := rfl
@[simp] theorem Core.setTeam_nextOrder (x : Core) (p : Nat) (t : Team) : (x.setTeam p t).nextOrder = x.nextOrder := rfl
@[simp] theorem Core.setTeam_matQ (x : Core) (p : Nat) (t : Team) : (x.setTeam p t).matQ = x.matQ := rfl
@[simp] theorem Core.setTeam_matRun (x : Core) (p : Nat) (t : Team) : (x.setTeam p t).matRun = x.matRun := rfl
@[simp] theorem Core.setTeam_matEnd (x : Core) (p : Nat) (t : Team) : (x.setTeam p t).matEnd = x.matEnd := rfl
@[simp] theorem Core.setTeam_occupied (x : Core) (p : Nat) (t : Team) : (x.setTeam p t).occupied = x.occupied := rfl
@[simp] theorem Core.setTeam_rampWait (x : Core) (p : Nat) (t : Team) : (x.setTeam p t).rampWait = x.rampWait := rfl
@[simp] theorem Core.setTeam_paths (x : Core) (p : Nat) (t : Team) : (x.setTeam p t).paths = x.paths := rfl
@[simp] theorem Core.setTeam_dividerFree (x : Core) (p : Nat) (t : Team) : (x.setTeam p t).dividerFree = x.dividerFree := rfl
@[simp] theorem Core.setTeam_localFree (x : Core) (p : Nat) (t : Team) : (x.setTeam p t).localFree = x.localFree := rfl
@[simp] theorem Core.setTeam_use (x : Core) (p : Nat) (t : Team) : (x.setTeam p t).use = x.use := rfl
@[simp] theorem Core.setTeam_plan (x : Core) (p : Nat) (t : Team) : (x.setTeam p t).plan = x.plan := rfl
@[simp] theorem Core.setTeam_guests (x : Core) (p : Nat) (t : Team) : (x.setTeam p t).guests = x.guests := rfl
@[simp] theorem Core.setTeam_taskFree (x : Core) (p : Nat) (t : Team) : (x.setTeam p t).taskFree = x.taskFree := rfl
@[simp] theorem Core.setTeam_slots (x : Core) (p : Nat) (t : Team) : (x.setTeam p t).slots = x.slots := rfl
@[simp] theorem Core.setTeam_badScratch (x : Core) (p : Nat) (t : Team) : (x.setTeam p t).badScratch = x.badScratch := rfl
@[simp] theorem Core.setTeam_badTile (x : Core) (p : Nat) (t : Team) : (x.setTeam p t).badTile = x.badTile := rfl
@[simp] theorem Core.setTeam_detected (x : Core) (p : Nat) (t : Team) : (x.setTeam p t).detected = x.detected := rfl
@[simp] theorem Core.setTeam_failedBanks (x : Core) (p : Nat) (t : Team) : (x.setTeam p t).failedBanks = x.failedBanks := rfl
@[simp] theorem Core.setTeam_testBanks (x : Core) (p : Nat) (t : Team) : (x.setTeam p t).testBanks = x.testBanks := rfl
@[simp] theorem Core.setTeam_tileTests (x : Core) (p : Nat) (t : Team) : (x.setTeam p t).tileTests = x.tileTests := rfl
@[simp] theorem Core.setTeam_lost (x : Core) (p : Nat) (t : Team) : (x.setTeam p t).lost = x.lost := rfl
@[simp] theorem Core.setTeam_dbgPlace (x : Core) (p : Nat) (t : Team) : (x.setTeam p t).dbgPlace = x.dbgPlace := rfl
@[simp] theorem Core.setTeam_dbgCmd (x : Core) (p : Nat) (t : Team) : (x.setTeam p t).dbgCmd = x.dbgCmd := rfl
@[simp] theorem Core.setTeam_dbgGroup (x : Core) (p : Nat) (t : Team) : (x.setTeam p t).dbgGroup = x.dbgGroup := rfl
@[simp] theorem Core.setTeam_dbgSnap (x : Core) (p : Nat) (t : Team) : (x.setTeam p t).dbgSnap = x.dbgSnap := rfl
@[simp] theorem Core.setTeam_stopEng (x : Core) (p : Nat) (t : Team) : (x.setTeam p t).stopEng = x.stopEng := rfl
@[simp] theorem Core.setTeam_attach (x : Core) (p : Nat) (t : Team) : (x.setTeam p t).attach = x.attach := rfl
@[simp] theorem Core.setTeam_snapSlot (x : Core) (p : Nat) (t : Team) : (x.setTeam p t).snapSlot = x.snapSlot := rfl

/-! ## A group put into its core -/

@[simp] theorem Core.setGroup_teams (x : Core) (g : Nat) (v : Group) : (x.setGroup g v).teams = x.teams := rfl
@[simp] theorem Core.setGroup_scratch (x : Core) (g : Nat) (v : Group) : (x.setGroup g v).scratch = x.scratch := rfl
@[simp] theorem Core.setGroup_tile (x : Core) (g : Nat) (v : Group) : (x.setGroup g v).tile = x.tile := rfl
@[simp] theorem Core.setGroup_accs (x : Core) (g : Nat) (v : Group) : (x.setGroup g v).accs = x.accs := rfl
@[simp] theorem Core.setGroup_locks (x : Core) (g : Nat) (v : Group) : (x.setGroup g v).locks = x.locks := rfl
@[simp] theorem Core.setGroup_freed (x : Core) (g : Nat) (v : Group) : (x.setGroup g v).freed = x.freed := rfl
@[simp] theorem Core.setGroup_arrivals (x : Core) (g : Nat) (v : Group) : (x.setGroup g v).arrivals = x.arrivals := rfl
@[simp] theorem Core.setGroup_met (x : Core) (g : Nat) (v : Group) : (x.setGroup g v).met = x.met := rfl
@[simp] theorem Core.setGroup_veil (x : Core) (g : Nat) (v : Group) : (x.setGroup g v).veil = x.veil := rfl
@[simp] theorem Core.setGroup_cmds (x : Core) (g : Nat) (v : Group) : (x.setGroup g v).cmds = x.cmds := rfl
@[simp] theorem Core.setGroup_nextOrder (x : Core) (g : Nat) (v : Group) : (x.setGroup g v).nextOrder = x.nextOrder := rfl
@[simp] theorem Core.setGroup_matQ (x : Core) (g : Nat) (v : Group) : (x.setGroup g v).matQ = x.matQ := rfl
@[simp] theorem Core.setGroup_matRun (x : Core) (g : Nat) (v : Group) : (x.setGroup g v).matRun = x.matRun := rfl
@[simp] theorem Core.setGroup_matEnd (x : Core) (g : Nat) (v : Group) : (x.setGroup g v).matEnd = x.matEnd := rfl
@[simp] theorem Core.setGroup_occupied (x : Core) (g : Nat) (v : Group) : (x.setGroup g v).occupied = x.occupied := rfl
@[simp] theorem Core.setGroup_rampWait (x : Core) (g : Nat) (v : Group) : (x.setGroup g v).rampWait = x.rampWait := rfl
@[simp] theorem Core.setGroup_paths (x : Core) (g : Nat) (v : Group) : (x.setGroup g v).paths = x.paths := rfl
@[simp] theorem Core.setGroup_dividerFree (x : Core) (g : Nat) (v : Group) : (x.setGroup g v).dividerFree = x.dividerFree := rfl
@[simp] theorem Core.setGroup_localFree (x : Core) (g : Nat) (v : Group) : (x.setGroup g v).localFree = x.localFree := rfl
@[simp] theorem Core.setGroup_use (x : Core) (g : Nat) (v : Group) : (x.setGroup g v).use = x.use := rfl
@[simp] theorem Core.setGroup_plan (x : Core) (g : Nat) (v : Group) : (x.setGroup g v).plan = x.plan := rfl
@[simp] theorem Core.setGroup_guests (x : Core) (g : Nat) (v : Group) : (x.setGroup g v).guests = x.guests := rfl
@[simp] theorem Core.setGroup_taskFree (x : Core) (g : Nat) (v : Group) : (x.setGroup g v).taskFree = x.taskFree := rfl
@[simp] theorem Core.setGroup_slots (x : Core) (g : Nat) (v : Group) : (x.setGroup g v).slots = x.slots := rfl
@[simp] theorem Core.setGroup_badScratch (x : Core) (g : Nat) (v : Group) : (x.setGroup g v).badScratch = x.badScratch := rfl
@[simp] theorem Core.setGroup_badTile (x : Core) (g : Nat) (v : Group) : (x.setGroup g v).badTile = x.badTile := rfl
@[simp] theorem Core.setGroup_detected (x : Core) (g : Nat) (v : Group) : (x.setGroup g v).detected = x.detected := rfl
@[simp] theorem Core.setGroup_failedBanks (x : Core) (g : Nat) (v : Group) : (x.setGroup g v).failedBanks = x.failedBanks := rfl
@[simp] theorem Core.setGroup_testBanks (x : Core) (g : Nat) (v : Group) : (x.setGroup g v).testBanks = x.testBanks := rfl
@[simp] theorem Core.setGroup_tileTests (x : Core) (g : Nat) (v : Group) : (x.setGroup g v).tileTests = x.tileTests := rfl
@[simp] theorem Core.setGroup_lost (x : Core) (g : Nat) (v : Group) : (x.setGroup g v).lost = x.lost := rfl
@[simp] theorem Core.setGroup_dbgPlace (x : Core) (g : Nat) (v : Group) : (x.setGroup g v).dbgPlace = x.dbgPlace := rfl
@[simp] theorem Core.setGroup_dbgCmd (x : Core) (g : Nat) (v : Group) : (x.setGroup g v).dbgCmd = x.dbgCmd := rfl
@[simp] theorem Core.setGroup_dbgGroup (x : Core) (g : Nat) (v : Group) : (x.setGroup g v).dbgGroup = x.dbgGroup := rfl
@[simp] theorem Core.setGroup_dbgSnap (x : Core) (g : Nat) (v : Group) : (x.setGroup g v).dbgSnap = x.dbgSnap := rfl
@[simp] theorem Core.setGroup_stopEng (x : Core) (g : Nat) (v : Group) : (x.setGroup g v).stopEng = x.stopEng := rfl
@[simp] theorem Core.setGroup_attach (x : Core) (g : Nat) (v : Group) : (x.setGroup g v).attach = x.attach := rfl
@[simp] theorem Core.setGroup_snapSlot (x : Core) (g : Nat) (v : Group) : (x.setGroup g v).snapSlot = x.snapSlot := rfl

/-! ## The current team put into the machine -/

@[simp] theorem Mach.setTeam_cur (m : Mach) (t : Team) : (m.setTeam t).cur = m.cur := rfl
@[simp] theorem Mach.setTeam_now (m : Mach) (t : Team) : (m.setTeam t).now = m.now := rfl
@[simp] theorem Mach.setTeam_fcur (m : Mach) (t : Team) : (m.setTeam t).fcur = m.fcur := rfl
@[simp] theorem Mach.setTeam_fnext (m : Mach) (t : Team) : (m.setTeam t).fnext = m.fnext := rfl
@[simp] theorem Mach.setTeam_time (m : Mach) (t : Team) : (m.setTeam t).time = m.time := rfl
@[simp] theorem Mach.setTeam_grids (m : Mach) (t : Team) : (m.setTeam t).grids = m.grids := rfl
@[simp] theorem Mach.setTeam_gridCount (m : Mach) (t : Team) : (m.setTeam t).gridCount = m.gridCount := rfl
@[simp] theorem Mach.setTeam_queues (m : Mach) (t : Team) : (m.setTeam t).queues = m.queues := rfl
@[simp] theorem Mach.setTeam_children (m : Mach) (t : Team) : (m.setTeam t).children = m.children := rfl
@[simp] theorem Mach.setTeam_launches (m : Mach) (t : Team) : (m.setTeam t).launches = m.launches := rfl
@[simp] theorem Mach.setTeam_handed (m : Mach) (t : Team) : (m.setTeam t).handed = m.handed := rfl
@[simp] theorem Mach.setTeam_lastDie (m : Mach) (t : Team) : (m.setTeam t).lastDie = m.lastDie := rfl
@[simp] theorem Mach.setTeam_lastQueue (m : Mach) (t : Team) : (m.setTeam t).lastQueue = m.lastQueue := rfl
@[simp] theorem Mach.setTeam_batchFrom (m : Mach) (t : Team) : (m.setTeam t).batchFrom = m.batchFrom := rfl
@[simp] theorem Mach.setTeam_placeholders (m : Mach) (t : Team) : (m.setTeam t).placeholders = m.placeholders := rfl
@[simp] theorem Mach.setTeam_bumps (m : Mach) (t : Team) : (m.setTeam t).bumps = m.bumps := rfl
@[simp] theorem Mach.setTeam_nextToken (m : Mach) (t : Team) : (m.setTeam t).nextToken = m.nextToken := rfl
@[simp] theorem Mach.setTeam_faults (m : Mach) (t : Team) : (m.setTeam t).faults = m.faults := rfl
@[simp] theorem Mach.setTeam_colls (m : Mach) (t : Team) : (m.setTeam t).colls = m.colls := rfl
@[simp] theorem Mach.setTeam_nextColl (m : Mach) (t : Team) : (m.setTeam t).nextColl = m.nextColl := rfl
@[simp] theorem Mach.setTeam_rampUs (m : Mach) (t : Team) : (m.setTeam t).rampUs = m.rampUs := rfl
@[simp] theorem Mach.setTeam_powerUs (m : Mach) (t : Team) : (m.setTeam t).powerUs = m.powerUs := rfl
@[simp] theorem Mach.setTeam_usStart (m : Mach) (t : Team) : (m.setTeam t).usStart = m.usStart := rfl

/-! ## A team without its prefixes -/

@[simp] theorem Team.dropPrefix_group (t : Team) : (t.dropPrefix).group = t.group := rfl
@[simp] theorem Team.dropPrefix_tid (t : Team) : (t.dropPrefix).tid = t.tid := rfl
@[simp] theorem Team.dropPrefix_lanes (t : Team) : (t.dropPrefix).lanes = t.lanes := rfl
@[simp] theorem Team.dropPrefix_nv (t : Team) : (t.dropPrefix).nv = t.nv := rfl
@[simp] theorem Team.dropPrefix_s (t : Team) : (t.dropPrefix).s = t.s := rfl
@[simp] theorem Team.dropPrefix_v (t : Team) : (t.dropPrefix).v = t.v := rfl
@[simp] theorem Team.dropPrefix_m (t : Team) : (t.dropPrefix).m = t.m := rfl
@[simp] theorem Team.dropPrefix_mode (t : Team) : (t.dropPrefix).mode = t.mode := rfl
@[simp] theorem Team.dropPrefix_status (t : Team) : (t.dropPrefix).status = t.status := rfl
@[simp] theorem Team.dropPrefix_trapPc (t : Team) : (t.dropPrefix).trapPc = t.trapPc := rfl
@[simp] theorem Team.dropPrefix_trapCause (t : Team) : (t.dropPrefix).trapCause = t.trapCause := rfl
@[simp] theorem Team.dropPrefix_trapInfo (t : Team) : (t.dropPrefix).trapInfo = t.trapInfo := rfl
@[simp] theorem Team.dropPrefix_trapVec (t : Team) : (t.dropPrefix).trapVec = t.trapVec := rfl
@[simp] theorem Team.dropPrefix_trapClause (t : Team) : (t.dropPrefix).trapClause = t.trapClause := rfl
@[simp] theorem Team.dropPrefix_pc (t : Team) : (t.dropPrefix).pc = t.pc := rfl
@[simp] theorem Team.dropPrefix_pos (t : Team) : (t.dropPrefix).pos = t.pos := rfl
@[simp] theorem Team.dropPrefix_hdr (t : Team) : (t.dropPrefix).hdr = t.hdr := rfl
@[simp] theorem Team.dropPrefix_repCnt (t : Team) : (t.dropPrefix).repCnt = t.repCnt := rfl
@[simp] theorem Team.dropPrefix_prefixPc (t : Team) : (t.dropPrefix).prefixPc = t.prefixPc := rfl
@[simp] theorem Team.dropPrefix_prefixPos (t : Team) : (t.dropPrefix).prefixPos = t.prefixPos := rfl
@[simp] theorem Team.dropPrefix_flags (t : Team) : (t.dropPrefix).flags = t.flags := rfl
@[simp] theorem Team.dropPrefix_stack (t : Team) : (t.dropPrefix).stack = t.stack := rfl
@[simp] theorem Team.dropPrefix_spilled (t : Team) : (t.dropPrefix).spilled = t.spilled := rfl
@[simp] theorem Team.dropPrefix_spillEnd (t : Team) : (t.dropPrefix).spillEnd = t.spillEnd := rfl
@[simp] theorem Team.dropPrefix_allot (t : Team) : (t.dropPrefix).allot = t.allot := rfl
@[simp] theorem Team.dropPrefix_phase (t : Team) : (t.dropPrefix).phase = t.phase := rfl
@[simp] theorem Team.dropPrefix_haltReq (t : Team) : (t.dropPrefix).haltReq = t.haltReq := rfl
@[simp] theorem Team.dropPrefix_stepping (t : Team) : (t.dropPrefix).stepping = t.stepping := rfl
@[simp] theorem Team.dropPrefix_age (t : Team) : (t.dropPrefix).age = t.age := rfl
@[simp] theorem Team.dropPrefix_nextIssue (t : Team) : (t.dropPrefix).nextIssue = t.nextIssue := rfl
@[simp] theorem Team.dropPrefix_yielding (t : Team) : (t.dropPrefix).yielding = t.yielding := rfl
@[simp] theorem Team.dropPrefix_pend (t : Team) : (t.dropPrefix).pend = t.pend := rfl
@[simp] theorem Team.dropPrefix_passes (t : Team) : (t.dropPrefix).passes = t.passes := rfl
@[simp] theorem Team.dropPrefix_holds (t : Team) : (t.dropPrefix).holds = t.holds := rfl
@[simp] theorem Team.dropPrefix_storeQ (t : Team) : (t.dropPrefix).storeQ = t.storeQ := rfl
@[simp] theorem Team.dropPrefix_flight (t : Team) : (t.dropPrefix).flight = t.flight := rfl
@[simp] theorem Team.dropPrefix_held (t : Team) : (t.dropPrefix).held = t.held := rfl

/-! ## A team one word on -/

@[simp] theorem Team.advance_group (t : Team) : (t.advance).group = t.group := rfl
@[simp] theorem Team.advance_tid (t : Team) : (t.advance).tid = t.tid := rfl
@[simp] theorem Team.advance_lanes (t : Team) : (t.advance).lanes = t.lanes := rfl
@[simp] theorem Team.advance_nv (t : Team) : (t.advance).nv = t.nv := rfl
@[simp] theorem Team.advance_s (t : Team) : (t.advance).s = t.s := rfl
@[simp] theorem Team.advance_v (t : Team) : (t.advance).v = t.v := rfl
@[simp] theorem Team.advance_m (t : Team) : (t.advance).m = t.m := rfl
@[simp] theorem Team.advance_mode (t : Team) : (t.advance).mode = t.mode := rfl
@[simp] theorem Team.advance_status (t : Team) : (t.advance).status = t.status := rfl
@[simp] theorem Team.advance_trapPc (t : Team) : (t.advance).trapPc = t.trapPc := rfl
@[simp] theorem Team.advance_trapCause (t : Team) : (t.advance).trapCause = t.trapCause := rfl
@[simp] theorem Team.advance_trapInfo (t : Team) : (t.advance).trapInfo = t.trapInfo := rfl
@[simp] theorem Team.advance_trapVec (t : Team) : (t.advance).trapVec = t.trapVec := rfl
@[simp] theorem Team.advance_trapClause (t : Team) : (t.advance).trapClause = t.trapClause := rfl
@[simp] theorem Team.advance_hdr (t : Team) : (t.advance).hdr = t.hdr := rfl
@[simp] theorem Team.advance_repCnt (t : Team) : (t.advance).repCnt = t.repCnt := rfl
@[simp] theorem Team.advance_repWord (t : Team) : (t.advance).repWord = t.repWord := rfl
@[simp] theorem Team.advance_immWord (t : Team) : (t.advance).immWord = t.immWord := rfl
@[simp] theorem Team.advance_prefixPc (t : Team) : (t.advance).prefixPc = t.prefixPc := rfl
@[simp] theorem Team.advance_prefixPos (t : Team) : (t.advance).prefixPos = t.prefixPos := rfl
@[simp] theorem Team.advance_flags (t : Team) : (t.advance).flags = t.flags := rfl
@[simp] theorem Team.advance_stack (t : Team) : (t.advance).stack = t.stack := rfl
@[simp] theorem Team.advance_spilled (t : Team) : (t.advance).spilled = t.spilled := rfl
@[simp] theorem Team.advance_spillEnd (t : Team) : (t.advance).spillEnd = t.spillEnd := rfl
@[simp] theorem Team.advance_allot (t : Team) : (t.advance).allot = t.allot := rfl
@[simp] theorem Team.advance_phase (t : Team) : (t.advance).phase = t.phase := rfl
@[simp] theorem Team.advance_haltReq (t : Team) : (t.advance).haltReq = t.haltReq := rfl
@[simp] theorem Team.advance_stepping (t : Team) : (t.advance).stepping = t.stepping := rfl
@[simp] theorem Team.advance_age (t : Team) : (t.advance).age = t.age := rfl
@[simp] theorem Team.advance_nextIssue (t : Team) : (t.advance).nextIssue = t.nextIssue := rfl
@[simp] theorem Team.advance_yielding (t : Team) : (t.advance).yielding = t.yielding := rfl
@[simp] theorem Team.advance_pend (t : Team) : (t.advance).pend = t.pend := rfl
@[simp] theorem Team.advance_passes (t : Team) : (t.advance).passes = t.passes := rfl
@[simp] theorem Team.advance_holds (t : Team) : (t.advance).holds = t.holds := rfl
@[simp] theorem Team.advance_storeQ (t : Team) : (t.advance).storeQ = t.storeQ := rfl
@[simp] theorem Team.advance_flight (t : Team) : (t.advance).flight = t.flight := rfl
@[simp] theorem Team.advance_held (t : Team) : (t.advance).held = t.held := rfl

/-! ## A team at a clause start -/

@[simp] theorem Team.jump_group (t : Team) (a : Word) : (t.jump a).group = t.group := rfl
@[simp] theorem Team.jump_tid (t : Team) (a : Word) : (t.jump a).tid = t.tid := rfl
@[simp] theorem Team.jump_lanes (t : Team) (a : Word) : (t.jump a).lanes = t.lanes := rfl
@[simp] theorem Team.jump_nv (t : Team) (a : Word) : (t.jump a).nv = t.nv := rfl
@[simp] theorem Team.jump_s (t : Team) (a : Word) : (t.jump a).s = t.s := rfl
@[simp] theorem Team.jump_v (t : Team) (a : Word) : (t.jump a).v = t.v := rfl
@[simp] theorem Team.jump_m (t : Team) (a : Word) : (t.jump a).m = t.m := rfl
@[simp] theorem Team.jump_mode (t : Team) (a : Word) : (t.jump a).mode = t.mode := rfl
@[simp] theorem Team.jump_status (t : Team) (a : Word) : (t.jump a).status = t.status := rfl
@[simp] theorem Team.jump_trapPc (t : Team) (a : Word) : (t.jump a).trapPc = t.trapPc := rfl
@[simp] theorem Team.jump_trapCause (t : Team) (a : Word) : (t.jump a).trapCause = t.trapCause := rfl
@[simp] theorem Team.jump_trapInfo (t : Team) (a : Word) : (t.jump a).trapInfo = t.trapInfo := rfl
@[simp] theorem Team.jump_trapVec (t : Team) (a : Word) : (t.jump a).trapVec = t.trapVec := rfl
@[simp] theorem Team.jump_trapClause (t : Team) (a : Word) : (t.jump a).trapClause = t.trapClause := rfl
@[simp] theorem Team.jump_hdr (t : Team) (a : Word) : (t.jump a).hdr = t.hdr := rfl
@[simp] theorem Team.jump_repCnt (t : Team) (a : Word) : (t.jump a).repCnt = t.repCnt := rfl
@[simp] theorem Team.jump_prefixPc (t : Team) (a : Word) : (t.jump a).prefixPc = t.prefixPc := rfl
@[simp] theorem Team.jump_prefixPos (t : Team) (a : Word) : (t.jump a).prefixPos = t.prefixPos := rfl
@[simp] theorem Team.jump_flags (t : Team) (a : Word) : (t.jump a).flags = t.flags := rfl
@[simp] theorem Team.jump_stack (t : Team) (a : Word) : (t.jump a).stack = t.stack := rfl
@[simp] theorem Team.jump_spilled (t : Team) (a : Word) : (t.jump a).spilled = t.spilled := rfl
@[simp] theorem Team.jump_spillEnd (t : Team) (a : Word) : (t.jump a).spillEnd = t.spillEnd := rfl
@[simp] theorem Team.jump_allot (t : Team) (a : Word) : (t.jump a).allot = t.allot := rfl
@[simp] theorem Team.jump_phase (t : Team) (a : Word) : (t.jump a).phase = t.phase := rfl
@[simp] theorem Team.jump_haltReq (t : Team) (a : Word) : (t.jump a).haltReq = t.haltReq := rfl
@[simp] theorem Team.jump_stepping (t : Team) (a : Word) : (t.jump a).stepping = t.stepping := rfl
@[simp] theorem Team.jump_age (t : Team) (a : Word) : (t.jump a).age = t.age := rfl
@[simp] theorem Team.jump_nextIssue (t : Team) (a : Word) : (t.jump a).nextIssue = t.nextIssue := rfl
@[simp] theorem Team.jump_yielding (t : Team) (a : Word) : (t.jump a).yielding = t.yielding := rfl
@[simp] theorem Team.jump_pend (t : Team) (a : Word) : (t.jump a).pend = t.pend := rfl
@[simp] theorem Team.jump_passes (t : Team) (a : Word) : (t.jump a).passes = t.passes := rfl
@[simp] theorem Team.jump_holds (t : Team) (a : Word) : (t.jump a).holds = t.holds := rfl
@[simp] theorem Team.jump_storeQ (t : Team) (a : Word) : (t.jump a).storeQ = t.storeQ := rfl
@[simp] theorem Team.jump_flight (t : Team) (a : Word) : (t.jump a).flight = t.flight := rfl
@[simp] theorem Team.jump_held (t : Team) (a : Word) : (t.jump a).held = t.held := rfl

/-! ## A scalar register written -/

@[simp] theorem Team.ws_group (t : Team) (r : Nat) (v : Word) : (t.ws r v).group = t.group := by unfold Team.ws; split <;> rfl
@[simp] theorem Team.ws_tid (t : Team) (r : Nat) (v : Word) : (t.ws r v).tid = t.tid := by unfold Team.ws; split <;> rfl
@[simp] theorem Team.ws_lanes (t : Team) (r : Nat) (v : Word) : (t.ws r v).lanes = t.lanes := by unfold Team.ws; split <;> rfl
@[simp] theorem Team.ws_nv (t : Team) (r : Nat) (v : Word) : (t.ws r v).nv = t.nv := by unfold Team.ws; split <;> rfl
@[simp] theorem Team.ws_v (t : Team) (r : Nat) (v : Word) : (t.ws r v).v = t.v := by unfold Team.ws; split <;> rfl
@[simp] theorem Team.ws_m (t : Team) (r : Nat) (v : Word) : (t.ws r v).m = t.m := by unfold Team.ws; split <;> rfl
@[simp] theorem Team.ws_mode (t : Team) (r : Nat) (v : Word) : (t.ws r v).mode = t.mode := by unfold Team.ws; split <;> rfl
@[simp] theorem Team.ws_status (t : Team) (r : Nat) (v : Word) : (t.ws r v).status = t.status := by unfold Team.ws; split <;> rfl
@[simp] theorem Team.ws_trapPc (t : Team) (r : Nat) (v : Word) : (t.ws r v).trapPc = t.trapPc := by unfold Team.ws; split <;> rfl
@[simp] theorem Team.ws_trapCause (t : Team) (r : Nat) (v : Word) : (t.ws r v).trapCause = t.trapCause := by unfold Team.ws; split <;> rfl
@[simp] theorem Team.ws_trapInfo (t : Team) (r : Nat) (v : Word) : (t.ws r v).trapInfo = t.trapInfo := by unfold Team.ws; split <;> rfl
@[simp] theorem Team.ws_trapVec (t : Team) (r : Nat) (v : Word) : (t.ws r v).trapVec = t.trapVec := by unfold Team.ws; split <;> rfl
@[simp] theorem Team.ws_trapClause (t : Team) (r : Nat) (v : Word) : (t.ws r v).trapClause = t.trapClause := by unfold Team.ws; split <;> rfl
@[simp] theorem Team.ws_pc (t : Team) (r : Nat) (v : Word) : (t.ws r v).pc = t.pc := by unfold Team.ws; split <;> rfl
@[simp] theorem Team.ws_pos (t : Team) (r : Nat) (v : Word) : (t.ws r v).pos = t.pos := by unfold Team.ws; split <;> rfl
@[simp] theorem Team.ws_hdr (t : Team) (r : Nat) (v : Word) : (t.ws r v).hdr = t.hdr := by unfold Team.ws; split <;> rfl
@[simp] theorem Team.ws_repCnt (t : Team) (r : Nat) (v : Word) : (t.ws r v).repCnt = t.repCnt := by unfold Team.ws; split <;> rfl
@[simp] theorem Team.ws_repWord (t : Team) (r : Nat) (v : Word) : (t.ws r v).repWord = t.repWord := by unfold Team.ws; split <;> rfl
@[simp] theorem Team.ws_immWord (t : Team) (r : Nat) (v : Word) : (t.ws r v).immWord = t.immWord := by unfold Team.ws; split <;> rfl
@[simp] theorem Team.ws_prefixPc (t : Team) (r : Nat) (v : Word) : (t.ws r v).prefixPc = t.prefixPc := by unfold Team.ws; split <;> rfl
@[simp] theorem Team.ws_prefixPos (t : Team) (r : Nat) (v : Word) : (t.ws r v).prefixPos = t.prefixPos := by unfold Team.ws; split <;> rfl
@[simp] theorem Team.ws_flags (t : Team) (r : Nat) (v : Word) : (t.ws r v).flags = t.flags := by unfold Team.ws; split <;> rfl
@[simp] theorem Team.ws_stack (t : Team) (r : Nat) (v : Word) : (t.ws r v).stack = t.stack := by unfold Team.ws; split <;> rfl
@[simp] theorem Team.ws_spilled (t : Team) (r : Nat) (v : Word) : (t.ws r v).spilled = t.spilled := by unfold Team.ws; split <;> rfl
@[simp] theorem Team.ws_spillEnd (t : Team) (r : Nat) (v : Word) : (t.ws r v).spillEnd = t.spillEnd := by unfold Team.ws; split <;> rfl
@[simp] theorem Team.ws_allot (t : Team) (r : Nat) (v : Word) : (t.ws r v).allot = t.allot := by unfold Team.ws; split <;> rfl
@[simp] theorem Team.ws_phase (t : Team) (r : Nat) (v : Word) : (t.ws r v).phase = t.phase := by unfold Team.ws; split <;> rfl
@[simp] theorem Team.ws_haltReq (t : Team) (r : Nat) (v : Word) : (t.ws r v).haltReq = t.haltReq := by unfold Team.ws; split <;> rfl
@[simp] theorem Team.ws_stepping (t : Team) (r : Nat) (v : Word) : (t.ws r v).stepping = t.stepping := by unfold Team.ws; split <;> rfl
@[simp] theorem Team.ws_age (t : Team) (r : Nat) (v : Word) : (t.ws r v).age = t.age := by unfold Team.ws; split <;> rfl
@[simp] theorem Team.ws_nextIssue (t : Team) (r : Nat) (v : Word) : (t.ws r v).nextIssue = t.nextIssue := by unfold Team.ws; split <;> rfl
@[simp] theorem Team.ws_yielding (t : Team) (r : Nat) (v : Word) : (t.ws r v).yielding = t.yielding := by unfold Team.ws; split <;> rfl
@[simp] theorem Team.ws_pend (t : Team) (r : Nat) (v : Word) : (t.ws r v).pend = t.pend := by unfold Team.ws; split <;> rfl
@[simp] theorem Team.ws_passes (t : Team) (r : Nat) (v : Word) : (t.ws r v).passes = t.passes := by unfold Team.ws; split <;> rfl
@[simp] theorem Team.ws_holds (t : Team) (r : Nat) (v : Word) : (t.ws r v).holds = t.holds := by unfold Team.ws; split <;> rfl
@[simp] theorem Team.ws_storeQ (t : Team) (r : Nat) (v : Word) : (t.ws r v).storeQ = t.storeQ := by unfold Team.ws; split <;> rfl
@[simp] theorem Team.ws_flight (t : Team) (r : Nat) (v : Word) : (t.ws r v).flight = t.flight := by unfold Team.ws; split <;> rfl
@[simp] theorem Team.ws_held (t : Team) (r : Nat) (v : Word) : (t.ws r v).held = t.held := by unfold Team.ws; split <;> rfl

/-! ## A result that is awaited -/

@[simp] theorem Team.awaitS_group (t : Team) (d due : Nat) (k : PendKind) : (t.awaitS d due k).group = t.group := rfl
@[simp] theorem Team.awaitS_tid (t : Team) (d due : Nat) (k : PendKind) : (t.awaitS d due k).tid = t.tid := rfl
@[simp] theorem Team.awaitS_lanes (t : Team) (d due : Nat) (k : PendKind) : (t.awaitS d due k).lanes = t.lanes := rfl
@[simp] theorem Team.awaitS_nv (t : Team) (d due : Nat) (k : PendKind) : (t.awaitS d due k).nv = t.nv := rfl
@[simp] theorem Team.awaitS_s (t : Team) (d due : Nat) (k : PendKind) : (t.awaitS d due k).s = t.s := rfl
@[simp] theorem Team.awaitS_v (t : Team) (d due : Nat) (k : PendKind) : (t.awaitS d due k).v = t.v := rfl
@[simp] theorem Team.awaitS_m (t : Team) (d due : Nat) (k : PendKind) : (t.awaitS d due k).m = t.m := rfl
@[simp] theorem Team.awaitS_mode (t : Team) (d due : Nat) (k : PendKind) : (t.awaitS d due k).mode = t.mode := rfl
@[simp] theorem Team.awaitS_status (t : Team) (d due : Nat) (k : PendKind) : (t.awaitS d due k).status = t.status := rfl
@[simp] theorem Team.awaitS_trapPc (t : Team) (d due : Nat) (k : PendKind) : (t.awaitS d due k).trapPc = t.trapPc := rfl
@[simp] theorem Team.awaitS_trapCause (t : Team) (d due : Nat) (k : PendKind) : (t.awaitS d due k).trapCause = t.trapCause := rfl
@[simp] theorem Team.awaitS_trapInfo (t : Team) (d due : Nat) (k : PendKind) : (t.awaitS d due k).trapInfo = t.trapInfo := rfl
@[simp] theorem Team.awaitS_trapVec (t : Team) (d due : Nat) (k : PendKind) : (t.awaitS d due k).trapVec = t.trapVec := rfl
@[simp] theorem Team.awaitS_trapClause (t : Team) (d due : Nat) (k : PendKind) : (t.awaitS d due k).trapClause = t.trapClause := rfl
@[simp] theorem Team.awaitS_pc (t : Team) (d due : Nat) (k : PendKind) : (t.awaitS d due k).pc = t.pc := rfl
@[simp] theorem Team.awaitS_pos (t : Team) (d due : Nat) (k : PendKind) : (t.awaitS d due k).pos = t.pos := rfl
@[simp] theorem Team.awaitS_hdr (t : Team) (d due : Nat) (k : PendKind) : (t.awaitS d due k).hdr = t.hdr := rfl
@[simp] theorem Team.awaitS_repCnt (t : Team) (d due : Nat) (k : PendKind) : (t.awaitS d due k).repCnt = t.repCnt := rfl
@[simp] theorem Team.awaitS_repWord (t : Team) (d due : Nat) (k : PendKind) : (t.awaitS d due k).repWord = t.repWord := rfl
@[simp] theorem Team.awaitS_immWord (t : Team) (d due : Nat) (k : PendKind) : (t.awaitS d due k).immWord = t.immWord := rfl
@[simp] theorem Team.awaitS_prefixPc (t : Team) (d due : Nat) (k : PendKind) : (t.awaitS d due k).prefixPc = t.prefixPc := rfl
@[simp] theorem Team.awaitS_prefixPos (t : Team) (d due : Nat) (k : PendKind) : (t.awaitS d due k).prefixPos = t.prefixPos := rfl
@[simp] theorem Team.awaitS_flags (t : Team) (d due : Nat) (k : PendKind) : (t.awaitS d due k).flags = t.flags := rfl
@[simp] theorem Team.awaitS_stack (t : Team) (d due : Nat) (k : PendKind) : (t.awaitS d due k).stack = t.stack := rfl
@[simp] theorem Team.awaitS_spilled (t : Team) (d due : Nat) (k : PendKind) : (t.awaitS d due k).spilled = t.spilled := rfl
@[simp] theorem Team.awaitS_spillEnd (t : Team) (d due : Nat) (k : PendKind) : (t.awaitS d due k).spillEnd = t.spillEnd := rfl
@[simp] theorem Team.awaitS_allot (t : Team) (d due : Nat) (k : PendKind) : (t.awaitS d due k).allot = t.allot := rfl
@[simp] theorem Team.awaitS_phase (t : Team) (d due : Nat) (k : PendKind) : (t.awaitS d due k).phase = t.phase := rfl
@[simp] theorem Team.awaitS_haltReq (t : Team) (d due : Nat) (k : PendKind) : (t.awaitS d due k).haltReq = t.haltReq := rfl
@[simp] theorem Team.awaitS_stepping (t : Team) (d due : Nat) (k : PendKind) : (t.awaitS d due k).stepping = t.stepping := rfl
@[simp] theorem Team.awaitS_age (t : Team) (d due : Nat) (k : PendKind) : (t.awaitS d due k).age = t.age := rfl
@[simp] theorem Team.awaitS_nextIssue (t : Team) (d due : Nat) (k : PendKind) : (t.awaitS d due k).nextIssue = t.nextIssue := rfl
@[simp] theorem Team.awaitS_yielding (t : Team) (d due : Nat) (k : PendKind) : (t.awaitS d due k).yielding = t.yielding := rfl
@[simp] theorem Team.awaitS_passes (t : Team) (d due : Nat) (k : PendKind) : (t.awaitS d due k).passes = t.passes := rfl
@[simp] theorem Team.awaitS_holds (t : Team) (d due : Nat) (k : PendKind) : (t.awaitS d due k).holds = t.holds := rfl
@[simp] theorem Team.awaitS_storeQ (t : Team) (d due : Nat) (k : PendKind) : (t.awaitS d due k).storeQ = t.storeQ := rfl
@[simp] theorem Team.awaitS_flight (t : Team) (d due : Nat) (k : PendKind) : (t.awaitS d due k).flight = t.flight := rfl
@[simp] theorem Team.awaitS_held (t : Team) (d due : Nat) (k : PendKind) : (t.awaitS d due k).held = t.held := rfl

/-! ## A team whose word is done -/

@[simp] theorem Team.retire_group (t : Team) : (t.retire).group = t.group := by unfold Team.retire; split <;> (try split) <;> rfl
@[simp] theorem Team.retire_tid (t : Team) : (t.retire).tid = t.tid := by unfold Team.retire; split <;> (try split) <;> rfl
@[simp] theorem Team.retire_lanes (t : Team) : (t.retire).lanes = t.lanes := by unfold Team.retire; split <;> (try split) <;> rfl
@[simp] theorem Team.retire_nv (t : Team) : (t.retire).nv = t.nv := by unfold Team.retire; split <;> (try split) <;> rfl
@[simp] theorem Team.retire_s (t : Team) : (t.retire).s = t.s := by unfold Team.retire; split <;> (try split) <;> rfl
@[simp] theorem Team.retire_v (t : Team) : (t.retire).v = t.v := by unfold Team.retire; split <;> (try split) <;> rfl
@[simp] theorem Team.retire_m (t : Team) : (t.retire).m = t.m := by unfold Team.retire; split <;> (try split) <;> rfl
@[simp] theorem Team.retire_mode (t : Team) : (t.retire).mode = t.mode := by unfold Team.retire; split <;> (try split) <;> rfl
@[simp] theorem Team.retire_status (t : Team) : (t.retire).status = t.status := by unfold Team.retire; split <;> (try split) <;> rfl
@[simp] theorem Team.retire_trapPc (t : Team) : (t.retire).trapPc = t.trapPc := by unfold Team.retire; split <;> (try split) <;> rfl
@[simp] theorem Team.retire_trapCause (t : Team) : (t.retire).trapCause = t.trapCause := by unfold Team.retire; split <;> (try split) <;> rfl
@[simp] theorem Team.retire_trapInfo (t : Team) : (t.retire).trapInfo = t.trapInfo := by unfold Team.retire; split <;> (try split) <;> rfl
@[simp] theorem Team.retire_trapVec (t : Team) : (t.retire).trapVec = t.trapVec := by unfold Team.retire; split <;> (try split) <;> rfl
@[simp] theorem Team.retire_trapClause (t : Team) : (t.retire).trapClause = t.trapClause := by unfold Team.retire; split <;> (try split) <;> rfl
@[simp] theorem Team.retire_hdr (t : Team) : (t.retire).hdr = t.hdr := by unfold Team.retire; split <;> (try split) <;> rfl
@[simp] theorem Team.retire_prefixPc (t : Team) : (t.retire).prefixPc = t.prefixPc := by unfold Team.retire; split <;> (try split) <;> rfl
@[simp] theorem Team.retire_prefixPos (t : Team) : (t.retire).prefixPos = t.prefixPos := by unfold Team.retire; split <;> (try split) <;> rfl
@[simp] theorem Team.retire_flags (t : Team) : (t.retire).flags = t.flags := by unfold Team.retire; split <;> (try split) <;> rfl
@[simp] theorem Team.retire_stack (t : Team) : (t.retire).stack = t.stack := by unfold Team.retire; split <;> (try split) <;> rfl
@[simp] theorem Team.retire_spilled (t : Team) : (t.retire).spilled = t.spilled := by unfold Team.retire; split <;> (try split) <;> rfl
@[simp] theorem Team.retire_spillEnd (t : Team) : (t.retire).spillEnd = t.spillEnd := by unfold Team.retire; split <;> (try split) <;> rfl
@[simp] theorem Team.retire_allot (t : Team) : (t.retire).allot = t.allot := by unfold Team.retire; split <;> (try split) <;> rfl
@[simp] theorem Team.retire_phase (t : Team) : (t.retire).phase = t.phase := by unfold Team.retire; split <;> (try split) <;> rfl
@[simp] theorem Team.retire_haltReq (t : Team) : (t.retire).haltReq = t.haltReq := by unfold Team.retire; split <;> (try split) <;> rfl
@[simp] theorem Team.retire_stepping (t : Team) : (t.retire).stepping = t.stepping := by unfold Team.retire; split <;> (try split) <;> rfl
@[simp] theorem Team.retire_age (t : Team) : (t.retire).age = t.age := by unfold Team.retire; split <;> (try split) <;> rfl
@[simp] theorem Team.retire_nextIssue (t : Team) : (t.retire).nextIssue = t.nextIssue := by unfold Team.retire; split <;> (try split) <;> rfl
@[simp] theorem Team.retire_yielding (t : Team) : (t.retire).yielding = t.yielding := by unfold Team.retire; split <;> (try split) <;> rfl
@[simp] theorem Team.retire_pend (t : Team) : (t.retire).pend = t.pend := by unfold Team.retire; split <;> (try split) <;> rfl
@[simp] theorem Team.retire_passes (t : Team) : (t.retire).passes = t.passes := by unfold Team.retire; split <;> (try split) <;> rfl
@[simp] theorem Team.retire_holds (t : Team) : (t.retire).holds = t.holds := by unfold Team.retire; split <;> (try split) <;> rfl
@[simp] theorem Team.retire_storeQ (t : Team) : (t.retire).storeQ = t.storeQ := by unfold Team.retire; split <;> (try split) <;> rfl
@[simp] theorem Team.retire_flight (t : Team) : (t.retire).flight = t.flight := by unfold Team.retire; split <;> (try split) <;> rfl
@[simp] theorem Team.retire_held (t : Team) : (t.retire).held = t.held := by unfold Team.retire; split <;> (try split) <;> rfl

/-! ## A flag counted -/

@[simp] theorem Team.countUp_group (t : Team) (f : Nat) : (t.countUp f).group = t.group := rfl
@[simp] theorem Team.countUp_tid (t : Team) (f : Nat) : (t.countUp f).tid = t.tid := rfl
@[simp] theorem Team.countUp_lanes (t : Team) (f : Nat) : (t.countUp f).lanes = t.lanes := rfl
@[simp] theorem Team.countUp_nv (t : Team) (f : Nat) : (t.countUp f).nv = t.nv := rfl
@[simp] theorem Team.countUp_s (t : Team) (f : Nat) : (t.countUp f).s = t.s := rfl
@[simp] theorem Team.countUp_v (t : Team) (f : Nat) : (t.countUp f).v = t.v := rfl
@[simp] theorem Team.countUp_m (t : Team) (f : Nat) : (t.countUp f).m = t.m := rfl
@[simp] theorem Team.countUp_mode (t : Team) (f : Nat) : (t.countUp f).mode = t.mode := rfl
@[simp] theorem Team.countUp_status (t : Team) (f : Nat) : (t.countUp f).status = t.status := rfl
@[simp] theorem Team.countUp_trapPc (t : Team) (f : Nat) : (t.countUp f).trapPc = t.trapPc := rfl
@[simp] theorem Team.countUp_trapCause (t : Team) (f : Nat) : (t.countUp f).trapCause = t.trapCause := rfl
@[simp] theorem Team.countUp_trapInfo (t : Team) (f : Nat) : (t.countUp f).trapInfo = t.trapInfo := rfl
@[simp] theorem Team.countUp_trapVec (t : Team) (f : Nat) : (t.countUp f).trapVec = t.trapVec := rfl
@[simp] theorem Team.countUp_trapClause (t : Team) (f : Nat) : (t.countUp f).trapClause = t.trapClause := rfl
@[simp] theorem Team.countUp_pc (t : Team) (f : Nat) : (t.countUp f).pc = t.pc := rfl
@[simp] theorem Team.countUp_pos (t : Team) (f : Nat) : (t.countUp f).pos = t.pos := rfl
@[simp] theorem Team.countUp_hdr (t : Team) (f : Nat) : (t.countUp f).hdr = t.hdr := rfl
@[simp] theorem Team.countUp_repCnt (t : Team) (f : Nat) : (t.countUp f).repCnt = t.repCnt := rfl
@[simp] theorem Team.countUp_repWord (t : Team) (f : Nat) : (t.countUp f).repWord = t.repWord := rfl
@[simp] theorem Team.countUp_immWord (t : Team) (f : Nat) : (t.countUp f).immWord = t.immWord := rfl
@[simp] theorem Team.countUp_prefixPc (t : Team) (f : Nat) : (t.countUp f).prefixPc = t.prefixPc := rfl
@[simp] theorem Team.countUp_prefixPos (t : Team) (f : Nat) : (t.countUp f).prefixPos = t.prefixPos := rfl
@[simp] theorem Team.countUp_stack (t : Team) (f : Nat) : (t.countUp f).stack = t.stack := rfl
@[simp] theorem Team.countUp_spilled (t : Team) (f : Nat) : (t.countUp f).spilled = t.spilled := rfl
@[simp] theorem Team.countUp_spillEnd (t : Team) (f : Nat) : (t.countUp f).spillEnd = t.spillEnd := rfl
@[simp] theorem Team.countUp_allot (t : Team) (f : Nat) : (t.countUp f).allot = t.allot := rfl
@[simp] theorem Team.countUp_phase (t : Team) (f : Nat) : (t.countUp f).phase = t.phase := rfl
@[simp] theorem Team.countUp_haltReq (t : Team) (f : Nat) : (t.countUp f).haltReq = t.haltReq := rfl
@[simp] theorem Team.countUp_stepping (t : Team) (f : Nat) : (t.countUp f).stepping = t.stepping := rfl
@[simp] theorem Team.countUp_age (t : Team) (f : Nat) : (t.countUp f).age = t.age := rfl
@[simp] theorem Team.countUp_nextIssue (t : Team) (f : Nat) : (t.countUp f).nextIssue = t.nextIssue := rfl
@[simp] theorem Team.countUp_yielding (t : Team) (f : Nat) : (t.countUp f).yielding = t.yielding := rfl
@[simp] theorem Team.countUp_pend (t : Team) (f : Nat) : (t.countUp f).pend = t.pend := rfl
@[simp] theorem Team.countUp_passes (t : Team) (f : Nat) : (t.countUp f).passes = t.passes := rfl
@[simp] theorem Team.countUp_holds (t : Team) (f : Nat) : (t.countUp f).holds = t.holds := rfl
@[simp] theorem Team.countUp_storeQ (t : Team) (f : Nat) : (t.countUp f).storeQ = t.storeQ := rfl
@[simp] theorem Team.countUp_flight (t : Team) (f : Nat) : (t.countUp f).flight = t.flight := rfl
@[simp] theorem Team.countUp_held (t : Team) (f : Nat) : (t.countUp f).held = t.held := rfl

/-! ## Accessors -/

@[simp] theorem Mach.core_setCore_self (m : Mach) (c : Nat) (x : Core) : (m.setCore c x).core c = x := by
  simp [Mach.core, Mach.setCore]

theorem Mach.core_setCore_ne (m : Mach) {c k : Nat} (x : Core) (h : k ≠ c) : (m.setCore c x).core k = m.core k := by
  simp [Mach.core, Mach.setCore, Tab.get_set_ne _ _ _ h]

@[simp] theorem Core.team_setTeam_self (x : Core) (p : Nat) (t : Team) : (x.setTeam p t).team p = t := by
  simp [Core.team, Core.setTeam]

theorem Core.team_setTeam_ne (x : Core) {p k : Nat} (t : Team) (h : k ≠ p) : (x.setTeam p t).team k = x.team k := by
  simp [Core.team, Core.setTeam, Tab.get_set_ne _ _ _ h]

@[simp] theorem Core.group_setTeam (x : Core) (p g : Nat) (t : Team) : (x.setTeam p t).group g = x.group g := rfl

@[simp] theorem Core.team_setGroup (x : Core) (p g : Nat) (v : Group) : (x.setGroup g v).team p = x.team p := rfl

@[simp] theorem Core.group_setGroup_self (x : Core) (g : Nat) (v : Group) : (x.setGroup g v).group g = v := by
  simp [Core.group, Core.setGroup]

theorem Core.group_setGroup_ne (x : Core) {g k : Nat} (v : Group) (h : k ≠ g) : (x.setGroup g v).group k = x.group k := by
  simp [Core.group, Core.setGroup, Tab.get_set_ne _ _ _ h]

@[simp] theorem Mach.team_setTeam (m : Mach) (t : Team) : (m.setTeam t).team = t := by
  simp [Mach.team, Mach.setTeam, Mach.teamAt, Mach.setTeamAt]

@[simp] theorem Mach.myCore_setCore_self (m : Mach) (x : Core) : (m.setCore m.cur.core x).myCore = x := by
  simp [Mach.myCore]

theorem Mach.myCore_setTeam (m : Mach) (t : Team) : (m.setTeam t).myCore = m.myCore.setTeam m.cur.place t := by
  simp [Mach.myCore, Mach.setTeam, Mach.setTeamAt]

/-- The present team put in changes no other team. -/
theorem Mach.teamAt_setTeam_ne (m : Mach) (t : Team) {c p : Nat} (h : c ≠ m.cur.core ∨ p ≠ m.cur.place) :
    (m.setTeam t).teamAt c p = m.teamAt c p := by
  unfold Mach.setTeam Mach.setTeamAt Mach.teamAt
  by_cases hc : c = m.cur.core
  · subst hc
    rw [Mach.core_setCore_self, Core.team_setTeam_ne _ _ (h.resolve_left (fun n => n rfl))]
  · rw [Mach.core_setCore_ne _ _ hc]

@[simp] theorem Mach.setTeam_scratch (m : Mach) (t : Team) (c : Nat) : ((m.setTeam t).core c).scratch = (m.core c).scratch := by
  unfold Mach.setTeam Mach.setTeamAt
  by_cases hc : c = m.cur.core
  · subst hc; simp
  · rw [Mach.core_setCore_ne _ _ hc]

@[simp] theorem Mach.setTeam_tile (m : Mach) (t : Team) (c : Nat) : ((m.setTeam t).core c).tile = (m.core c).tile := by
  unfold Mach.setTeam Mach.setTeamAt
  by_cases hc : c = m.cur.core
  · subst hc; simp
  · rw [Mach.core_setCore_ne _ _ hc]

/-- A scalar register reads as it was last written; s0 reads as zero whatever is written (R415). -/
theorem Team.rs_ws (t : Team) (d r : Nat) (v : Word) : (t.ws d v).rs r = if r = 0 then 0 else if r = d then v else t.rs r := by
  unfold Team.ws Team.rs
  by_cases hr : r = 0
  · simp [hr]
  · by_cases hd : d = 0
    · simp [hr, hd]
    · simp [hr, hd, Tab.get_set]

@[simp] theorem Team.rs_zero (t : Team) : t.rs 0 = 0 := rfl

@[simp] theorem Team.rs_retire (t : Team) (r : Nat) : t.retire.rs r = t.rs r := by simp [Team.rs]

@[simp] theorem Team.rv_retire (t : Team) (r : Nat) : t.retire.rv r = t.rv r := by simp [Team.rv]

@[simp] theorem Team.rm_retire (t : Team) (r : Nat) : t.retire.rm r = t.rm r := by simp [Team.rm]

@[simp] theorem Team.rs_awaitS (t : Team) (d due r : Nat) (k : PendKind) : (t.awaitS d due k).rs r = t.rs r := rfl

@[simp] theorem Team.rv_ws (t : Team) (d r : Nat) (v : Word) : (t.ws d v).rv r = t.rv r := by simp [Team.rv]

@[simp] theorem Team.rm_ws (t : Team) (d r : Nat) (v : Word) : (t.ws d v).rm r = t.rm r := by simp [Team.rm]

end Sys2Proof.Machine
end

