-- ==== Sys2Proof/Laws/Ops.lean ====
section
/-! SUPPORT. What the shared operations can do, once for each: completing a word, the forms of a meaning, and taking a trap. -/

namespace Sys2Proof.Machine

/-! ## Completing a word -/

/-- A word that is done changes its team's place in the program and nothing else. -/
theorem Team.sameButPlace_retire (t : Team) : t.SameButPlace t.retire := by
  unfold Team.SameButPlace Team.retire
  cases t.repWord with
  | none => rfl
  | some w =>
    simp only
    split <;> rfl

theorem Team.ws_eq (t : Team) (r : Nat) (v : Word) : t.ws r v = { t with s := (t.ws r v).s } := by
  unfold Team.ws
  split <;> rfl

/-- A scalar register written and the word done. -/
theorem Team.sameButScalars_done (t : Team) (r : Nat) (v : Word) : t.SameButScalars (t.ws r v).retire := by
  have h := Team.sameButPlace_retire (t.ws r v)
  have e := Team.ws_eq t r v
  unfold Team.SameButPlace at h
  unfold Team.SameButScalars
  rw [h, e]

/-- The same with a result that is awaited. -/
theorem Team.sameButScalars_await (t : Team) (r due : Nat) (v : Word) (k : PendKind) : t.SameButScalars ((t.ws r v).awaitS r due k).retire := by
  have h := Team.sameButPlace_retire ((t.ws r v).awaitS r due k)
  have e := Team.ws_eq t r v
  unfold Team.SameButPlace at h
  unfold Team.SameButScalars
  rw [h, e]
  rfl

/-! ## The present team and core put into the state -/

@[simp] theorem State.team_withTeam (s : State) (u : Team) : (s.withTeam u).team = u := Mach.team_setTeam _ _

theorem State.onlyCores_withTeam (s : State) (u : Team) : OnlyCores s (s.withTeam u) := rfl

theorem State.otherTeams_withTeam (s : State) (u : Team) : OtherTeamsKept s (s.withTeam u) :=
  fun _ _ h => Mach.teamAt_setTeam_ne _ _ h

/-- Another present team changes no byte. -/
theorem State.bytes_withTeam (s : State) (u : Team) : BytesKept s (s.withTeam u) (fun _ _ _ => False) := by
  refine ⟨fun _ => rfl, fun c tile a _ => ?_⟩
  show (((s.m.setTeam u).core c).bytes tile).read a = _
  simp [Core.bytes]

/-! ## The forms of a meaning -/

theorem word_next (f : Mach → Mach) (s : State) : word f s = .next { s with m := f s.m } := rfl

/-- A meaning over the team alone that completes. -/
theorem word_onTeam_ok (f : Team → Except TrapReq Team) (s : State) (u : Team) (h : f s.team = .ok u) :
    word (onTeam f) s = .next (s.withTeam u.retire) := by
  unfold word onTeam
  rw [show f s.m.team = .ok u from h]
  rfl

/-- A meaning over the team alone that traps. -/
theorem word_onTeam_error (f : Team → Except TrapReq Team) (s : State) (r : TrapReq) (h : f s.team = .error r) :
    word (onTeam f) s = .next (s.trapped r.cause r.info) := by
  unfold word onTeam
  rw [show f s.m.team = .error r from h]
  rfl

theorem word_jumpTo_ok (f : Team → Except TrapReq Team) (s : State) (u : Team) (h : f s.team = .ok u) :
    word (jumpTo f) s = .next (s.withTeam u) := by
  unfold word jumpTo
  rw [show f s.m.team = .ok u from h]
  rfl

theorem word_jumpTo_error (f : Team → Except TrapReq Team) (s : State) (r : TrapReq) (h : f s.team = .error r) :
    word (jumpTo f) s = .next (s.trapped r.cause r.info) := by
  unfold word jumpTo
  rw [show f s.m.team = .error r from h]
  rfl

/-- A vector instruction that completes occupies a datapath for its passes, and its team awaits them. -/
theorem word_onVector_ok (f : Team → Except TrapReq VOut) (s : State) (o : VOut) (h : f s.team = .ok o) :
    word (onVector f) s = .next (s.withCore ({ s.core with paths := occupyPath s.m.now (s.m.now + o.passes) s.core.paths }.setTeam
      s.m.cur.place (o.after s.m.now).retire)) := by
  have h' : f s.m.team = .ok o := h
  simp only [word, onVector, onVectorM, h']
  rfl

theorem word_onVector_error (f : Team → Except TrapReq VOut) (s : State) (r : TrapReq) (h : f s.team = .error r) :
    word (onVector f) s = .next (s.trapped r.cause r.info) := by
  have h' : f s.m.team = .error r := h
  simp only [word, onVector, onVectorM, h']
  rfl

/-- What a vector instruction's team is after its issue: the registers as the result has them. -/
theorem VOut.after_team (o : VOut) (now : Nat) :
    o.after now = { o.team with passes := (o.after now).passes, pend := (o.after now).pend, flags := (o.after now).flags } := by
  unfold VOut.after
  cases o.fb <;> rfl

/-- A vector result is one (R76). -/
theorem vectorResult_of (f : Team → Except TrapReq VOut) (s : State) (d : Reg) (wide : Bool) (em : Nat → Bool) (val : Nat → Word) (v : VReg)
    (o : VOut) (h : f s.team = .ok o) (ht : o.team = { s.team with v := s.team.v.set d.toNat v }) (hw : v.w = wide)
    (hv : ∀ l, l < s.team.lanes → v.lane (resultWidth wide) l =
      if em l then cut (resultWidth wide) (val l) else (s.team.rv d.toNat).lane (resultWidth wide) l) :
    ∃ t, word (onVector f) s = .next t ∧ VectorResult s t d wide em val := by
  refine ⟨_, word_onVector_ok f s o h, (o.after s.m.now).retire, _, rfl, ?_, ?_, ?_, ?_⟩
  · have h1 := Team.sameButPlace_retire (o.after s.m.now)
    have h2 := VOut.after_team o s.m.now
    unfold Team.SameButPlace at h1
    unfold Team.SameButVectors
    rw [h1, h2, ht]
  · intro r hr
    have h2 := VOut.after_team o s.m.now
    rw [Team.rv_retire, h2, ht]
    exact Tab.get_set_ne _ _ _ hr
  · have h2 := VOut.after_team o s.m.now
    rw [Team.rv_retire, h2, ht]
    show (Tab.get (VReg.uniform 0) (Tab.set _ _ _) _).w = _
    rw [Tab.get_set_self, hw]
  · intro l hl
    have h2 := VOut.after_team o s.m.now
    rw [Team.rv_retire, h2, ht]
    show (Tab.get (VReg.uniform 0) (Tab.set _ _ _) _).lane _ _ = _
    rw [Tab.get_set_self, hv l hl]

/-! ## Taking a trap (R276) -/

/-- Noting errors adds to what is to be reported, and does nothing else (R322). -/
theorem Core.noteErrors_eq (x seen : Core) (tile : Bool) (ws : List Nat) : x.noteErrors seen tile ws = { x with detected := (x.noteErrors seen tile ws).detected } := by
  unfold Core.noteErrors
  simp only
  split <;> rfl

/-- A write clears the errors of its words and notes what it meets (R142). -/
theorem Core.rewrite_eq (x : Core) (tile : Bool) (ws : List Nat) (part : Nat → Bool) :
    ∃ bs bt de, x.rewrite tile ws part = { x with badScratch := bs, badTile := bt, detected := de } := by
  unfold Core.rewrite
  simp only
  split
  · rw [Core.noteErrors_eq]; exact ⟨_, _, _, rfl⟩
  · rw [Core.noteErrors_eq]; exact ⟨_, _, _, rfl⟩

theorem Core.team_writeSp (x : Core) (g : Group) (off : Nat) (v : Word) (q : Nat) : (x.writeSp g off v).team q = x.team q := by
  unfold Core.writeSp
  obtain ⟨_, _, _, h⟩ := Core.rewrite_eq { x with scratch := x.scratch.writeD (g.spBase + off) v } false (wordsAt (g.spBase + off) 8) (fun _ => true)
  rw [h]
  rfl

/-- The device's write of a task's word changes no team. -/
theorem Core.team_setTcb0 (x : Core) (g : Group) (i now : Nat) (v : Word) (q : Nat) : (x.setTcb0 g i now v).team q = x.team q :=
  Core.team_writeSp _ _ _ _ _

/-- A held task that faults changes no team. -/
theorem Core.team_faultTask (x : Core) (now p cause q : Nat) : (x.faultTask now p cause).team q = x.team q := by
  unfold Core.faultTask
  simp only
  split
  · rfl
  · split
    · exact Core.team_setTcb0 _ _ _ _ _ _
    · rfl

/-- TakeTrap with a handler set and not yet in it: the trap registers are saved and the team goes to its handler. -/
theorem Mach.takeTrap_vectors (m : Mach) (cause : Nat) (info addr : Word) (pos : Nat) (hdr : BitVec 14) (record : Word)
    (ha : causeActive m.team.trapCause = false) (hv : m.team.trapVec ≠ 0) :
    ∃ m', (m' = m ∨ m' = m.setCore m.cur.core (m.myCore.faultTask m.now m.cur.place cause)) ∧
      m.takeTrap cause info addr pos hdr record = m'.setTeam (m.team.saveTrap cause info addr pos hdr).vector := by
  unfold Mach.takeTrap
  simp only
  split
  · refine ⟨m, Or.inl rfl, ?_⟩
    have : ¬ (m.team.saveTrap cause info addr pos hdr).trapVec = 0 := hv
    rw [if_neg (by simp [ha]), if_neg this]
  · refine ⟨_, Or.inr rfl, ?_⟩
    have ht : (m.setCore m.cur.core (m.myCore.faultTask m.now m.cur.place cause)).team = m.team := by
      show ((m.setCore m.cur.core _).core m.cur.core).team m.cur.place = _
      rw [Mach.core_setCore_self, Core.team_faultTask]
      rfl
    rw [ht]
    have : ¬ (m.team.saveTrap cause info addr pos hdr).trapVec = 0 := hv
    rw [if_neg (by simp [ha]), if_neg this]

/-! ## Events -/

theorem happen_some (f : State → Option State) (s t : State) (h : f s = some t) : happen f s = .next t := by
  simp [happen, h]

theorem happen_none (f : State → Option State) (s : State) (h : f s = none) : happen f s = .next s := by
  simp [happen, h]

end Sys2Proof.Machine
end

