-- ==== Sys2Proof/Laws/Order.lean ====
section
/-! SUPPORT. What the order within a cycle does to a step: when the agenda's first move is made, what comes before it, and what coming to a place
in the cycle leaves alone. -/

namespace Sys2Proof.Machine

/-! ## Coming to a place in the cycle -/

@[simp] theorem State.reach_m (s : State) (k : Nat) : (s.reach k).m = s.m := rfl
@[simp] theorem State.reach_mem (s : State) (k : Nat) : (s.reach k).mem = s.mem := rfl
@[simp] theorem State.reach_l2 (s : State) (k : Nat) : (s.reach k).l2 = s.l2 := rfl
@[simp] theorem State.reach_fab (s : State) (k : Nat) : (s.reach k).fab = s.fab := rfl
@[simp] theorem State.reach_sys (s : State) (k : Nat) : (s.reach k).sys = s.sys := rfl
@[simp] theorem State.reach_agenda (s : State) (k : Nat) : (s.reach k).agenda = s.agenda := rfl
@[simp] theorem State.reach_free (s : State) (k : Nat) : (s.reach k).free = s.free := rfl
@[simp] theorem State.reach_turn (s : State) (k : Nat) : (s.reach k).turn = max s.turn k := rfl

/-- A cycle never goes back. -/
theorem State.turn_le_reach (s : State) (k : Nat) : s.turn ≤ (s.reach k).turn := Nat.le_max_left _ _

/-- A place that the cycle has passed changes nothing. -/
theorem State.reach_of_le (s : State) (k : Nat) (h : k ≤ s.turn) : s.reach k = s := by
  unfold State.reach; rw [Nat.max_eq_left h]

/-- The phases of a cycle come one after another, whatever core and place. -/
theorem orderKey_lt (p q c i d j : Nat) (h : p < q) : orderKey p c i < orderKey q d j := by
  unfold orderKey; omega

/-- Within a phase, core by core and place by place. -/
theorem orderKey_lt_place (p c i j : Nat) (h : i < j) (hj : 64 * c + j ≤ 65535) : orderKey p c i < orderKey p c j := by
  unfold orderKey; omega

/-! ## What comes before a move -/

/-- Nothing comes before a move that has no place of its own in a cycle. -/
theorem State.before_of_key_zero (s : State) (mv : Move) (h : s.keyOf mv = 0) : s.before mv = none := by
  unfold State.before; rw [if_pos h]

/-- A move whose place has passed waits: what the cycle still owes goes first, or the cycle ends. -/
theorem State.before_of_late (s : State) (mv : Move) (h : s.keyOf mv < s.turn) (h0 : s.keyOf mv ≠ 0) :
    s.before mv = some ((s.owed tickKey).getD (.next s.tick)) := by
  unfold State.before; rw [if_neg h0, if_pos h]

/-- An event in its time waits for what is owed before its place, and for nothing else. -/
theorem State.before_event (s : State) (e : Instr) (h0 : eventKey e ≠ 0) (h : s.turn ≤ eventKey e) :
    s.before (.event e) = s.owed (eventKey e) := by
  have h0' : s.keyOf (.event e) ≠ 0 := h0
  have h' : ¬ s.keyOf (.event e) < s.turn := Nat.not_lt.mpr h
  unfold State.before; rw [if_neg h0', if_neg h']; rfl

/-! ## A step -/

/-- With something that comes before the agenda's first move, that happens, and the move stays. -/
theorem step_of_before (s : State) (mv : Move) (rest : List Move) (o : Host.Outcome State Fault Refusal)
    (ha : s.agenda = mv :: rest) (hf : s.sys.frozen = false) (hb : s.before mv = some o) : step s = o := by
  simp [step, ha, hf, hb]

/-- With nothing before it, the agenda's first move is made. -/
theorem step_of_agenda (s : State) (mv : Move) (rest : List Move)
    (ha : s.agenda = mv :: rest) (hf : s.sys.frozen = false) (hb : s.before mv = none) : step s = move mv { s with agenda := rest } := by
  simp [step, ha, hf, hb]

/-- An event of the table without a place in the cycle is made as it stands. -/
theorem step_of_event (s : State) (e : Instr) (rest : List Move)
    (ha : s.agenda = .event e :: rest) (hf : s.sys.frozen = false) (hk : eventKey e = 0) (he : isEvent e = true) :
    step s = exec e { s with agenda := rest } := by
  have hk' : s.keyOf (.event e) = 0 := hk
  rw [step_of_agenda s _ rest ha hf (s.before_of_key_zero _ hk')]
  simp [move, hf, he, State.keyOf, hk, State.reach]

/-- With no agenda the device makes a move of its own, unless it is frozen. -/
theorem step_of_no_agenda (s : State) (ha : s.agenda = []) : step s = if s.sys.frozen then .next s else s.autoMove := by
  simp [step, ha]

end Sys2Proof.Machine
end

