-- ==== Sys2Proof/Laws/PerInstr.lean ====
section
/-! SUPPORT. For each instruction: the decoder reads back the word that the encoder gives a well-formed one (R327, R349 to R372). -/

namespace Sys2Proof.Laws.RoundTrip

/-- A well-formed instruction's word decodes to it; an event has no word. -/
def Statement (i : Instr) : Prop := ∀ w, WellFormed i → encode i = some w → decode w = .ok i

theorem nop : Statement .nop := by
  intro w hw h
  obtain rfl := Option.some.inj h
  rw [decode_row_at _ 0 0 _ rfl]
  · simp [major]
  · decide
  · simp [unassigned, major]

theorem bra (i : BitVec 20) : Statement (.bra i) := by
  intro w hw h
  obtain rfl := Option.some.inj h
  rw [decode_row_at _ 0 1 _ rfl]
  · simp
  · simp [major]
  · simp only [and_or_left]
    rw [put_and] <;> decide
  · simp [unassigned, major]

theorem call (i : BitVec 20) : Statement (.call i) := by
  intro w hw h
  obtain rfl := Option.some.inj h
  rw [decode_row_at _ 0 2 _ rfl]
  · simp
  · simp [major]
  · simp only [and_or_left]
    rw [put_and] <;> decide
  · simp [unassigned, major]

theorem jmpi (a : Reg) : Statement (.jmpi a) := by
  intro w hw h
  obtain rfl := Option.some.inj h
  rw [decode_row_at _ 0 3 _ rfl]
  · simp
  · simp [major]
  · simp only [and_or_left]
    rw [put_and] <;> decide
  · simp [unassigned, major]

theorem ret : Statement .ret := by
  intro w hw h
  obtain rfl := Option.some.inj h
  rw [decode_row_at _ 0 4 _ rfl]
  · simp [major]
  · decide
  · simp [unassigned, major]

theorem join : Statement .join := by
  intro w hw h
  obtain rfl := Option.some.inj h
  rw [decode_row_at _ 0 5 _ rfl]
  · simp [major]
  · decide
  · simp [unassigned, major]

theorem exit : Statement .exit := by
  intro w hw h
  obtain rfl := Option.some.inj h
  rw [decode_row_at _ 0 6 _ rfl]
  · simp [major]
  · decide
  · simp [unassigned, major]

theorem yield : Statement .yield := by
  intro w hw h
  obtain rfl := Option.some.inj h
  rw [decode_row_at _ 0 7 _ rfl]
  · simp [major]
  · decide
  · simp [unassigned, major]

theorem halt : Statement .halt := by
  intro w hw h
  obtain rfl := Option.some.inj h
  rw [decode_row_at _ 0 8 _ rfl]
  · simp [major]
  · decide
  · simp [unassigned, major]

theorem eret : Statement .eret := by
  intro w hw h
  obtain rfl := Option.some.inj h
  rw [decode_row_at _ 0 9 _ rfl]
  · simp [major]
  · decide
  · simp [unassigned, major]

theorem trap (a : Reg) (c : BitVec 8) : Statement (.trap a c) := by
  intro w hw h
  obtain rfl := Option.some.inj h
  rw [decode_row_at _ 0 10 _ rfl]
  · simp
  · simp [major]
  · simp only [and_or_left]
    rw [put_and, put_and] <;> decide
  · simp [unassigned, major]

theorem bkpt (c : BitVec 16) : Statement (.bkpt c) := by
  intro w hw h
  obtain rfl := Option.some.inj h
  rw [decode_row_at _ 0 11 _ rfl]
  · simp
  · simp [major]
  · simp only [and_or_left]
    rw [put_and] <;> decide
  · simp [unassigned, major]

theorem sysc (c : BitVec 16) : Statement (.sysc c) := by
  intro w hw h
  obtain rfl := Option.some.inj h
  rw [decode_row_at _ 0 12 _ rfl]
  · simp
  · simp [major]
  · simp only [and_or_left]
    rw [put_and] <;> decide
  · simp [unassigned, major]

theorem brd (k : BitVec 4) (i : BitVec 20) : Statement (.brd k i) := by
  intro w hw h
  obtain rfl := Option.some.inj h
  rw [decode_row_at _ 0 13 _ rfl]
  · simp
  · simp [major]
  · simp only [and_or_left]
    rw [put_and, put_and] <;> decide
  · have hd : fld (put 20 k) 20 6 = k.setWidth 6 := by
      clear h hw
      revert k
      decide
    simp [unassigned, major, hd]
    clear hd h hw
    revert k
    decide

theorem mode (e : Reg) (v : BitVec 19) : Statement (.mode e v) := by
  intro w hw h
  obtain rfl := Option.some.inj h
  rw [decode_row_at _ 1 0 _ rfl]
  · simp
  · simp [major]
  · simp only [and_or_left]
    rw [put_and, put_and] <;> decide
  · simp [unassigned, major]

theorem modeReg (e : Reg) (s : Reg) : Statement (.modeReg e s) := by
  intro w hw h
  obtain rfl := Option.some.inj h
  rw [decode_row_at _ 1 1 _ rfl]
  · simp
  · simp [major]
  · simp only [and_or_left]
    rw [put_and, put_and] <;> decide
  · simp [unassigned, major]

theorem rep (p : Bool) (d : Bool) (a : Bool) (b : Bool) (n : Reg) : Statement (.rep p d a b n) := by
  intro w hw h
  obtain rfl := Option.some.inj h
  rw [decode_row_at _ 2 0 _ rfl]
  · simp
  · simp [major]
  · simp only [and_or_left]
    rw [putB_and, putB_and, putB_and, putB_and, put_and] <;> decide
  · simp [unassigned, major]

theorem imm (v : BitVec 26) : Statement (.imm v) := by
  intro w hw h
  obtain rfl := Option.some.inj h
  rw [decode_row_at _ 3 0 _ rfl]
  · simp
  · simp [major]
  · simp only [and_or_left]
    rw [put_and] <;> decide
  · simp [unassigned, major]

theorem hdr (w : BitVec 12) (a : BitVec 4) (b : BitVec 4) (l : BitVec 4) : Statement (.hdr w a b l) := by
  intro w hw h
  obtain rfl := Option.some.inj h
  rw [decode_row_at _ 63 0 _ rfl]
  · simp
  · simp [major]
  · simp only [and_or_left]
    rw [put_and, put_and, put_and, put_and] <;> decide
  · simp [unassigned, major]

theorem sadd (d : Reg) (a : Reg) (b : Reg) : Statement (.sadd d a b) := by
  intro w hw h
  obtain rfl := Option.some.inj h
  rw [decode_row_at _ 4 0 _ rfl]
  · simp
  · simp [major]
  · simp only [and_or_left]
    rw [put_and, put_and, put_and] <;> decide
  · simp [unassigned, major]

theorem ssub (d : Reg) (a : Reg) (b : Reg) : Statement (.ssub d a b) := by
  intro w hw h
  obtain rfl := Option.some.inj h
  rw [decode_row_at _ 4 1 _ rfl]
  · simp
  · simp [major]
  · simp only [and_or_left]
    rw [put_and, put_and, put_and] <;> decide
  · simp [unassigned, major]

theorem smul (d : Reg) (a : Reg) (b : Reg) : Statement (.smul d a b) := by
  intro w hw h
  obtain rfl := Option.some.inj h
  rw [decode_row_at _ 4 2 _ rfl]
  · simp
  · simp [major]
  · simp only [and_or_left]
    rw [put_and, put_and, put_and] <;> decide
  · simp [unassigned, major]

theorem smulh (d : Reg) (a : Reg) (b : Reg) : Statement (.smulh d a b) := by
  intro w hw h
  obtain rfl := Option.some.inj h
  rw [decode_row_at _ 4 3 _ rfl]
  · simp
  · simp [major]
  · simp only [and_or_left]
    rw [put_and, put_and, put_and] <;> decide
  · simp [unassigned, major]

theorem smulhu (d : Reg) (a : Reg) (b : Reg) : Statement (.smulhu d a b) := by
  intro w hw h
  obtain rfl := Option.some.inj h
  rw [decode_row_at _ 4 4 _ rfl]
  · simp
  · simp [major]
  · simp only [and_or_left]
    rw [put_and, put_and, put_and] <;> decide
  · simp [unassigned, major]

theorem sdiv (d : Reg) (a : Reg) (b : Reg) (u : Bool) : Statement (.sdiv d a b u) := by
  intro w hw h
  obtain rfl := Option.some.inj h
  rw [decode_row_at _ 4 5 _ rfl]
  · simp
  · simp [major]
  · simp only [and_or_left]
    rw [put_and, put_and, put_and, putB_and] <;> decide
  · simp [unassigned, major]
    clear h hw
    revert u
    decide

theorem srem (d : Reg) (a : Reg) (b : Reg) (u : Bool) : Statement (.srem d a b u) := by
  intro w hw h
  obtain rfl := Option.some.inj h
  rw [decode_row_at _ 4 6 _ rfl]
  · simp
  · simp [major]
  · simp only [and_or_left]
    rw [put_and, put_and, put_and, putB_and] <;> decide
  · simp [unassigned, major]
    clear h hw
    revert u
    decide

theorem sand (d : Reg) (a : Reg) (b : Reg) : Statement (.sand d a b) := by
  intro w hw h
  obtain rfl := Option.some.inj h
  rw [decode_row_at _ 4 7 _ rfl]
  · simp
  · simp [major]
  · simp only [and_or_left]
    rw [put_and, put_and, put_and] <;> decide
  · simp [unassigned, major]

theorem sor (d : Reg) (a : Reg) (b : Reg) : Statement (.sor d a b) := by
  intro w hw h
  obtain rfl := Option.some.inj h
  rw [decode_row_at _ 4 8 _ rfl]
  · simp
  · simp [major]
  · simp only [and_or_left]
    rw [put_and, put_and, put_and] <;> decide
  · simp [unassigned, major]

theorem sxor (d : Reg) (a : Reg) (b : Reg) : Statement (.sxor d a b) := by
  intro w hw h
  obtain rfl := Option.some.inj h
  rw [decode_row_at _ 4 9 _ rfl]
  · simp
  · simp [major]
  · simp only [and_or_left]
    rw [put_and, put_and, put_and] <;> decide
  · simp [unassigned, major]

theorem sshl (d : Reg) (a : Reg) (b : Reg) : Statement (.sshl d a b) := by
  intro w hw h
  obtain rfl := Option.some.inj h
  rw [decode_row_at _ 4 10 _ rfl]
  · simp
  · simp [major]
  · simp only [and_or_left]
    rw [put_and, put_and, put_and] <;> decide
  · simp [unassigned, major]

theorem sshr (d : Reg) (a : Reg) (b : Reg) : Statement (.sshr d a b) := by
  intro w hw h
  obtain rfl := Option.some.inj h
  rw [decode_row_at _ 4 11 _ rfl]
  · simp
  · simp [major]
  · simp only [and_or_left]
    rw [put_and, put_and, put_and] <;> decide
  · simp [unassigned, major]

theorem ssra (d : Reg) (a : Reg) (b : Reg) : Statement (.ssra d a b) := by
  intro w hw h
  obtain rfl := Option.some.inj h
  rw [decode_row_at _ 4 12 _ rfl]
  · simp
  · simp [major]
  · simp only [and_or_left]
    rw [put_and, put_and, put_and] <;> decide
  · simp [unassigned, major]

theorem smin (d : Reg) (a : Reg) (b : Reg) (u : Bool) : Statement (.smin d a b u) := by
  intro w hw h
  obtain rfl := Option.some.inj h
  rw [decode_row_at _ 4 13 _ rfl]
  · simp
  · simp [major]
  · simp only [and_or_left]
    rw [put_and, put_and, put_and, putB_and] <;> decide
  · simp [unassigned, major]
    clear h hw
    revert u
    decide

theorem smax (d : Reg) (a : Reg) (b : Reg) (u : Bool) : Statement (.smax d a b u) := by
  intro w hw h
  obtain rfl := Option.some.inj h
  rw [decode_row_at _ 4 14 _ rfl]
  · simp
  · simp [major]
  · simp only [and_or_left]
    rw [put_and, put_and, put_and, putB_and] <;> decide
  · simp [unassigned, major]
    clear h hw
    revert u
    decide

theorem smov (d : Reg) (a : Reg) : Statement (.smov d a) := by
  intro w hw h
  obtain rfl := Option.some.inj h
  rw [decode_row_at _ 4 15 _ rfl]
  · simp
  · simp [major]
  · simp only [and_or_left]
    rw [put_and, put_and] <;> decide
  · simp [unassigned, major]

theorem sbfx (d : Reg) (a : Reg) (b : Reg) (u : Bool) : Statement (.sbfx d a b u) := by
  intro w hw h
  obtain rfl := Option.some.inj h
  rw [decode_row_at _ 4 16 _ rfl]
  · simp
  · simp [major]
  · simp only [and_or_left]
    rw [put_and, put_and, put_and, putB_and] <;> decide
  · simp [unassigned, major]
    clear h hw
    revert u
    decide

theorem sbfi (d : Reg) (a : Reg) (b : Reg) : Statement (.sbfi d a b) := by
  intro w hw h
  obtain rfl := Option.some.inj h
  rw [decode_row_at _ 4 17 _ rfl]
  · simp
  · simp [major]
  · simp only [and_or_left]
    rw [put_and, put_and, put_and] <;> decide
  · simp [unassigned, major]

theorem sclz (d : Reg) (a : Reg) : Statement (.sclz d a) := by
  intro w hw h
  obtain rfl := Option.some.inj h
  rw [decode_row_at _ 4 18 _ rfl]
  · simp
  · simp [major]
  · simp only [and_or_left]
    rw [put_and, put_and] <;> decide
  · simp [unassigned, major]

theorem spop (d : Reg) (a : Reg) : Statement (.spop d a) := by
  intro w hw h
  obtain rfl := Option.some.inj h
  rw [decode_row_at _ 4 19 _ rfl]
  · simp
  · simp [major]
  · simp only [and_or_left]
    rw [put_and, put_and] <;> decide
  · simp [unassigned, major]

theorem saddImm (d : Reg) (i : BitVec 14) : Statement (.saddImm d i) := by
  intro w hw h
  obtain rfl := Option.some.inj h
  rw [decode_row_at _ 5 0 _ rfl]
  · simp
  · simp [major]
  · simp only [and_or_left]
    rw [put_and, put_and] <;> decide
  · simp [unassigned, major]

theorem ssubImm (d : Reg) (i : BitVec 14) : Statement (.ssubImm d i) := by
  intro w hw h
  obtain rfl := Option.some.inj h
  rw [decode_row_at _ 5 1 _ rfl]
  · simp
  · simp [major]
  · simp only [and_or_left]
    rw [put_and, put_and] <;> decide
  · simp [unassigned, major]

theorem smulImm (d : Reg) (i : BitVec 14) : Statement (.smulImm d i) := by
  intro w hw h
  obtain rfl := Option.some.inj h
  rw [decode_row_at _ 5 2 _ rfl]
  · simp
  · simp [major]
  · simp only [and_or_left]
    rw [put_and, put_and] <;> decide
  · simp [unassigned, major]

theorem sandImm (d : Reg) (i : BitVec 14) : Statement (.sandImm d i) := by
  intro w hw h
  obtain rfl := Option.some.inj h
  rw [decode_row_at _ 5 3 _ rfl]
  · simp
  · simp [major]
  · simp only [and_or_left]
    rw [put_and, put_and] <;> decide
  · simp [unassigned, major]

theorem sorImm (d : Reg) (i : BitVec 14) : Statement (.sorImm d i) := by
  intro w hw h
  obtain rfl := Option.some.inj h
  rw [decode_row_at _ 5 4 _ rfl]
  · simp
  · simp [major]
  · simp only [and_or_left]
    rw [put_and, put_and] <;> decide
  · simp [unassigned, major]

theorem sxorImm (d : Reg) (i : BitVec 14) : Statement (.sxorImm d i) := by
  intro w hw h
  obtain rfl := Option.some.inj h
  rw [decode_row_at _ 5 5 _ rfl]
  · simp
  · simp [major]
  · simp only [and_or_left]
    rw [put_and, put_and] <;> decide
  · simp [unassigned, major]

theorem sshlImm (d : Reg) (i : BitVec 14) : Statement (.sshlImm d i) := by
  intro w hw h
  obtain rfl := Option.some.inj h
  rw [decode_row_at _ 5 6 _ rfl]
  · simp
  · simp [major]
  · simp only [and_or_left]
    rw [put_and, put_and] <;> decide
  · simp [unassigned, major]

theorem sshrImm (d : Reg) (i : BitVec 14) : Statement (.sshrImm d i) := by
  intro w hw h
  obtain rfl := Option.some.inj h
  rw [decode_row_at _ 5 7 _ rfl]
  · simp
  · simp [major]
  · simp only [and_or_left]
    rw [put_and, put_and] <;> decide
  · simp [unassigned, major]

theorem ssraImm (d : Reg) (i : BitVec 14) : Statement (.ssraImm d i) := by
  intro w hw h
  obtain rfl := Option.some.inj h
  rw [decode_row_at _ 5 8 _ rfl]
  · simp
  · simp [major]
  · simp only [and_or_left]
    rw [put_and, put_and] <;> decide
  · simp [unassigned, major]

theorem sminImm (d : Reg) (u : Bool) (i : BitVec 14) : Statement (.sminImm d u i) := by
  intro w hw h
  obtain rfl := Option.some.inj h
  rw [decode_row_at _ 5 9 _ rfl]
  · simp
  · simp [major]
  · simp only [and_or_left]
    rw [put_and, putB_and, put_and] <;> decide
  · cases u <;> simp [unassigned, major, putB]

theorem smaxImm (d : Reg) (u : Bool) (i : BitVec 14) : Statement (.smaxImm d u i) := by
  intro w hw h
  obtain rfl := Option.some.inj h
  rw [decode_row_at _ 5 10 _ rfl]
  · simp
  · simp [major]
  · simp only [and_or_left]
    rw [put_and, putB_and, put_and] <;> decide
  · cases u <;> simp [unassigned, major, putB]

theorem smovImm (d : Reg) (i : BitVec 14) : Statement (.smovImm d i) := by
  intro w hw h
  obtain rfl := Option.some.inj h
  rw [decode_row_at _ 5 11 _ rfl]
  · simp
  · simp [major]
  · simp only [and_or_left]
    rw [put_and, put_and] <;> decide
  · simp [unassigned, major]

theorem sli (d : Reg) (i : BitVec 20) : Statement (.sli d i) := by
  intro w hw h
  obtain rfl := Option.some.inj h
  rw [decode_row_at _ 6 0 _ rfl]
  · simp
  · simp [major]
  · simp only [and_or_left]
    rw [put_and, put_and] <;> decide
  · simp [unassigned, major]

theorem scmp (d : Reg) (a : Reg) (b : Reg) (u : Bool) (r : BitVec 3) : Statement (.scmp d a b u r) := by
  intro w hw h
  obtain rfl := Option.some.inj h
  rw [decode_row_at _ 7 0 _ rfl]
  · simp
  · simp [major]
  · simp only [and_or_left]
    rw [put_and, put_and, put_and, putB_and, put_and] <;> decide
  · simp [WellFormed, Instr.wf] at hw
    simp [unassigned, major]
    clear h
    revert u r
    decide

theorem ssel (d : Reg) (a : Reg) (b : Reg) (c : Reg) : Statement (.ssel d a b c) := by
  intro w hw h
  obtain rfl := Option.some.inj h
  rw [decode_row_at _ 7 1 _ rfl]
  · simp
  · simp [major]
  · simp only [and_or_left]
    rw [put_and, put_and, put_and, put_and] <;> decide
  · simp [unassigned, major]
    clear h hw
    revert c
    decide

theorem vadd (d : Reg) (a : Reg) (b : Reg) : Statement (.vadd d a b) := by
  intro w hw h
  obtain rfl := Option.some.inj h
  rw [decode_row_at _ 8 0 _ rfl]
  · simp
  · simp [major]
  · simp only [and_or_left]
    rw [put_and, put_and, put_and] <;> decide
  · simp [unassigned, major]

theorem vsub (d : Reg) (a : Reg) (b : Reg) : Statement (.vsub d a b) := by
  intro w hw h
  obtain rfl := Option.some.inj h
  rw [decode_row_at _ 8 1 _ rfl]
  · simp
  · simp [major]
  · simp only [and_or_left]
    rw [put_and, put_and, put_and] <;> decide
  · simp [unassigned, major]

theorem vmul (d : Reg) (a : Reg) (b : Reg) : Statement (.vmul d a b) := by
  intro w hw h
  obtain rfl := Option.some.inj h
  rw [decode_row_at _ 8 2 _ rfl]
  · simp
  · simp [major]
  · simp only [and_or_left]
    rw [put_and, put_and, put_and] <;> decide
  · simp [unassigned, major]

theorem vmulh (d : Reg) (a : Reg) (b : Reg) : Statement (.vmulh d a b) := by
  intro w hw h
  obtain rfl := Option.some.inj h
  rw [decode_row_at _ 8 3 _ rfl]
  · simp
  · simp [major]
  · simp only [and_or_left]
    rw [put_and, put_and, put_and] <;> decide
  · simp [unassigned, major]

theorem vmin (d : Reg) (a : Reg) (b : Reg) : Statement (.vmin d a b) := by
  intro w hw h
  obtain rfl := Option.some.inj h
  rw [decode_row_at _ 8 4 _ rfl]
  · simp
  · simp [major]
  · simp only [and_or_left]
    rw [put_and, put_and, put_and] <;> decide
  · simp [unassigned, major]

theorem vmax (d : Reg) (a : Reg) (b : Reg) : Statement (.vmax d a b) := by
  intro w hw h
  obtain rfl := Option.some.inj h
  rw [decode_row_at _ 8 5 _ rfl]
  · simp
  · simp [major]
  · simp only [and_or_left]
    rw [put_and, put_and, put_and] <;> decide
  · simp [unassigned, major]

theorem vand (d : Reg) (a : Reg) (b : Reg) : Statement (.vand d a b) := by
  intro w hw h
  obtain rfl := Option.some.inj h
  rw [decode_row_at _ 8 6 _ rfl]
  · simp
  · simp [major]
  · simp only [and_or_left]
    rw [put_and, put_and, put_and] <;> decide
  · simp [unassigned, major]

theorem vor (d : Reg) (a : Reg) (b : Reg) : Statement (.vor d a b) := by
  intro w hw h
  obtain rfl := Option.some.inj h
  rw [decode_row_at _ 8 7 _ rfl]
  · simp
  · simp [major]
  · simp only [and_or_left]
    rw [put_and, put_and, put_and] <;> decide
  · simp [unassigned, major]

theorem vxor (d : Reg) (a : Reg) (b : Reg) : Statement (.vxor d a b) := by
  intro w hw h
  obtain rfl := Option.some.inj h
  rw [decode_row_at _ 8 8 _ rfl]
  · simp
  · simp [major]
  · simp only [and_or_left]
    rw [put_and, put_and, put_and] <;> decide
  · simp [unassigned, major]

theorem vshl (d : Reg) (a : Reg) (b : Reg) : Statement (.vshl d a b) := by
  intro w hw h
  obtain rfl := Option.some.inj h
  rw [decode_row_at _ 8 9 _ rfl]
  · simp
  · simp [major]
  · simp only [and_or_left]
    rw [put_and, put_and, put_and] <;> decide
  · simp [unassigned, major]

theorem vshr (d : Reg) (a : Reg) (b : Reg) : Statement (.vshr d a b) := by
  intro w hw h
  obtain rfl := Option.some.inj h
  rw [decode_row_at _ 8 10 _ rfl]
  · simp
  · simp [major]
  · simp only [and_or_left]
    rw [put_and, put_and, put_and] <;> decide
  · simp [unassigned, major]

theorem vabs (d : Reg) (a : Reg) : Statement (.vabs d a) := by
  intro w hw h
  obtain rfl := Option.some.inj h
  rw [decode_row_at _ 8 11 _ rfl]
  · simp
  · simp [major]
  · simp only [and_or_left]
    rw [put_and, put_and] <;> decide
  · simp [unassigned, major]

theorem vneg (d : Reg) (a : Reg) : Statement (.vneg d a) := by
  intro w hw h
  obtain rfl := Option.some.inj h
  rw [decode_row_at _ 8 12 _ rfl]
  · simp
  · simp [major]
  · simp only [and_or_left]
    rw [put_and, put_and] <;> decide
  · simp [unassigned, major]

theorem vnot (d : Reg) (a : Reg) : Statement (.vnot d a) := by
  intro w hw h
  obtain rfl := Option.some.inj h
  rw [decode_row_at _ 8 13 _ rfl]
  · simp
  · simp [major]
  · simp only [and_or_left]
    rw [put_and, put_and] <;> decide
  · simp [unassigned, major]

theorem vmov (d : Reg) (a : Reg) : Statement (.vmov d a) := by
  intro w hw h
  obtain rfl := Option.some.inj h
  rw [decode_row_at _ 8 14 _ rfl]
  · simp
  · simp [major]
  · simp only [and_or_left]
    rw [put_and, put_and] <;> decide
  · simp [unassigned, major]

theorem vclz (d : Reg) (a : Reg) : Statement (.vclz d a) := by
  intro w hw h
  obtain rfl := Option.some.inj h
  rw [decode_row_at _ 8 15 _ rfl]
  · simp
  · simp [major]
  · simp only [and_or_left]
    rw [put_and, put_and] <;> decide
  · simp [unassigned, major]

theorem vpop (d : Reg) (a : Reg) : Statement (.vpop d a) := by
  intro w hw h
  obtain rfl := Option.some.inj h
  rw [decode_row_at _ 8 16 _ rfl]
  · simp
  · simp [major]
  · simp only [and_or_left]
    rw [put_and, put_and] <;> decide
  · simp [unassigned, major]

theorem viota (d : Reg) : Statement (.viota d) := by
  intro w hw h
  obtain rfl := Option.some.inj h
  rw [decode_row_at _ 8 17 _ rfl]
  · simp
  · simp [major]
  · simp only [and_or_left]
    rw [put_and] <;> decide
  · simp [unassigned, major]

theorem vbcast (d : Reg) (a : Reg) (b : Reg) : Statement (.vbcast d a b) := by
  intro w hw h
  obtain rfl := Option.some.inj h
  rw [decode_row_at _ 8 18 _ rfl]
  · simp
  · simp [major]
  · simp only [and_or_left]
    rw [put_and, put_and, put_and] <;> decide
  · simp [unassigned, major]

theorem vcvt (d : Reg) (a : Reg) (t : BitVec 5) (s : BitVec 5) : Statement (.vcvt d a t s) := by
  intro w hw h
  obtain rfl := Option.some.inj h
  rw [decode_row_at _ 8 19 _ rfl]
  · simp
  · simp [major]
  · simp only [and_or_left]
    rw [put_and, put_and, put_and, put_and] <;> decide
  · simp [unassigned, major]
    clear h hw
    revert s
    decide

theorem vsel (d : Reg) (a : Reg) (b : Reg) (k : BitVec 4) : Statement (.vsel d a b k) := by
  intro w hw h
  obtain rfl := Option.some.inj h
  rw [decode_row_at _ 8 20 _ rfl]
  · simp
  · simp [major]
  · simp only [and_or_left]
    rw [put_and, put_and, put_and, put_and] <;> decide
  · simp [unassigned, major]
    clear h hw
    revert k
    decide

theorem vaddScalar (d : Reg) (a : Reg) (b : Reg) : Statement (.vaddScalar d a b) := by
  intro w hw h
  obtain rfl := Option.some.inj h
  rw [decode_row_at _ 9 0 _ rfl]
  · simp
  · simp [major]
  · simp only [and_or_left]
    rw [put_and, put_and, put_and] <;> decide
  · simp [unassigned, major]

theorem vsubScalar (d : Reg) (a : Reg) (b : Reg) : Statement (.vsubScalar d a b) := by
  intro w hw h
  obtain rfl := Option.some.inj h
  rw [decode_row_at _ 9 1 _ rfl]
  · simp
  · simp [major]
  · simp only [and_or_left]
    rw [put_and, put_and, put_and] <;> decide
  · simp [unassigned, major]

theorem vmulScalar (d : Reg) (a : Reg) (b : Reg) : Statement (.vmulScalar d a b) := by
  intro w hw h
  obtain rfl := Option.some.inj h
  rw [decode_row_at _ 9 2 _ rfl]
  · simp
  · simp [major]
  · simp only [and_or_left]
    rw [put_and, put_and, put_and] <;> decide
  · simp [unassigned, major]

theorem vmulhScalar (d : Reg) (a : Reg) (b : Reg) : Statement (.vmulhScalar d a b) := by
  intro w hw h
  obtain rfl := Option.some.inj h
  rw [decode_row_at _ 9 3 _ rfl]
  · simp
  · simp [major]
  · simp only [and_or_left]
    rw [put_and, put_and, put_and] <;> decide
  · simp [unassigned, major]

theorem vminScalar (d : Reg) (a : Reg) (b : Reg) : Statement (.vminScalar d a b) := by
  intro w hw h
  obtain rfl := Option.some.inj h
  rw [decode_row_at _ 9 4 _ rfl]
  · simp
  · simp [major]
  · simp only [and_or_left]
    rw [put_and, put_and, put_and] <;> decide
  · simp [unassigned, major]

theorem vmaxScalar (d : Reg) (a : Reg) (b : Reg) : Statement (.vmaxScalar d a b) := by
  intro w hw h
  obtain rfl := Option.some.inj h
  rw [decode_row_at _ 9 5 _ rfl]
  · simp
  · simp [major]
  · simp only [and_or_left]
    rw [put_and, put_and, put_and] <;> decide
  · simp [unassigned, major]

theorem vandScalar (d : Reg) (a : Reg) (b : Reg) : Statement (.vandScalar d a b) := by
  intro w hw h
  obtain rfl := Option.some.inj h
  rw [decode_row_at _ 9 6 _ rfl]
  · simp
  · simp [major]
  · simp only [and_or_left]
    rw [put_and, put_and, put_and] <;> decide
  · simp [unassigned, major]

theorem vorScalar (d : Reg) (a : Reg) (b : Reg) : Statement (.vorScalar d a b) := by
  intro w hw h
  obtain rfl := Option.some.inj h
  rw [decode_row_at _ 9 7 _ rfl]
  · simp
  · simp [major]
  · simp only [and_or_left]
    rw [put_and, put_and, put_and] <;> decide
  · simp [unassigned, major]

theorem vxorScalar (d : Reg) (a : Reg) (b : Reg) : Statement (.vxorScalar d a b) := by
  intro w hw h
  obtain rfl := Option.some.inj h
  rw [decode_row_at _ 9 8 _ rfl]
  · simp
  · simp [major]
  · simp only [and_or_left]
    rw [put_and, put_and, put_and] <;> decide
  · simp [unassigned, major]

theorem vshlScalar (d : Reg) (a : Reg) (b : Reg) : Statement (.vshlScalar d a b) := by
  intro w hw h
  obtain rfl := Option.some.inj h
  rw [decode_row_at _ 9 9 _ rfl]
  · simp
  · simp [major]
  · simp only [and_or_left]
    rw [put_and, put_and, put_and] <;> decide
  · simp [unassigned, major]

theorem vshrScalar (d : Reg) (a : Reg) (b : Reg) : Statement (.vshrScalar d a b) := by
  intro w hw h
  obtain rfl := Option.some.inj h
  rw [decode_row_at _ 9 10 _ rfl]
  · simp
  · simp [major]
  · simp only [and_or_left]
    rw [put_and, put_and, put_and] <;> decide
  · simp [unassigned, major]

theorem vmovScalar (d : Reg) (a : Reg) : Statement (.vmovScalar d a) := by
  intro w hw h
  obtain rfl := Option.some.inj h
  rw [decode_row_at _ 9 11 _ rfl]
  · simp
  · simp [major]
  · simp only [and_or_left]
    rw [put_and, put_and] <;> decide
  · simp [unassigned, major]

theorem vselScalar (d : Reg) (a : Reg) (b : Reg) (k : BitVec 4) : Statement (.vselScalar d a b k) := by
  intro w hw h
  obtain rfl := Option.some.inj h
  rw [decode_row_at _ 9 12 _ rfl]
  · simp
  · simp [major]
  · simp only [and_or_left]
    rw [put_and, put_and, put_and, put_and] <;> decide
  · simp [unassigned, major]
    clear h hw
    revert k
    decide

theorem vfma (d : Reg) (a : Reg) (b : Reg) (c : Reg) (p : Bool) (n : Bool) : Statement (.vfma d a b c p n) := by
  intro w hw h
  obtain rfl := Option.some.inj h
  rw [decode_row_at _ 10 0 _ rfl]
  · simp
  · simp [major]
  · simp only [and_or_left]
    rw [put_and, put_and, put_and, put_and, putB_and, putB_and] <;> decide
  · simp [unassigned, major]

theorem vrcp (d : Reg) (a : Reg) (f : Bool) : Statement (.vrcp d a f) := by
  intro w hw h
  obtain rfl := Option.some.inj h
  rw [decode_row_at _ 11 0 _ rfl]
  · simp
  · simp [major]
  · simp only [and_or_left]
    rw [put_and, put_and, putB_and] <;> decide
  · simp [unassigned, major]

theorem vrsq (d : Reg) (a : Reg) (f : Bool) : Statement (.vrsq d a f) := by
  intro w hw h
  obtain rfl := Option.some.inj h
  rw [decode_row_at _ 11 1 _ rfl]
  · simp
  · simp [major]
  · simp only [and_or_left]
    rw [put_and, put_and, putB_and] <;> decide
  · simp [unassigned, major]

theorem vsqrt (d : Reg) (a : Reg) (f : Bool) : Statement (.vsqrt d a f) := by
  intro w hw h
  obtain rfl := Option.some.inj h
  rw [decode_row_at _ 11 2 _ rfl]
  · simp
  · simp [major]
  · simp only [and_or_left]
    rw [put_and, put_and, putB_and] <;> decide
  · simp [unassigned, major]

theorem vdiv (d : Reg) (a : Reg) (b : Reg) (f : Bool) : Statement (.vdiv d a b f) := by
  intro w hw h
  obtain rfl := Option.some.inj h
  rw [decode_row_at _ 11 3 _ rfl]
  · simp
  · simp [major]
  · simp only [and_or_left]
    rw [put_and, put_and, put_and, putB_and] <;> decide
  · simp [unassigned, major]

theorem vexp2 (d : Reg) (a : Reg) (f : Bool) : Statement (.vexp2 d a f) := by
  intro w hw h
  obtain rfl := Option.some.inj h
  rw [decode_row_at _ 11 4 _ rfl]
  · simp
  · simp [major]
  · simp only [and_or_left]
    rw [put_and, put_and, putB_and] <;> decide
  · simp [unassigned, major]

theorem vlog2 (d : Reg) (a : Reg) (f : Bool) : Statement (.vlog2 d a f) := by
  intro w hw h
  obtain rfl := Option.some.inj h
  rw [decode_row_at _ 11 5 _ rfl]
  · simp
  · simp [major]
  · simp only [and_or_left]
    rw [put_and, put_and, putB_and] <;> decide
  · simp [unassigned, major]

theorem vsin (d : Reg) (a : Reg) (f : Bool) : Statement (.vsin d a f) := by
  intro w hw h
  obtain rfl := Option.some.inj h
  rw [decode_row_at _ 11 6 _ rfl]
  · simp
  · simp [major]
  · simp only [and_or_left]
    rw [put_and, put_and, putB_and] <;> decide
  · simp [unassigned, major]

theorem vcos (d : Reg) (a : Reg) (f : Bool) : Statement (.vcos d a f) := by
  intro w hw h
  obtain rfl := Option.some.inj h
  rw [decode_row_at _ 11 7 _ rfl]
  · simp
  · simp [major]
  · simp only [and_or_left]
    rw [put_and, put_and, putB_and] <;> decide
  · simp [unassigned, major]

theorem vcoal (d : Reg) : Statement (.vcoal d) := by
  intro w hw h
  obtain rfl := Option.some.inj h
  rw [decode_row_at _ 12 0 _ rfl]
  · simp
  · simp [major]
  · simp only [and_or_left]
    rw [put_and] <;> decide
  · simp [unassigned, major]

theorem vinfo (d : Reg) (a : Reg) : Statement (.vinfo d a) := by
  intro w hw h
  obtain rfl := Option.some.inj h
  rw [decode_row_at _ 12 1 _ rfl]
  · simp
  · simp [major]
  · simp only [and_or_left]
    rw [put_and, put_and] <;> decide
  · simp [unassigned, major]

theorem vfree (d : Reg) : Statement (.vfree d) := by
  intro w hw h
  obtain rfl := Option.some.inj h
  rw [decode_row_at _ 12 2 _ rfl]
  · simp
  · simp [major]
  · simp only [and_or_left]
    rw [put_and] <;> decide
  · simp [unassigned, major]

theorem vbudget (d : Reg) (a : Reg) : Statement (.vbudget d a) := by
  intro w hw h
  obtain rfl := Option.some.inj h
  rw [decode_row_at _ 12 3 _ rfl]
  · simp
  · simp [major]
  · simp only [and_or_left]
    rw [put_and, put_and] <;> decide
  · simp [unassigned, major]

theorem vrun (d : Reg) (a : Reg) (b : Reg) : Statement (.vrun d a b) := by
  intro w hw h
  obtain rfl := Option.some.inj h
  rw [decode_row_at _ 12 4 _ rfl]
  · simp
  · simp [major]
  · simp only [and_or_left]
    rw [put_and, put_and, put_and] <;> decide
  · simp [unassigned, major]

theorem vext (d : Reg) (a : Reg) (b : Reg) : Statement (.vext d a b) := by
  intro w hw h
  obtain rfl := Option.some.inj h
  rw [decode_row_at _ 12 5 _ rfl]
  · simp
  · simp [major]
  · simp only [and_or_left]
    rw [put_and, put_and, put_and] <;> decide
  · simp [unassigned, major]

theorem vins (d : Reg) (a : Reg) (b : Reg) : Statement (.vins d a b) := by
  intro w hw h
  obtain rfl := Option.some.inj h
  rw [decode_row_at _ 12 6 _ rfl]
  · simp
  · simp [major]
  · simp only [and_or_left]
    rw [put_and, put_and, put_and] <;> decide
  · simp [unassigned, major]

theorem vred (d : Reg) (a : Reg) (o : BitVec 3) : Statement (.vred d a o) := by
  intro w hw h
  obtain rfl := Option.some.inj h
  rw [decode_row_at _ 13 0 _ rfl]
  · simp
  · simp [major]
  · simp only [and_or_left]
    rw [put_and, put_and, put_and] <;> decide
  · simp [WellFormed, Instr.wf] at hw
    simp [unassigned, major]
    clear h
    revert o
    decide

theorem vscan (d : Reg) (a : Reg) (o : BitVec 3) : Statement (.vscan d a o) := by
  intro w hw h
  obtain rfl := Option.some.inj h
  rw [decode_row_at _ 13 1 _ rfl]
  · simp
  · simp [major]
  · simp only [and_or_left]
    rw [put_and, put_and, put_and] <;> decide
  · simp [WellFormed, Instr.wf] at hw
    simp [unassigned, major]
    clear h
    revert o
    decide

theorem vperm (d : Reg) (a : Reg) (b : Reg) : Statement (.vperm d a b) := by
  intro w hw h
  obtain rfl := Option.some.inj h
  rw [decode_row_at _ 13 2 _ rfl]
  · simp
  · simp [major]
  · simp only [and_or_left]
    rw [put_and, put_and, put_and] <;> decide
  · simp [unassigned, major]

theorem vrot (d : Reg) (a : Reg) (b : Reg) : Statement (.vrot d a b) := by
  intro w hw h
  obtain rfl := Option.some.inj h
  rw [decode_row_at _ 13 3 _ rfl]
  · simp
  · simp [major]
  · simp only [and_or_left]
    rw [put_and, put_and, put_and] <;> decide
  · simp [unassigned, major]

theorem vsfc (d : Reg) (a : Reg) (b : Reg) (h : Bool) (e : Bool) : Statement (.vsfc d a b h e) := by
  intro w hw h
  obtain rfl := Option.some.inj h
  rw [decode_row_at _ 13 4 _ rfl]
  · simp
  · simp [major]
  · simp only [and_or_left]
    rw [put_and, put_and, put_and, putB_and, putB_and] <;> decide
  · simp [unassigned, major]
    clear h hw
    revert h e
    decide

theorem mand (d : Reg) (a : Reg) (b : Reg) : Statement (.mand d a b) := by
  intro w hw h
  obtain rfl := Option.some.inj h
  rw [decode_row_at _ 14 0 _ rfl]
  · simp
  · simp [major]
  · simp only [and_or_left]
    rw [put_and, put_and, put_and] <;> decide
  · simp [unassigned, major]

theorem mor (d : Reg) (a : Reg) (b : Reg) : Statement (.mor d a b) := by
  intro w hw h
  obtain rfl := Option.some.inj h
  rw [decode_row_at _ 14 1 _ rfl]
  · simp
  · simp [major]
  · simp only [and_or_left]
    rw [put_and, put_and, put_and] <;> decide
  · simp [unassigned, major]

theorem mxor (d : Reg) (a : Reg) (b : Reg) : Statement (.mxor d a b) := by
  intro w hw h
  obtain rfl := Option.some.inj h
  rw [decode_row_at _ 14 2 _ rfl]
  · simp
  · simp [major]
  · simp only [and_or_left]
    rw [put_and, put_and, put_and] <;> decide
  · simp [unassigned, major]

theorem mandn (d : Reg) (a : Reg) (b : Reg) : Statement (.mandn d a b) := by
  intro w hw h
  obtain rfl := Option.some.inj h
  rw [decode_row_at _ 14 3 _ rfl]
  · simp
  · simp [major]
  · simp only [and_or_left]
    rw [put_and, put_and, put_and] <;> decide
  · simp [unassigned, major]

theorem mnot (d : Reg) (a : Reg) : Statement (.mnot d a) := by
  intro w hw h
  obtain rfl := Option.some.inj h
  rw [decode_row_at _ 14 4 _ rfl]
  · simp
  · simp [major]
  · simp only [and_or_left]
    rw [put_and, put_and] <;> decide
  · simp [unassigned, major]

theorem mmov (d : Reg) (a : Reg) : Statement (.mmov d a) := by
  intro w hw h
  obtain rfl := Option.some.inj h
  rw [decode_row_at _ 14 5 _ rfl]
  · simp
  · simp [major]
  · simp only [and_or_left]
    rw [put_and, put_and] <;> decide
  · simp [unassigned, major]

theorem mcnt (d : Reg) (a : Reg) : Statement (.mcnt d a) := by
  intro w hw h
  obtain rfl := Option.some.inj h
  rw [decode_row_at _ 14 6 _ rfl]
  · simp
  · simp [major]
  · simp only [and_or_left]
    rw [put_and, put_and] <;> decide
  · simp [unassigned, major]

theorem mfirst (d : Reg) (a : Reg) : Statement (.mfirst d a) := by
  intro w hw h
  obtain rfl := Option.some.inj h
  rw [decode_row_at _ 14 7 _ rfl]
  · simp
  · simp [major]
  · simp only [and_or_left]
    rw [put_and, put_and] <;> decide
  · simp [unassigned, major]

theorem mset (d : Reg) (a : Reg) (b : Reg) : Statement (.mset d a b) := by
  intro w hw h
  obtain rfl := Option.some.inj h
  rw [decode_row_at _ 14 8 _ rfl]
  · simp
  · simp [major]
  · simp only [and_or_left]
    rw [put_and, put_and, put_and] <;> decide
  · simp [unassigned, major]

theorem vcmp (d : Reg) (a : Reg) (b : Reg) (s : Bool) (r : BitVec 3) : Statement (.vcmp d a b s r) := by
  intro w hw h
  obtain rfl := Option.some.inj h
  rw [decode_row_at _ 15 0 _ rfl]
  · simp
  · simp [major]
  · simp only [and_or_left]
    rw [put_and, put_and, put_and, putB_and, put_and] <;> decide
  · simp [WellFormed, Instr.wf] at hw
    simp [unassigned, major]
    replace hw := hw.2
    clear h
    revert s r
    decide

theorem lds (d : Reg) (a : Reg) (b : Reg) (z : BitVec 2) (v : Bool) (c : Bool) (f : Bool) : Statement (.lds d a b z v c f) := by
  intro w hw h
  obtain rfl := Option.some.inj h
  rw [decode_row_at _ 16 0 _ rfl]
  · simp
  · simp [major]
  · simp only [and_or_left]
    rw [put_and, put_and, put_and, put_and, putB_and, putB_and, putB_and] <;> decide
  · simp [unassigned, major]
    clear h hw
    revert z v c f
    decide

theorem sts (d : Reg) (a : Reg) (b : Reg) (z : BitVec 2) (v : Bool) (c : Bool) : Statement (.sts d a b z v c) := by
  intro w hw h
  obtain rfl := Option.some.inj h
  rw [decode_row_at _ 16 1 _ rfl]
  · simp
  · simp [major]
  · simp only [and_or_left]
    rw [put_and, put_and, put_and, put_and, putB_and, putB_and] <;> decide
  · simp [unassigned, major]
    clear h hw
    revert z v c
    decide

theorem ldt (d : Reg) (a : Reg) (b : Reg) (z : BitVec 2) (v : Bool) (c : Bool) (f : Bool) : Statement (.ldt d a b z v c f) := by
  intro w hw h
  obtain rfl := Option.some.inj h
  rw [decode_row_at _ 17 0 _ rfl]
  · simp
  · simp [major]
  · simp only [and_or_left]
    rw [put_and, put_and, put_and, put_and, putB_and, putB_and, putB_and] <;> decide
  · simp [unassigned, major]
    clear h hw
    revert z v c f
    decide

theorem stt (d : Reg) (a : Reg) (b : Reg) (z : BitVec 2) (v : Bool) (c : Bool) : Statement (.stt d a b z v c) := by
  intro w hw h
  obtain rfl := Option.some.inj h
  rw [decode_row_at _ 17 1 _ rfl]
  · simp
  · simp [major]
  · simp only [and_or_left]
    rw [put_and, put_and, put_and, put_and, putB_and, putB_and] <;> decide
  · simp [unassigned, major]
    clear h hw
    revert z v c
    decide

theorem ldc (d : Reg) (a : Reg) (b : Reg) (z : BitVec 2) (v : Bool) (c : Bool) (f : Bool) : Statement (.ldc d a b z v c f) := by
  intro w hw h
  obtain rfl := Option.some.inj h
  rw [decode_row_at _ 18 0 _ rfl]
  · simp
  · simp [major]
  · simp only [and_or_left]
    rw [put_and, put_and, put_and, put_and, putB_and, putB_and, putB_and] <;> decide
  · simp [unassigned, major]
    clear h hw
    revert z v c f
    decide

theorem stc (d : Reg) (a : Reg) (b : Reg) (z : BitVec 2) (v : Bool) (c : Bool) : Statement (.stc d a b z v c) := by
  intro w hw h
  obtain rfl := Option.some.inj h
  rw [decode_row_at _ 18 1 _ rfl]
  · simp
  · simp [major]
  · simp only [and_or_left]
    rw [put_and, put_and, put_and, put_and, putB_and, putB_and] <;> decide
  · simp [unassigned, major]
    clear h hw
    revert z v c
    decide

theorem ld (d : Reg) (a : Reg) (b : Reg) (z : BitVec 2) (v : Bool) (c : Bool) (f : Bool) : Statement (.ld d a b z v c f) := by
  intro w hw h
  obtain rfl := Option.some.inj h
  rw [decode_row_at _ 19 0 _ rfl]
  · simp
  · simp [major]
  · simp only [and_or_left]
    rw [put_and, put_and, put_and, put_and, putB_and, putB_and, putB_and] <;> decide
  · simp [unassigned, major]
    clear h hw
    revert z v c f
    decide

theorem st (d : Reg) (a : Reg) (b : Reg) (z : BitVec 2) (v : Bool) (c : Bool) : Statement (.st d a b z v c) := by
  intro w hw h
  obtain rfl := Option.some.inj h
  rw [decode_row_at _ 19 1 _ rfl]
  · simp
  · simp [major]
  · simp only [and_or_left]
    rw [put_and, put_and, put_and, put_and, putB_and, putB_and] <;> decide
  · simp [unassigned, major]
    clear h hw
    revert z v c
    decide

theorem space (d : Reg) (a : Reg) : Statement (.space d a) := by
  intro w hw h
  obtain rfl := Option.some.inj h
  rw [decode_row_at _ 19 2 _ rfl]
  · simp
  · simp [major]
  · simp only [and_or_left]
    rw [put_and, put_and] <;> decide
  · simp [unassigned, major]

theorem cast (d : Reg) (a : Reg) (w : BitVec 4) : Statement (.cast d a w) := by
  intro w hw h
  obtain rfl := Option.some.inj h
  rw [decode_row_at _ 19 3 _ rfl]
  · simp
  · simp [major]
  · simp only [and_or_left]
    rw [put_and, put_and, put_and] <;> decide
  · simp [unassigned, major]
    clear h hw
    revert w
    decide

theorem atom (d : Reg) (a : Reg) (b : Reg) (o : BitVec 4) (w : Bool) (s : Bool) (v : Bool) (f : Bool) : Statement (.atom d a b o w s v f) := by
  intro w hw h
  obtain rfl := Option.some.inj h
  rw [decode_row_at _ 20 0 _ rfl]
  · simp
  · simp [major]
  · simp only [and_or_left]
    rw [put_and, put_and, put_and, put_and, putB_and, putB_and, putB_and, putB_and] <;> decide
  · simp [WellFormed, Instr.wf] at hw
    simp [unassigned, major]
    replace hw := hw.1.1
    clear h
    revert o w s v f
    decide

theorem fence (k : BitVec 2) (s : BitVec 4) : Statement (.fence k s) := by
  intro w hw h
  obtain rfl := Option.some.inj h
  rw [decode_row_at _ 21 0 _ rfl]
  · simp
  · simp [major]
  · simp only [and_or_left]
    rw [put_and, put_and] <;> decide
  · simp [WellFormed, Instr.wf] at hw
    simp [unassigned, major]
    clear h
    revert k s
    decide

theorem cpost (a : Reg) (q : BitVec 2) (f : Bool) : Statement (.cpost a q f) := by
  intro w hw h
  obtain rfl := Option.some.inj h
  rw [decode_row_at _ 22 0 _ rfl]
  · simp
  · simp [major]
  · simp only [and_or_left]
    rw [put_and, put_and, putB_and] <;> decide
  · simp [unassigned, major]
    clear h hw
    revert q f
    decide

theorem cqstat (d : Reg) (q : BitVec 2) : Statement (.cqstat d q) := by
  intro w hw h
  obtain rfl := Option.some.inj h
  rw [decode_row_at _ 22 1 _ rfl]
  · simp
  · simp [major]
  · simp only [and_or_left]
    rw [put_and, put_and] <;> decide
  · simp [unassigned, major]
    clear h hw
    revert q
    decide

theorem ccancel (a : Reg) : Statement (.ccancel a) := by
  intro w hw h
  obtain rfl := Option.some.inj h
  rw [decode_row_at _ 22 2 _ rfl]
  · simp
  · simp [major]
  · simp only [and_or_left]
    rw [put_and] <;> decide
  · simp [unassigned, major]

theorem binit (a : Reg) (b : Reg) : Statement (.binit a b) := by
  intro w hw h
  obtain rfl := Option.some.inj h
  rw [decode_row_at _ 23 0 _ rfl]
  · simp
  · simp [major]
  · simp only [and_or_left]
    rw [put_and, put_and] <;> decide
  · simp [unassigned, major]

theorem barv (a : Reg) (b : Reg) : Statement (.barv a b) := by
  intro w hw h
  obtain rfl := Option.some.inj h
  rw [decode_row_at _ 23 1 _ rfl]
  · simp
  · simp [major]
  · simp only [and_or_left]
    rw [put_and, put_and] <;> decide
  · simp [unassigned, major]

theorem bexp (a : Reg) (b : Reg) : Statement (.bexp a b) := by
  intro w hw h
  obtain rfl := Option.some.inj h
  rw [decode_row_at _ 23 2 _ rfl]
  · simp
  · simp [major]
  · simp only [and_or_left]
    rw [put_and, put_and] <;> decide
  · simp [unassigned, major]

theorem bwait (a : Reg) (b : Reg) : Statement (.bwait a b) := by
  intro w hw h
  obtain rfl := Option.some.inj h
  rw [decode_row_at _ 23 3 _ rfl]
  · simp
  · simp [major]
  · simp only [and_or_left]
    rw [put_and, put_and] <;> decide
  · simp [unassigned, major]

theorem btest (d : Reg) (a : Reg) (b : Reg) : Statement (.btest d a b) := by
  intro w hw h
  obtain rfl := Option.some.inj h
  rw [decode_row_at _ 23 4 _ rfl]
  · simp
  · simp [major]
  · simp only [and_or_left]
    rw [put_and, put_and, put_and] <;> decide
  · simp [unassigned, major]

theorem mma (s : Bool) (c : BitVec 3) (a : Reg) (b : Reg) (f : Reg) (n : Bool) (x : Bool) : Statement (.mma s c a b f n x) := by
  intro w hw h
  obtain rfl := Option.some.inj h
  rw [decode_row_at _ 24 0 _ rfl]
  · simp
  · simp [major]
  · simp only [and_or_left]
    rw [putB_and, put_and, put_and, put_and, put_and, putB_and, putB_and] <;> decide
  · simp [unassigned, major]

theorem mloop (s : Bool) (c : BitVec 3) (a : Reg) (b : Reg) (l : Reg) (n : Bool) (x : Bool) : Statement (.mloop s c a b l n x) := by
  intro w hw h
  obtain rfl := Option.some.inj h
  rw [decode_row_at _ 25 0 _ rfl]
  · simp
  · simp [major]
  · simp only [and_or_left]
    rw [putB_and, put_and, put_and, put_and, put_and, putB_and, putB_and] <;> decide
  · simp [unassigned, major]

theorem mzero (c : BitVec 3) (f : BitVec 2) : Statement (.mzero c f) := by
  intro w hw h
  obtain rfl := Option.some.inj h
  rw [decode_row_at _ 26 0 _ rfl]
  · simp
  · simp [major]
  · simp only [and_or_left]
    rw [put_and, put_and] <;> decide
  · simp [WellFormed, Instr.wf] at hw
    simp [unassigned, major]
    clear h
    revert f
    decide

theorem mlda (c : BitVec 3) (a : Reg) (f : BitVec 2) : Statement (.mlda c a f) := by
  intro w hw h
  obtain rfl := Option.some.inj h
  rw [decode_row_at _ 26 1 _ rfl]
  · simp
  · simp [major]
  · simp only [and_or_left]
    rw [put_and, put_and, put_and] <;> decide
  · simp [WellFormed, Instr.wf] at hw
    simp [unassigned, major]
    clear h
    revert f
    decide

theorem msta (c : BitVec 3) (a : Reg) (b : Reg) : Statement (.msta c a b) := by
  intro w hw h
  obtain rfl := Option.some.inj h
  rw [decode_row_at _ 26 2 _ rfl]
  · simp
  · simp [major]
  · simp only [and_or_left]
    rw [put_and, put_and, put_and] <;> decide
  · simp [unassigned, major]

theorem tsub (a : Reg) : Statement (.tsub a) := by
  intro w hw h
  obtain rfl := Option.some.inj h
  rw [decode_row_at _ 27 0 _ rfl]
  · simp
  · simp [major]
  · simp only [and_or_left]
    rw [put_and] <;> decide
  · simp [unassigned, major]

theorem ttake (d : Reg) (a : Reg) (m : Bool) : Statement (.ttake d a m) := by
  intro w hw h
  obtain rfl := Option.some.inj h
  rw [decode_row_at _ 27 1 _ rfl]
  · simp
  · simp [major]
  · simp only [and_or_left]
    rw [put_and, put_and, putB_and] <;> decide
  · simp [unassigned, major]
    clear h hw
    revert m
    decide

theorem tdone (a : Reg) : Statement (.tdone a) := by
  intro w hw h
  obtain rfl := Option.some.inj h
  rw [decode_row_at _ 27 2 _ rfl]
  · simp
  · simp [major]
  · simp only [and_or_left]
    rw [put_and] <;> decide
  · simp [unassigned, major]

theorem tretry (a : Reg) (m : Bool) : Statement (.tretry a m) := by
  intro w hw h
  obtain rfl := Option.some.inj h
  rw [decode_row_at _ 27 3 _ rfl]
  · simp
  · simp [major]
  · simp only [and_or_left]
    rw [put_and, putB_and] <;> decide
  · simp [unassigned, major]
    clear h hw
    revert m
    decide

theorem tcancel (a : Reg) : Statement (.tcancel a) := by
  intro w hw h
  obtain rfl := Option.some.inj h
  rw [decode_row_at _ 27 4 _ rfl]
  · simp
  · simp [major]
  · simp only [and_or_left]
    rw [put_and] <;> decide
  · simp [unassigned, major]

theorem launch (d : Reg) (a : Reg) (f : Bool) : Statement (.launch d a f) := by
  intro w hw h
  obtain rfl := Option.some.inj h
  rw [decode_row_at _ 28 0 _ rfl]
  · simp
  · simp [major]
  · simp only [and_or_left]
    rw [put_and, put_and, putB_and] <;> decide
  · simp [unassigned, major]
    clear h hw
    revert f
    decide

theorem lwait (d : Reg) (a : Reg) : Statement (.lwait d a) := by
  intro w hw h
  obtain rfl := Option.some.inj h
  rw [decode_row_at _ 28 1 _ rfl]
  · simp
  · simp [major]
  · simp only [and_or_left]
    rw [put_and, put_and] <;> decide
  · simp [unassigned, major]

theorem cxa (d : Reg) (a : Reg) (b : Reg) (r : BitVec 3) (f : Bool) : Statement (.cxa d a b r f) := by
  intro w hw h
  obtain rfl := Option.some.inj h
  rw [decode_row_at _ 29 0 _ rfl]
  · simp
  · simp [major]
  · simp only [and_or_left]
    rw [put_and, put_and, put_and, put_and, putB_and] <;> decide
  · simp [WellFormed, Instr.wf] at hw
    simp [unassigned, major]
    clear h
    revert r f
    decide

theorem cxg (d : Reg) (a : Reg) (b : Reg) (f : Bool) : Statement (.cxg d a b f) := by
  intro w hw h
  obtain rfl := Option.some.inj h
  rw [decode_row_at _ 29 1 _ rfl]
  · simp
  · simp [major]
  · simp only [and_or_left]
    rw [put_and, put_and, put_and, putB_and] <;> decide
  · simp [unassigned, major]
    clear h hw
    revert f
    decide

theorem cxs (d : Reg) (a : Reg) (b : Reg) (r : BitVec 3) (f : Bool) : Statement (.cxs d a b r f) := by
  intro w hw h
  obtain rfl := Option.some.inj h
  rw [decode_row_at _ 29 2 _ rfl]
  · simp
  · simp [major]
  · simp only [and_or_left]
    rw [put_and, put_and, put_and, put_and, putB_and] <;> decide
  · simp [WellFormed, Instr.wf] at hw
    simp [unassigned, major]
    clear h
    revert r f
    decide

theorem cxb (d : Reg) (a : Reg) (b : Reg) (f : Bool) : Statement (.cxb d a b f) := by
  intro w hw h
  obtain rfl := Option.some.inj h
  rw [decode_row_at _ 29 3 _ rfl]
  · simp
  · simp [major]
  · simp only [and_or_left]
    rw [put_and, put_and, put_and, putB_and] <;> decide
  · simp [unassigned, major]
    clear h hw
    revert f
    decide

theorem cxt (d : Reg) (a : Reg) (b : Reg) (f : Bool) : Statement (.cxt d a b f) := by
  intro w hw h
  obtain rfl := Option.some.inj h
  rw [decode_row_at _ 29 4 _ rfl]
  · simp
  · simp [major]
  · simp only [and_or_left]
    rw [put_and, put_and, put_and, putB_and] <;> decide
  · simp [unassigned, major]
    clear h hw
    revert f
    decide

theorem cxp (a : Reg) (f : Bool) : Statement (.cxp a f) := by
  intro w hw h
  obtain rfl := Option.some.inj h
  rw [decode_row_at _ 29 5 _ rfl]
  · simp
  · simp [major]
  · simp only [and_or_left]
    rw [put_and, putB_and] <;> decide
  · simp [unassigned, major]
    clear h hw
    revert f
    decide

theorem xrd (d : Reg) (s : Reg) : Statement (.xrd d s) := by
  intro w hw h
  obtain rfl := Option.some.inj h
  rw [decode_row_at _ 30 0 _ rfl]
  · simp
  · simp [major]
  · simp only [and_or_left]
    rw [put_and, put_and] <;> decide
  · simp [WellFormed, Instr.wf] at hw
    simp [unassigned, major]
    clear h
    revert s
    decide

theorem xwr (a : Reg) (s : Reg) : Statement (.xwr a s) := by
  intro w hw h
  obtain rfl := Option.some.inj h
  rw [decode_row_at _ 30 1 _ rfl]
  · simp
  · simp [major]
  · simp only [and_or_left]
    rw [put_and, put_and] <;> decide
  · simp [WellFormed, Instr.wf] at hw
    simp [unassigned, major]
    clear h
    revert s
    decide

theorem time (d : Reg) : Statement (.time d) := by
  intro w hw h
  obtain rfl := Option.some.inj h
  rw [decode_row_at _ 30 2 _ rfl]
  · simp
  · simp [major]
  · simp only [and_or_left]
    rw [put_and] <;> decide
  · simp [unassigned, major]

theorem vectorFinalPass (c : Nat) (p : Nat) : Statement (.vectorFinalPass c p) := by
  intro w _ h
  cases h

theorem loadDataReady (c : Nat) (p : Nat) : Statement (.loadDataReady c p) := by
  intro w _ h
  cases h

theorem storePerform (c : Nat) (p : Nat) : Statement (.storePerform c p) := by
  intro w _ h
  cases h

theorem clusterStoreAck (c : Nat) (p : Nat) : Statement (.clusterStoreAck c p) := by
  intro w _ h
  cases h

theorem yieldExpiry (c : Nat) (p : Nat) : Statement (.yieldExpiry c p) := by
  intro w _ h
  cases h

theorem specialFunctionReady (c : Nat) (p : Nat) : Statement (.specialFunctionReady c p) := by
  intro w _ h
  cases h

theorem dividerFree (c : Nat) : Statement (.dividerFree c) := by
  intro w _ h
  cases h

theorem errorDetected (e : ErrorSite) : Statement (.errorDetected e) := by
  intro w _ h
  cases h

theorem doorbell (q : Nat) (tail : Nat) (port : Nat) : Statement (.doorbell q tail port) := by
  intro w _ h
  cases h

theorem queuePriorityWrite (q : Nat) (prio : Nat) (port : Nat) : Statement (.queuePriorityWrite q prio port) := by
  intro w _ h
  cases h

theorem queueOwnportMove (q : Nat) (newPort : Nat) (port : Nat) : Statement (.queueOwnportMove q newPort port) := by
  intro w _ h
  cases h

theorem launchRecordRead (q : Nat) : Statement (.launchRecordRead q) := by
  intro w _ h
  cases h

theorem batchHandout (n : Nat) : Statement (.batchHandout n) := by
  intro w _ h
  cases h

theorem groupPlacement (die : Nat) : Statement (.groupPlacement die) := by
  intro w _ h
  cases h

theorem partitionFillEnd (c : Nat) (g : Nat) : Statement (.partitionFillEnd c g) := by
  intro w _ h
  cases h

theorem groupComplete (c : Nat) (g : Nat) : Statement (.groupComplete c g) := by
  intro w _ h
  cases h

theorem launchAccept (c : Nat) (g : Nat) : Statement (.launchAccept c g) := by
  intro w _ h
  cases h

theorem notificationPost (q : Nat) : Statement (.notificationPost q) := by
  intro w _ h
  cases h

theorem faultRecordPost : Statement .faultRecordPost := by
  intro w _ h
  cases h

theorem priorityPreemption : Statement .priorityPreemption := by
  intro w _ h
  cases h

theorem quantumExpiry (c : Nat) (g : Nat) : Statement (.quantumExpiry c g) := by
  intro w _ h
  cases h

theorem parkedEviction (grid : Nat) : Statement (.parkedEviction grid) := by
  intro w _ h
  cases h

theorem gridStall (grid : Nat) : Statement (.gridStall grid) := by
  intro w _ h
  cases h

theorem hostPreemptRequest (grid : Nat) (port : Nat) : Statement (.hostPreemptRequest grid port) := by
  intro w _ h
  cases h

theorem groupRestore (grid : Nat) (idx : Nat) : Statement (.groupRestore grid idx) := by
  intro w _ h
  cases h

theorem commandAccept (c : Nat) (q : Nat) (slot : Nat) : Statement (.commandAccept c q slot) := by
  intro w _ h
  cases h

theorem commandStart (c : Nat) (q : Nat) : Statement (.commandStart c q) := by
  intro w _ h
  cases h

theorem copyCmd (c : Nat) (q : Nat) (slot : Nat) (n : Nat) : Statement (.copyCmd c q slot n) := by
  intro w _ h
  cases h

theorem gatherCmd (c : Nat) (q : Nat) (slot : Nat) (n : Nat) : Statement (.gatherCmd c q slot n) := by
  intro w _ h
  cases h

theorem scatterCmd (c : Nat) (q : Nat) (slot : Nat) (n : Nat) : Statement (.scatterCmd c q slot n) := by
  intro w _ h
  cases h

theorem fillCmd (c : Nat) (q : Nat) (slot : Nat) (n : Nat) : Statement (.fillCmd c q slot n) := by
  intro w _ h
  cases h

theorem watchCmd (c : Nat) (q : Nat) (slot : Nat) : Statement (.watchCmd c q slot) := by
  intro w _ h
  cases h

theorem watchComplete (c : Nat) (q : Nat) (slot : Nat) : Statement (.watchComplete c q slot) := by
  intro w _ h
  cases h

theorem signalCmd (c : Nat) (q : Nat) (slot : Nat) : Statement (.signalCmd c q slot) := by
  intro w _ h
  cases h

theorem copyFence (c : Nat) (q : Nat) (slot : Nat) : Statement (.copyFence c q slot) := by
  intro w _ h
  cases h

theorem flushCmd (c : Nat) (q : Nat) (slot : Nat) : Statement (.flushCmd c q slot) := by
  intro w _ h
  cases h

theorem hintPrefetchL2 (c : Nat) (q : Nat) (slot : Nat) : Statement (.hintPrefetchL2 c q slot) := by
  intro w _ h
  cases h

theorem hintPrefetchHome (c : Nat) (q : Nat) (slot : Nat) : Statement (.hintPrefetchHome c q slot) := by
  intro w _ h
  cases h

theorem hintKeepResident (c : Nat) (q : Nat) (slot : Nat) : Statement (.hintKeepResident c q slot) := by
  intro w _ h
  cases h

theorem hintReleaseResidency (c : Nat) (q : Nat) (slot : Nat) : Statement (.hintReleaseResidency c q slot) := by
  intro w _ h
  cases h

theorem commandComplete (c : Nat) (q : Nat) (slot : Nat) : Statement (.commandComplete c q slot) := by
  intro w _ h
  cases h

theorem cancellationComplete (c : Nat) (q : Nat) (slot : Nat) : Statement (.cancellationComplete c q slot) := by
  intro w _ h
  cases h

theorem generationBump (die : Nat) (cls : Nat) : Statement (.generationBump die cls) := by
  intro w _ h
  cases h

theorem homeAcknowledge (die : Nat) (i : Nat) : Statement (.homeAcknowledge die i) := by
  intro w _ h
  cases h

theorem fillReturn (die : Nat) (i : Nat) : Statement (.fillReturn die i) := by
  intro w _ h
  cases h

theorem writeBack (die : Nat) (i : Nat) : Statement (.writeBack die i) := by
  intro w _ h
  cases h

theorem writeThrough (die : Nat) (i : Nat) : Statement (.writeThrough die i) := by
  intro w _ h
  cases h

theorem homeAtomic (die : Nat) (i : Nat) : Statement (.homeAtomic die i) := by
  intro w _ h
  cases h

theorem rdupInvalidate (die : Nat) (i : Nat) : Statement (.rdupInvalidate die i) := by
  intro w _ h
  cases h

theorem sweeperVisit (die : Nat) (slice : Nat) : Statement (.sweeperVisit die slice) := by
  intro w _ h
  cases h

theorem scrubRead (home : Nat) (ecc : SectorError) : Statement (.scrubRead home ecc) := by
  intro w _ h
  cases h

theorem pageWalk (die : Nat) (aspace : Nat) (va : Nat) : Statement (.pageWalk die aspace va) := by
  intro w _ h
  cases h

theorem replay (die : Nat) (value : Word) (port : Nat) : Statement (.replay die value port) := by
  intro w _ h
  cases h

theorem tlbinv (die : Nat) (w1 : Word) (port : Nat) : Statement (.tlbinv die w1 port) := by
  intro w _ h
  cases h

theorem tlbinvComplete (die : Nat) : Statement (.tlbinvComplete die) := by
  intro w _ h
  cases h

theorem handoverTodevice (w1 : Word) (port : Nat) : Statement (.handoverTodevice w1 port) := by
  intro w _ h
  cases h

theorem handoverTohost (w1 : Word) (port : Nat) : Statement (.handoverTohost w1 port) := by
  intro w _ h
  cases h

theorem handoverComplete : Statement .handoverComplete := by
  intro w _ h
  cases h

theorem fqsvcResume (w1 : Word) (port : Nat) : Statement (.fqsvcResume w1 port) := by
  intro w _ h
  cases h

theorem fqsvcCancel (w1 : Word) (port : Nat) : Statement (.fqsvcCancel w1 port) := by
  intro w _ h
  cases h

theorem debugHalt (c : Nat) (p : Nat) (port : Nat) : Statement (.debugHalt c p port) := by
  intro w _ h
  cases h

theorem debugResume (c : Nat) (p : Nat) (port : Nat) : Statement (.debugResume c p port) := by
  intro w _ h
  cases h

theorem debugStep (c : Nat) (p : Nat) (port : Nat) : Statement (.debugStep c p port) := by
  intro w _ h
  cases h

theorem snap (c : Nat) (g : Nat) (port : Nat) : Statement (.snap c g port) := by
  intro w _ h
  cases h

theorem snapReload (c : Nat) (g : Nat) : Statement (.snapReload c g) := by
  intro w _ h
  cases h

theorem hostRead (pa : Nat) (n : Nat) (port : Nat) : Statement (.hostRead pa n port) := by
  intro w _ h
  cases h

theorem hostWrite (pa : Nat) (bytes : List Byte) (port : Nat) : Statement (.hostWrite pa bytes port) := by
  intro w _ h
  cases h

theorem hostFetchadd (pa : Nat) (n : Nat) (v : Word) (port : Nat) : Statement (.hostFetchadd pa n v port) := by
  intro w _ h
  cases h

theorem hostSwap (pa : Nat) (n : Nat) (v : Word) (port : Nat) : Statement (.hostSwap pa n v port) := by
  intro w _ h
  cases h

theorem hostCas (pa : Nat) (n : Nat) (cmp : Word) (v : Word) (port : Nat) : Statement (.hostCas pa n cmp v port) := by
  intro w _ h
  cases h

theorem registerWrite (off : Nat) (size : Nat) (v : Word) (port : Nat) : Statement (.registerWrite off size v port) := by
  intro w _ h
  cases h

theorem mcwinDefine (w : Nat) (v : Word) (port : Nat) : Statement (.mcwinDefine w v port) := by
  intro w _ h
  cases h

theorem collectiveAbort (w : Nat) (port : Nat) : Statement (.collectiveAbort w port) := by
  intro w _ h
  cases h

theorem collectiveAccept (c : Nat) (i : Nat) : Statement (.collectiveAccept c i) := by
  intro w _ h
  cases h

theorem collectiveComplete (c : Nat) (i : Nat) (input : CollectiveInput) : Statement (.collectiveComplete c i input) := by
  intro w _ h
  cases h

theorem flitReceive (port : Nat) (flit : List Byte) : Statement (.flitReceive port flit) := by
  intro w _ h
  cases h

theorem flitNak (port : Nat) (seq : Nat) : Statement (.flitNak port seq) := by
  intro w _ h
  cases h

theorem remoteRequest (r : RemoteAccess) : Statement (.remoteRequest r) := by
  intro w _ h
  cases h

theorem remoteCommit (r : RemoteCommit) : Statement (.remoteCommit r) := by
  intro w _ h
  cases h

theorem remoteTimeoutExpiry (i : Nat) : Statement (.remoteTimeoutExpiry i) := by
  intro w _ h
  cases h

theorem busyRetry (i : Nat) : Statement (.busyRetry i) := by
  intro w _ h
  cases h

theorem stagingExpiry (i : Nat) : Statement (.stagingExpiry i) := by
  intro w _ h
  cases h

theorem matrixOpStart (c : Nat) : Statement (.matrixOpStart c) := by
  intro w _ h
  cases h

theorem matrixOpComplete (c : Nat) : Statement (.matrixOpComplete c) := by
  intro w _ h
  cases h

theorem rampAdjust : Statement .rampAdjust := by
  intro w _ h
  cases h

theorem powerStateEntry : Statement .powerStateEntry := by
  intro w _ h
  cases h

theorem resetDevice (boot : BootOutcome) : Statement (.resetDevice boot) := by
  intro w _ h
  cases h

theorem freeze : Statement .freeze := by
  intro w _ h
  cases h

theorem signedUnlock (key : SigningKey) : Statement (.signedUnlock key) := by
  intro w _ h
  cases h

theorem provisioningCommand (key : SigningKey) : Statement (.provisioningCommand key) := by
  intro w _ h
  cases h

theorem attestationReport (nonce : BitVec 256) : Statement (.attestationReport nonce) := by
  intro w _ h
  cases h

theorem selfTestEnd (i : Nat) (lasting : Bool) : Statement (.selfTestEnd i lasting) := by
  intro w _ h
  cases h

theorem firmwareUpdate : Statement .firmwareUpdate := by
  intro w _ h
  cases h

theorem powerMeasure (milliwatts : Nat) : Statement (.powerMeasure milliwatts) := by
  intro w _ h
  cases h

theorem powerRequest (v : Word) (port : Nat) : Statement (.powerRequest v port) := by
  intro w _ h
  cases h

end Sys2Proof.Laws.RoundTrip
end

