-- ==== Sys2Proof/Laws/Runs.lean ====
section
/-! SUPPORT. Runs: the lanes of masks and registers, and what an element-wise result holds in each lane (R67, R76, R77, R83). -/

namespace Sys2Proof.Machine

/-! ## Rising lists of ends -/

/-- The numbers of a list rise strictly from above `lo`, and the last one is `hi`. -/
def Rises (lo hi : Nat) : List Nat → Prop
  | [] => lo = hi
  | e :: es => lo < e ∧ Rises e hi es

theorem Rises.le : ∀ {l : List Nat} {lo hi : Nat}, Rises lo hi l → lo ≤ hi
  | [], _, _, h => Nat.le_of_eq h
  | _ :: _, _, _, h => Nat.le_trans (Nat.le_of_lt h.1) (Rises.le h.2)

theorem Rises.mem_gt : ∀ {l : List Nat} {lo hi : Nat}, Rises lo hi l → ∀ e ∈ l, lo < e
  | [], _, _, _, _, h => by simp at h
  | x :: xs, lo, hi, h, e, he => by
    rcases List.mem_cons.mp he with rfl | he
    · exact h.1
    · exact Nat.lt_trans h.1 (Rises.mem_gt h.2 e he)

theorem Rises.mem_le : ∀ {l : List Nat} {lo hi : Nat}, Rises lo hi l → ∀ e ∈ l, e ≤ hi
  | [], _, _, _, _, h => by simp at h
  | x :: xs, lo, hi, h, e, he => by
    rcases List.mem_cons.mp he with rfl | he
    · exact Rises.le h.2
    · exact Rises.mem_le h.2 e he

theorem Rises.length_le : ∀ {l : List Nat} {lo hi : Nat}, Rises lo hi l → l.length ≤ hi - lo
  | [], _, _, _ => by simp
  | x :: xs, lo, hi, h => by
    have := Rises.length_le h.2
    have := Rises.le h.2
    have := h.1
    simp only [List.length_cons]
    omega

/-- Rising, with no claim about where it ends. -/
def Rise : Nat → List Nat → Prop
  | _, [] => True
  | lo, e :: es => lo < e ∧ Rise e es

theorem Rises.rise : ∀ {l : List Nat} {lo hi : Nat}, Rises lo hi l → Rise lo l
  | [], _, _, _ => trivial
  | _ :: _, _, _, h => ⟨h.1, Rises.rise h.2⟩

theorem Rise.mono : ∀ {l : List Nat} {lo lo' : Nat}, lo' ≤ lo → Rise lo l → Rise lo' l
  | [], _, _, _, _ => trivial
  | _ :: _, _, _, h, hr => ⟨Nat.lt_of_le_of_lt h hr.1, hr.2⟩

theorem Rise.mem_gt : ∀ {l : List Nat} {lo : Nat}, Rise lo l → ∀ e ∈ l, lo < e
  | [], _, _, _, h => by simp at h
  | x :: xs, lo, h, e, he => by
    rcases List.mem_cons.mp he with rfl | he
    · exact h.1
    · exact Nat.lt_trans h.1 (Rise.mem_gt h.2 e he)

theorem Rise.filter (p : Nat → Bool) : ∀ {l : List Nat} {lo : Nat}, Rise lo l → Rise lo (l.filter p)
  | [], _, _ => trivial
  | x :: xs, lo, h => by
    have ih := Rise.filter p h.2
    by_cases hp : p x = true
    · simp only [List.filter_cons, hp, if_true]
      exact ⟨h.1, ih⟩
    · simp only [List.filter_cons, hp]
      exact Rise.mono (Nat.le_of_lt h.1) ih

/-- A rising list whose every member is at most `hi`, and which holds `hi`, rises to it. -/
theorem Rise.rises : ∀ {l : List Nat} {lo hi : Nat}, Rise lo l → hi ∈ l → (∀ e ∈ l, e ≤ hi) → Rises lo hi l
  | [], _, _, _, h, _ => by simp at h
  | x :: xs, lo, hi, h, hm, hle => by
    refine ⟨h.1, ?_⟩
    by_cases hx : x = hi
    · subst hx
      cases xs with
      | nil => rfl
      | cons y ys =>
        have := hle y (by simp)
        have := h.2.1
        omega
    · exact Rise.rises h.2 (by simpa [Ne.symm hx] using hm) (fun e he => hle e (by simp [he]))

/-! ## The union of two rising lists -/

theorem mergeEnds_mem : ∀ (n : Nat) (xs ys : List Nat), xs.length + ys.length ≤ n → ∀ e, e ∈ mergeEnds n xs ys ↔ e ∈ xs ∨ e ∈ ys
  | 0, [], [], _, e => by simp [mergeEnds]
  | 0, x :: xs, ys, h, e => by simp at h
  | 0, [], y :: ys, h, e => by simp at h
  | n + 1, [], ys, _, e => by simp [mergeEnds]
  | n + 1, x :: xs, [], _, e => by simp [mergeEnds]
  | n + 1, x :: xs, y :: ys, h, e => by
    simp only [List.length_cons] at h
    unfold mergeEnds
    split
    · rw [List.mem_cons, mergeEnds_mem n xs (y :: ys) (by simp; omega)]
      simp [or_assoc]
    · split
      · rw [List.mem_cons, mergeEnds_mem n (x :: xs) ys (by simp; omega)]
        simp only [List.mem_cons]
        constructor
        · rintro (h | h | h) <;> simp [h]
        · rintro ((h | h) | h | h) <;> simp [h]
      · have hxy : x = y := by omega
        subst hxy
        rw [List.mem_cons, mergeEnds_mem n xs ys (by omega)]
        simp only [List.mem_cons]
        constructor
        · rintro (h | h | h) <;> simp [h]
        · rintro ((h | h) | h | h) <;> simp [h]

theorem mergeEnds_rise : ∀ (n : Nat) (xs ys : List Nat) (lo : Nat), Rise lo xs → Rise lo ys → Rise lo (mergeEnds n xs ys)
  | 0, [], ys, _, _, hy => by simpa [mergeEnds] using hy
  | 0, x :: xs, [], _, hx, _ => by simpa [mergeEnds] using hx
  | 0, x :: xs, y :: ys, _, hx, _ => by simpa [mergeEnds] using hx
  | n + 1, [], ys, _, _, hy => by simpa [mergeEnds] using hy
  | n + 1, x :: xs, [], _, hx, _ => by simpa [mergeEnds] using hx
  | n + 1, x :: xs, y :: ys, lo, hx, hy => by
    unfold mergeEnds
    split
    · rename_i h
      exact ⟨hx.1, mergeEnds_rise n xs (y :: ys) x hx.2 ⟨h, hy.2⟩⟩
    · split
      · rename_i h
        exact ⟨hy.1, mergeEnds_rise n (x :: xs) ys y ⟨h, hx.2⟩ hy.2⟩
      · have hxy : x = y := by omega
        subst hxy
        exact ⟨hx.1, mergeEnds_rise n xs ys x hx.2 hy.2⟩

theorem unionEnds_mem (a b : List Nat) (e : Nat) : e ∈ unionEnds a b ↔ e ∈ a ∨ e ∈ b := mergeEnds_mem _ a b (Nat.le_refl _) e

theorem unionEnds_rise {a b : List Nat} {lo : Nat} (ha : Rise lo a) (hb : Rise lo b) : Rise lo (unionEnds a b) :=
  mergeEnds_rise _ a b lo ha hb

theorem foldl_unionEnds_mem : ∀ (ls : List (List Nat)) (b : List Nat) (e : Nat),
    e ∈ ls.foldl unionEnds b ↔ e ∈ b ∨ ∃ l ∈ ls, e ∈ l
  | [], b, e => by simp
  | l :: ls, b, e => by
    rw [List.foldl_cons, foldl_unionEnds_mem ls, unionEnds_mem]
    simp [or_assoc]

theorem foldl_unionEnds_rise : ∀ (ls : List (List Nat)) (b : List Nat) (lo : Nat), Rise lo b → (∀ l ∈ ls, Rise lo l) →
    Rise lo (ls.foldl unionEnds b)
  | [], _, _, hb, _ => hb
  | l :: ls, b, lo, hb, h => by
    rw [List.foldl_cons]
    exact foldl_unionEnds_rise ls _ lo (unionEnds_rise hb (h l (by simp))) (fun k hk => h k (by simp [hk]))

/-! ## Masks -/

theorem maskCanonical_rises : ∀ (m : List MRun) (lanes lo : Nat), maskCanonical lanes m = true → (∀ r ∈ m.head?, lo < r.stop) →
    Rises lo lanes (maskEnds m)
  | [], _, _, h, _ => by simp [maskCanonical] at h
  | [r], lanes, lo, h, hlo => by
    have : r.stop = lanes := by simpa [maskCanonical] using h
    have := hlo r (by simp)
    exact ⟨by simpa [maskEnds] using this, by simp only [List.map_nil]; exact ‹r.stop = lanes›⟩
  | r :: q :: rs, lanes, lo, h, hlo => by
    simp only [maskCanonical, Bool.and_eq_true, decide_eq_true_eq] at h
    exact ⟨hlo r (by simp), maskCanonical_rises (q :: rs) lanes r.stop h.2 (by simp [h.1.1.2])⟩

/-- The ends of a canonical mask rise from 0 to the last lane. -/
theorem maskEnds_rises (m : List MRun) (lanes : Nat) (h : maskCanonical lanes m = true) (hl : 0 < lanes) : Rises 0 lanes (maskEnds m) := by
  refine maskCanonical_rises m lanes 0 h ?_
  match m, h with
  | [r], h => simpa [maskCanonical] using (by simpa [maskCanonical] using h : r.stop = lanes) ▸ hl
  | r :: q :: rs, h =>
    simp only [maskCanonical, Bool.and_eq_true, decide_eq_true_eq] at h
    simp [h.1.1.1]

/-- Between two neighbouring ends a mask is constant. -/
theorem maskAt_const : ∀ (m : List MRun) (i j : Nat), i ≤ j → (∀ e ∈ maskEnds m, ¬ (i < e ∧ e ≤ j)) → maskAt m j = maskAt m i
  | [], _, _, _, _ => rfl
  | r :: rs, i, j, hij, h => by
    have h0 := h r.stop (by simp [maskEnds])
    have ih := maskAt_const rs i j hij (fun e he => h e (by simp only [maskEnds, List.map_cons, List.mem_cons]; exact Or.inr he))
    unfold maskAt
    by_cases hi : i < r.stop
    · have : j < r.stop := by omega
      simp [hi, this]
    · have : ¬ j < r.stop := by omega
      simp [hi, this, ih]

theorem Shape.go_const : ∀ (rs : List Run) (i j : Nat), i ≤ j → (∀ e ∈ rs.map Run.stop, ¬ (i < e ∧ e ≤ j)) →
    Shape.at.go rs j = Shape.at.go rs i
  | [], _, _, _, _ => rfl
  | r :: rs, i, j, hij, h => by
    have h0 := h r.stop (by simp)
    have ih := Shape.go_const rs i j hij (fun e he => h e (by simp only [List.map_cons, List.mem_cons]; exact Or.inr he))
    unfold Shape.at.go
    by_cases hi : i < r.stop
    · have : j < r.stop := by omega
      simp [hi, this]
    · have : ¬ j < r.stop := by omega
      simp [hi, this, ih]

/-- Between two neighbouring ends a register's lanes are alike (R77). -/
theorem VReg.lane_const (v : VReg) (lanes n i j : Nat) (hij : i ≤ j) (hj : j < lanes) (h : ∀ e ∈ v.ends lanes, ¬ (i < e ∧ e ≤ j)) :
    v.lane n j = v.lane n i := by
  unfold VReg.lane
  congr 1
  match hs : v.shape with
  | .u x => rfl
  | .a b s =>
    have : i = j := by
      refine Nat.le_antisymm hij (Nat.not_lt.mp fun hlt => ?_)
      refine h (i + 1) ?_ ⟨by omega, by omega⟩
      simp only [VReg.ends, hs, List.mem_map, List.mem_range]
      exact ⟨i, by omega, rfl⟩
    rw [this]
  | .g rs =>
    simp only [Shape.at]
    exact Shape.go_const rs i j hij (by simpa [VReg.ends, hs] using h)

theorem rise_range (n : Nat) : ∀ lo, Rise lo ((List.range' lo n).map (· + 1)) := by
  induction n with
  | zero => intro lo; trivial
  | succ n ih =>
    intro lo
    simp only [List.range'_succ, List.map_cons]
    exact ⟨by omega, ih (lo + 1)⟩

theorem isCanonical_rising : ∀ (l : List Nat) (lo : Nat), VReg.isCanonical.rising lo l = true → Rise lo l
  | [], _, _ => trivial
  | e :: es, lo, h => by
    simp only [VReg.isCanonical.rising, Bool.and_eq_true, decide_eq_true_eq] at h
    exact ⟨h.1, isCanonical_rising es e h.2⟩

theorem rising_rise : ∀ (l : List Nat) (lo : Nat), Rise lo l → VReg.isCanonical.rising lo l = true
  | [], _, _ => rfl
  | e :: es, lo, h => by
    simp only [VReg.isCanonical.rising, Bool.and_eq_true, decide_eq_true_eq]
    exact ⟨h.1, rising_rise es e h.2⟩

/-- The ends of a canonical register rise from above 0. -/
theorem VReg.ends_rise (v : VReg) (lanes : Nat) (h : v.isCanonical lanes = true) (hl : 0 < lanes) : Rise 0 (v.ends lanes) := by
  unfold VReg.isCanonical at h
  unfold VReg.ends
  split
  · exact ⟨hl, trivial⟩
  · rw [List.range_eq_range']; exact rise_range lanes 0
  · rename_i rs hs
    simp only [hs, Bool.and_eq_true] at h
    exact isCanonical_rising _ _ h.1.2

theorem Rise.mem_le_last : ∀ (l : List Nat) (lo : Nat), Rise lo l → ∀ e ∈ l, e ≤ l.getLastD 0
  | [], _, _, _, h => by simp at h
  | [x], _, _, e, he => by simp at he; simp [he]
  | x :: y :: ys, lo, h, e, he => by
    have ih := Rise.mem_le_last (y :: ys) x h.2
    rw [List.getLastD_cons]
    have hl : (y :: ys).getLastD x = (y :: ys).getLastD 0 := by simp [List.getLast?_cons]
    rw [hl]
    rcases List.mem_cons.mp he with rfl | he
    · have := ih y (by simp)
      have := h.2.1
      omega
    · exact ih e he

theorem VReg.ends_le (v : VReg) (lanes : Nat) (h : v.isCanonical lanes = true) : ∀ e ∈ v.ends lanes, e ≤ lanes := by
  unfold VReg.isCanonical at h
  unfold VReg.ends
  split
  · simp
  · intro e he
    simp only [List.mem_map, List.mem_range] at he
    obtain ⟨i, hi, rfl⟩ := he
    omega
  · rename_i rs hs
    simp only [hs, Bool.and_eq_true, beq_iff_eq] at h
    intro e he
    have := Rise.mem_le_last _ 0 (isCanonical_rising _ _ h.1.2) e he
    omega

/-! ## Segments (R77) -/

/-- Segments that follow one another from `lo` to `hi`. -/
def Chain (lo hi : Nat) : List Seg → Prop
  | [] => lo = hi
  | s :: ss => s.lo = lo ∧ lo < s.hi ∧ Chain s.hi hi ss

theorem segsOf_chain (em : List MRun) : ∀ (es : List Nat) (lo hi : Nat), Rises lo hi es → Chain lo hi (segsOf em lo es)
  | [], _, _, h => h
  | e :: es, lo, hi, h => ⟨rfl, h.1, segsOf_chain em es e hi h.2⟩

theorem segsOf_spec (em : List MRun) : ∀ (es : List Nat) (lo : Nat), ∀ s ∈ segsOf em lo es, s.on = maskAt em s.lo ∧
    (Rise lo es → ∀ e ∈ es, ¬ (s.lo < e ∧ e < s.hi))
  | [], _, s, h => by simp [segsOf] at h
  | e :: es, _, s, h => by
    unfold segsOf at h
    rcases List.mem_cons.mp h with rfl | h
    · refine ⟨rfl, fun hr k hk => ?_⟩
      rcases List.mem_cons.mp hk with rfl | hk
      · simp
      · have := Rise.mem_gt hr.2 k hk
        simp only
        omega
    · have ih := segsOf_spec em es e s h
      refine ⟨ih.1, fun hr k hk => ?_⟩
      rcases List.mem_cons.mp hk with rfl | hk
      · have hge : k ≤ s.lo := by
          clear ih hk
          revert hr
          generalize k = e at *
          intro hr
          exact segsOf_lo_ge em es e s h hr.2
        omega
      · exact ih.2 hr.2 k hk
where
  segsOf_lo_ge (em : List MRun) : ∀ (es : List Nat) (lo : Nat) (s : Seg), s ∈ segsOf em lo es → Rise lo es → lo ≤ s.lo
    | [], _, s, h, _ => by simp [segsOf] at h
    | e :: es, lo, s, h, hr => by
      unfold segsOf at h
      rcases List.mem_cons.mp h with rfl | h
      · exact Nat.le_refl _
      · exact Nat.le_trans (Nat.le_of_lt hr.1) (segsOf_lo_ge em es e s h hr.2)

/-! ## Building runs -/

theorem Chain.le : ∀ {ss : List Seg} {lo hi : Nat}, Chain lo hi ss → lo ≤ hi
  | [], _, _, h => Nat.le_of_eq h
  | _ :: _, _, _, h => Nat.le_trans (Nat.le_of_lt h.2.1) (Chain.le h.2.2)

theorem Chain.length_le : ∀ {ss : List Seg} {lo hi : Nat}, Chain lo hi ss → ss.length ≤ hi - lo
  | [], _, _, _ => by simp
  | s :: ss, lo, hi, h => by
    have := Chain.length_le h.2.2
    have := Chain.le h.2.2
    have := h.2.1
    simp only [List.length_cons]
    omega

/-- Every lane lies in a segment. -/
theorem Chain.find : ∀ {ss : List Seg} {lo hi : Nat}, Chain lo hi ss → ∀ i, lo ≤ i → i < hi → ∃ s ∈ ss, s.lo ≤ i ∧ i < s.hi
  | [], lo, hi, h, i, h1, h2 => by
    have : lo = hi := h
    omega
  | s :: ss, lo, hi, h, i, h1, h2 => by
    by_cases hs : i < s.hi
    · exact ⟨s, by simp, by rw [h.1]; exact h1, hs⟩
    · obtain ⟨q, hq, h3⟩ := Chain.find h.2.2 i (by omega) h2
      exact ⟨q, by simp [hq], h3⟩

theorem Chain.mem_hi : ∀ {ss : List Seg} {lo hi : Nat}, Chain lo hi ss → ∀ s ∈ ss, s.lo < s.hi ∧ s.hi ≤ hi ∧ lo ≤ s.lo
  | [], _, _, _, _, h => by simp at h
  | q :: ss, lo, hi, h, s, hs => by
    have hle := Chain.le h.2.2
    rcases List.mem_cons.mp hs with rfl | hs
    · exact ⟨by rw [h.1]; exact h.2.1, hle, by have := h.1; omega⟩
    · have ih := Chain.mem_hi h.2.2 s hs
      have := h.2.1
      exact ⟨ih.1, ih.2.1, by omega⟩

/-- The runs built so far, newest first, end at `lo`: their ends fall strictly, and none lies beyond. -/
def Falls : Nat → List Run → Prop
  | lo, [] => lo = 0
  | lo, r :: rs => r.stop = lo ∧ 0 < lo ∧ (rs = [] ∨ ∃ k < lo, Falls k rs)

theorem go_append : ∀ (xs ys : List Run) (i : Nat), (∀ r ∈ xs, r.stop ≤ i) → Shape.at.go (xs ++ ys) i = Shape.at.go ys i
  | [], _, _, _ => rfl
  | x :: xs, ys, i, h => by
    have h0 := h x (by simp)
    rw [List.cons_append, Shape.at.go, if_neg (by omega)]
    exact go_append xs ys i (fun r hr => h r (by simp [hr]))

theorem go_append_left : ∀ (xs ys : List Run) (i : Nat), (∃ r ∈ xs, i < r.stop) → Shape.at.go (xs ++ ys) i = Shape.at.go xs i
  | [], _, _, h => by simp at h
  | x :: xs, ys, i, h => by
    rw [List.cons_append, Shape.at.go, Shape.at.go]
    by_cases hx : i < x.stop
    · simp [hx]
    · simp only [hx, if_false]
      refine go_append_left xs ys i ?_
      obtain ⟨r, hr, h⟩ := h
      rcases List.mem_cons.mp hr with rfl | hr
      · exact absurd h hx
      · exact ⟨r, hr, h⟩

theorem Falls.stop_le : ∀ {rs : List Run} {lo : Nat}, Falls lo rs → ∀ r ∈ rs, r.stop ≤ lo
  | [], _, _, _, h => by simp at h
  | q :: rs, lo, h, r, hr => by
    rcases List.mem_cons.mp hr with rfl | hr
    · exact Nat.le_of_eq h.1
    · rcases h.2.2 with rfl | ⟨k, hk, hf⟩
      · simp at hr
      · exact Nat.le_trans (Falls.stop_le hf r hr) (Nat.le_of_lt hk)

/-- One more run in front. -/
theorem Falls.push {rs : List Run} {lo hi : Nat} (v : Word) (h : Falls lo rs) (hlt : lo < hi) : Falls hi (⟨v, hi⟩ :: rs) :=
  ⟨rfl, by omega, by
    cases rs with
    | nil => exact Or.inl rfl
    | cons => exact Or.inr ⟨lo, hlt, h⟩⟩

/-- The newest run made longer. -/
theorem Falls.grow {rs : List Run} {r : Run} {lo hi : Nat} (v : Word) (h : Falls lo (r :: rs)) (hlt : lo < hi) : Falls hi (⟨v, hi⟩ :: rs) :=
  ⟨rfl, by omega, h.2.2.imp id (fun ⟨k, hk, hf⟩ => ⟨k, by omega, hf⟩)⟩

/-- What the runs built over a chain of segments hold: the earlier lanes as they were, and in each segment its value. -/
theorem buildRuns_go (k : Nat) (val old : Nat → Word) : ∀ (ss : List Seg) (n : Nat) (out : List Run) (lo hi : Nat),
    Chain lo hi ss → Falls lo out →
    (∀ i, i < lo → Shape.at.go (buildRuns k val old ss n out) i = Shape.at.go out.reverse i) ∧
    (∀ s ∈ ss, ∀ i, s.lo ≤ i → i < s.hi → Shape.at.go (buildRuns k val old ss n out) i = if s.on then val s.lo else old s.lo)
  | [], n, out, lo, hi, _, _ => by simp [buildRuns]
  | s :: ss, n, out, lo, hi, hc, hf => by
    have key : ∀ (v : Word), v = (if s.on then val s.lo else old s.lo) → ∀ (n' : Nat) (out' : List Run), Falls s.hi out' →
        (∀ i, i < lo → Shape.at.go out'.reverse i = Shape.at.go out.reverse i) →
        (∀ i, lo ≤ i → i < s.hi → Shape.at.go out'.reverse i = v) →
        (∀ i, i < lo → Shape.at.go (buildRuns k val old ss n' out') i = Shape.at.go out.reverse i) ∧
        (∀ q ∈ s :: ss, ∀ i, q.lo ≤ i → i < q.hi → Shape.at.go (buildRuns k val old ss n' out') i = if q.on then val q.lo else old q.lo) := by
      intro v hv n' out' hf' h1 h2
      have ih := buildRuns_go k val old ss n' out' s.hi hi hc.2.2 hf'
      refine ⟨fun i hi' => ?_, fun q hq i hq1 hq2 => ?_⟩
      · rw [ih.1 i (by have := hc.2.1; omega), h1 i hi']
      · rcases List.mem_cons.mp hq with rfl | hq
        · rw [ih.1 i hq2, h2 i (by rw [← hc.1]; exact hq1) hq2, hv]
        · exact ih.2 q hq i hq1 hq2
    have grown : ∀ (r : Run) (rs : List Run) (v : Word), r.val = v → out = r :: rs → ∀ i,
        (i < lo → Shape.at.go (List.reverse (⟨v, s.hi⟩ :: rs)) i = Shape.at.go out.reverse i) ∧
        (lo ≤ i → i < s.hi → Shape.at.go (List.reverse (⟨v, s.hi⟩ :: rs)) i = v) := by
      intro r rs v hrv ho i
      subst ho
      have hrs : r.stop = lo := hf.1
      simp only [List.reverse_cons]
      by_cases hex : ∃ q ∈ rs.reverse, i < q.stop
      · refine ⟨fun _ => by rw [go_append_left _ _ _ hex, go_append_left _ _ _ hex], fun h3 _ => ?_⟩
        obtain ⟨q, hq, h4⟩ := hex
        have := Falls.stop_le hf q (by simp [List.mem_reverse.mp hq])
        omega
      · have hall : ∀ q ∈ rs.reverse, q.stop ≤ i := fun q hq => Nat.not_lt.mp fun h => hex ⟨q, hq, h⟩
        refine ⟨fun h3 => ?_, fun h3 h4 => ?_⟩
        · have := hc.2.1
          have e1 : Shape.at.go [⟨v, s.hi⟩] i = v := by rw [Shape.at.go, if_pos (show i < s.hi by omega)]
          have e2 : Shape.at.go [r] i = v := by rw [Shape.at.go, if_pos (show i < r.stop by omega), hrv]
          rw [go_append _ _ _ hall, go_append _ _ _ hall, e1, e2]
        · rw [go_append _ _ _ hall, Shape.at.go, if_pos h4]
    have pushed : ∀ (v : Word) i,
        (i < lo → Shape.at.go (List.reverse (⟨v, s.hi⟩ :: out)) i = Shape.at.go out.reverse i) ∧
        (lo ≤ i → i < s.hi → Shape.at.go (List.reverse (⟨v, s.hi⟩ :: out)) i = v) := by
      intro v i
      simp only [List.reverse_cons]
      refine ⟨fun h3 => ?_, fun h3 h4 => ?_⟩
      · cases out with
        | nil =>
          have : lo = 0 := hf
          omega
        | cons r rs => exact go_append_left _ _ _ ⟨r, by simp, by rw [hf.1]; exact h3⟩
      · rw [go_append _ _ _ (fun r hr => Nat.le_trans (Falls.stop_le hf r (List.mem_reverse.mp hr)) h3), Shape.at.go, if_pos h4]
    unfold buildRuns
    simp only
    generalize hv : (if s.on = true then val s.lo else old s.lo) = v
    generalize (if s.on = true then n + 1 else n) = n'
    split
    · rename_i r rs
      split
      · rename_i hm
        exact key v hv.symm n' _ (Falls.grow _ hf hc.2.1) (fun i => (grown r rs _ hm.1 rfl i).1) (fun i => (grown r rs _ hm.1 rfl i).2)
      · exact key v hv.symm n' _ (Falls.push _ hf hc.2.1) (fun i => (pushed _ i).1) (fun i => (pushed _ i).2)
    · exact key v hv.symm n' _ (Falls.push _ hf hc.2.1) (fun i => (pushed _ i).1) (fun i => (pushed _ i).2)

/-- The form of the runs built: they fall from the last end when read backwards, and are no more than the segments and what was there. -/
theorem buildRuns_form (k : Nat) (val old : Nat → Word) : ∀ (ss : List Seg) (n : Nat) (out : List Run) (lo hi : Nat),
    Chain lo hi ss → Falls lo out →
    Falls hi (buildRuns k val old ss n out).reverse ∧ (buildRuns k val old ss n out).length ≤ ss.length + out.length
  | [], n, out, lo, hi, hc, hf => by
    have : lo = hi := hc
    subst this
    simp [buildRuns, hf]
  | s :: ss, n, out, lo, hi, hc, hf => by
    unfold buildRuns
    simp only
    generalize (if s.on = true then val s.lo else old s.lo) = v
    generalize (if s.on = true then n + 1 else n) = n'
    split
    · rename_i r rs
      split
      · have := buildRuns_form k val old ss n' (⟨v, s.hi⟩ :: rs) s.hi hi hc.2.2
          (Falls.grow _ hf hc.2.1)
        refine ⟨this.1, ?_⟩
        have := this.2
        simp only [List.length_cons] at this ⊢
        omega
      · have := buildRuns_form k val old ss n' (⟨v, s.hi⟩ :: r :: rs) s.hi hi
          hc.2.2 (Falls.push _ hf hc.2.1)
        refine ⟨this.1, ?_⟩
        have := this.2
        simp only [List.length_cons] at this ⊢
        omega
    · have := buildRuns_form k val old ss n' [⟨v, s.hi⟩] s.hi hi hc.2.2
        (Falls.push _ hf hc.2.1)
      refine ⟨this.1, ?_⟩
      have := this.2
      simp only [List.length_cons, List.length_nil] at this ⊢
      omega

end Sys2Proof.Machine
end

