-- ==== Sys2Proof/Laws/Vector.lean ====
section
/-! SUPPORT. What an element-wise vector result holds in every lane, on the general path (R77) and on the affine path (R80). -/

namespace Sys2Proof.Machine

theorem Falls.rises : ∀ (rs : List Run) (hi : Nat), Falls hi rs.reverse → Rises 0 hi (rs.map Run.stop) := by
  suffices h : ∀ (rs : List Run) (hi : Nat) (tail : List Nat) (top : Nat), Falls hi rs → Rises hi top tail →
      Rises 0 top ((rs.map Run.stop).reverse ++ tail) by
    intro rs hi hf
    have := h rs.reverse hi [] hi hf rfl
    simpa using this
  intro rs
  induction rs with
  | nil =>
    intro hi tail top hf ht
    have : hi = 0 := hf
    simpa [this] using ht
  | cons r rs ih =>
    intro hi tail top hf ht
    simp only [List.map_cons, List.reverse_cons, List.append_assoc, List.singleton_append]
    rcases hf.2.2 with rfl | ⟨k, hk, hf'⟩
    · simp only [List.map_nil, List.reverse_nil, List.nil_append]
      exact ⟨by rw [hf.1]; exact hf.2.1, by rw [hf.1]; exact ht⟩
    · exact ih k (r.stop :: tail) top hf' ⟨by rw [hf.1]; exact hk, by rw [hf.1]; exact ht⟩

theorem Rises.last : ∀ (l : List Nat) (lo hi : Nat), Rises lo hi l → l.getLastD lo = hi
  | [], _, _, h => h
  | x :: xs, lo, hi, h => by
    rw [List.getLastD_cons]
    exact Rises.last xs x hi h.2

/-- A run list over every lane, put into canonical form, reads as the runs do. -/
theorem canonical_at (w : Bool) (rs : List Run) (lanes i : Nat) (h : Rises 0 lanes (rs.map Run.stop)) (hi : i < lanes) :
    (canonical w rs).shape.at (canonical w rs).w i = Shape.at.go rs i := by
  match rs, h with
  | [], h =>
    have : 0 = lanes := h
    omega
  | [r], h =>
    have : r.stop = lanes := h.2
    simp [canonical, Shape.at, Shape.at.go, this, hi]
  | r :: q :: rs, h => simp [canonical, Shape.at]

theorem canonical_isCanonical (w : Bool) (rs : List Run) (lanes : Nat) (h : Rises 0 lanes (rs.map Run.stop)) (hl : 0 < lanes) :
    (canonical w rs).isCanonical lanes = true := by
  match rs, h with
  | [], h =>
    have : 0 = lanes := h
    omega
  | [r], h => simp [canonical, VReg.isCanonical]
  | r :: q :: rs, h =>
    have h1 : Rises 0 lanes ((r :: q :: rs).map Run.stop) := h
    have hr := rising_rise _ 0 h1.rise
    have hl := Rises.last _ 0 lanes h1
    simp only [canonical, VReg.isCanonical, hr, hl, Bool.and_true, beq_self_eq_true]
    simp

theorem canonical_w (w : Bool) (rs : List Run) : (canonical w rs).w = w := by
  unfold canonical
  split <;> rfl

theorem canonical_cost (w : Bool) (rs : List Run) (hne : rs ≠ []) : (canonical w rs).cost ≤ (if w then 2 else 1) * rs.length := by
  unfold canonical
  split
  · simp [VReg.cost]
  · simp [VReg.cost]

/-- A register put into a team: admitted when its slots fit (R71). -/
theorem Team.putV_ok (t : Team) (d : Nat) (v : VReg) (h : v.cost ≤ t.free + (t.rv d).cost) : t.putV d v = .ok { t with v := t.v.set d v } := by
  simp [Team.putV, h]

/-- A register put into a team: RUN_OVERFLOW when its slots do not fit (R71, R89). -/
theorem Team.putV_full (t : Team) (d : Nat) (v : VReg) (h : t.free + (t.rv d).cost < v.cost) :
    t.putV d v = .error ⟨cRUN_OVERFLOW, overflowInfo v.cost (t.free + (t.rv d).cost) t.repStep 0 d⟩ := by
  have : ¬ v.cost ≤ t.free + (t.rv d).cost := by omega
  simp [Team.putV, this]

/-- Segments of an instruction: a chain over every lane, each lane of one like its first lane as far as the execution mask, the given ends
and, outside the mask, the old ends go. -/
theorem segments_spec (em : List MRun) (ends : List (List Nat)) (old : List Nat) (lanes : Nat) (hl : 0 < lanes)
    (hem : maskCanonical lanes em = true) (hends : ∀ l ∈ ends, Rise 0 l ∧ ∀ e ∈ l, e ≤ lanes) (hold : Rise 0 old ∧ ∀ e ∈ old, e ≤ lanes) :
    Chain 0 lanes (segments em ends old) ∧
    ∀ s ∈ segments em ends old, s.on = maskAt em s.lo ∧ ∀ i, s.lo ≤ i → i < s.hi →
      maskAt em i = maskAt em s.lo ∧ (∀ l ∈ ends, ∀ e ∈ l, ¬ (s.lo < e ∧ e ≤ i)) ∧
      (s.on = false → ∀ e ∈ old, ¬ (s.lo < e ∧ e ≤ i)) := by
  have hm := maskEnds_rises em lanes hem hl
  have hmr := hm.rise
  let b0 := ends.foldl unionEnds (maskEnds em)
  have hb0 : Rise 0 b0 := foldl_unionEnds_rise ends _ 0 hmr (fun l hl => (hends l hl).1)
  let b := unionEnds b0 (old.filter (fun e => !maskAt em (e - 1)))
  have hb : Rise 0 b := unionEnds_rise hb0 (Rise.filter _ hold.1)
  have mem_b : ∀ e, e ∈ b ↔ (e ∈ maskEnds em ∨ ∃ l ∈ ends, e ∈ l) ∨ (e ∈ old ∧ maskAt em (e - 1) = false) := by
    intro e
    rw [unionEnds_mem, foldl_unionEnds_mem]
    simp
  have hlast : lanes ∈ b := by
    rw [mem_b]
    refine Or.inl (Or.inl ?_)
    have h1 := Rises.last _ 0 lanes hm
    match hme : maskEnds em with
    | [] =>
      rw [hme] at h1
      simp at h1
      omega
    | x :: xs =>
      rw [hme] at h1
      rw [← h1]
      simp
      cases xs with
      | nil => simp
      | cons y ys =>
        right
        simp [List.getLast?_eq_some_getLast]
  have hble : ∀ e ∈ b, e ≤ lanes := by
    intro e he
    rcases (mem_b e).mp he with (h | ⟨l, hl, h⟩) | h
    · exact hm.mem_le e h
    · exact (hends l hl).2 e h
    · exact hold.2 e h.1
  have hrises := Rise.rises hb hlast hble
  have hseg : segments em ends old = segsOf em 0 b := rfl
  rw [hseg]
  refine ⟨segsOf_chain em b 0 lanes hrises, fun s hs => ?_⟩
  have h1 := segsOf_spec em b 0 s hs
  have hno := h1.2 hb
  refine ⟨h1.1, fun i hi1 hi2 => ?_⟩
  have noB : ∀ e ∈ b, ¬ (s.lo < e ∧ e ≤ i) := fun e he h => hno e he ⟨h.1, by omega⟩
  have hmask : ∀ j, s.lo ≤ j → j ≤ i → maskAt em j = maskAt em s.lo := fun j h1 h2 =>
    maskAt_const em s.lo j h1 (fun e he h => noB e ((mem_b e).mpr (Or.inl (Or.inl he))) ⟨h.1, by omega⟩)
  refine ⟨hmask i hi1 (Nat.le_refl i), fun l hl e he => noB e ((mem_b e).mpr (Or.inl (Or.inr ⟨l, hl, he⟩))), ?_⟩
  intro hoff e he hlt
  refine noB e ((mem_b e).mpr (Or.inr ⟨he, ?_⟩)) hlt
  rw [hmask (e - 1) (by omega) (by omega), ← h1.1, hoff]

/-- No segment raises an enabled flag: no trap (R117). -/
theorem fpTrap_none (en rep : Nat) (segs : List (Nat × Nat)) (h : ∀ p ∈ segs, p.2 &&& en = 0) : fpTrap en rep segs = none := by
  unfold fpTrap
  have : segs.find? (fun s => s.2 &&& en ≠ 0) = none := by
    rw [List.find?_eq_none]
    intro p hp
    simp [h p hp]
  rw [this]

/-- What an element-wise result is (R76, R77): each lane of the execution mask has its own function's value, and every other lane keeps its
pattern at the result's width. It is admitted whenever a run for every lane would be. -/
theorem elementWise_lane (t : Team) (d : Nat) (em : List MRun) (ends : List (List Nat)) (k : Nat) (w : Bool) (f : Nat → Nat × Nat)
    (hl : 0 < t.lanes) (hem : maskCanonical t.lanes em = true)
    (hends : ∀ l ∈ ends, Rise 0 l ∧ ∀ e ∈ l, e ≤ t.lanes)
    (hold : (t.rv d).isCanonical t.lanes = true)
    (hroom : (if w then 2 else 1) * t.lanes ≤ t.free + (t.rv d).cost)
    (hflags : ∀ i, i < t.lanes → maskAt em i = true → (f i).2 &&& t.trapEn = 0)
    (hf : ∀ i j, i ≤ j → j < t.lanes → (∀ l ∈ ends, ∀ e ∈ l, ¬ (i < e ∧ e ≤ j)) → (f j).1 = (f i).1) :
    ∃ (v : VReg) (o : VOut), elementWise t d em ends k w f = .ok o ∧ o.team = { t with v := t.v.set d v } ∧ v.w = w ∧
      v.isCanonical t.lanes = true ∧ o.cls = .vector ∧ o.num = d ∧ o.latency = 6 ∧ o.fb = none ∧
      o.passes = passCount (computed (segments em ends ((t.rv d).ends t.lanes))) k ∧
      o.flags = orFlags (((segments em ends ((t.rv d).ends t.lanes)).filter Seg.on).map (fun s => (f s.lo).2)) ∧
      ∀ i, i < t.lanes → v.lane (if w then 64 else 32) i =
        if maskAt em i then cut (if w then 64 else 32) (BitVec.ofNat 64 (f i).1) else (t.rv d).lane (if w then 64 else 32) i := by
  have hsp := segments_spec em ends ((t.rv d).ends t.lanes) t.lanes hl hem hends ⟨VReg.ends_rise _ _ hold hl, VReg.ends_le _ _ hold⟩
  let segs := segments em ends ((t.rv d).ends t.lanes)
  let n := if w then 64 else 32
  let val : Nat → Word := fun i => BitVec.ofNat 64 (f i).1
  let runs := buildRuns k val ((t.rv d).lane n) segs 0 []
  have hfalls0 : Falls 0 [] := rfl
  have hform := buildRuns_form k val ((t.rv d).lane n) segs 0 [] 0 t.lanes hsp.1 hfalls0
  have hrises : Rises 0 t.lanes (runs.map Run.stop) := Falls.rises runs t.lanes hform.1
  have hgo := (buildRuns_go k val ((t.rv d).lane n) segs 0 [] 0 t.lanes hsp.1 hfalls0).2
  have hne : runs ≠ [] := by
    intro h
    rw [h] at hrises
    have : 0 = t.lanes := hrises
    omega
  have hcost : (canonical w runs).cost ≤ t.free + (t.rv d).cost := by
    have h1 := canonical_cost w runs hne
    have h2 := hform.2
    have h3 := hsp.1.length_le
    have h4 : runs.length ≤ t.lanes := by
      simp only [List.length_nil, Nat.add_zero, Nat.sub_zero] at h2 h3
      exact Nat.le_trans h2 h3
    have h5 : (if w then 2 else 1) * runs.length ≤ (if w then 2 else 1) * t.lanes := Nat.mul_le_mul_left _ h4
    omega
  have htrap : fpTrap t.trapEn t.repStep ((segs.filter Seg.on).map (fun s => (s.lo, (f s.lo).2))) = none := by
    refine fpTrap_none _ _ _ (fun p hp => ?_)
    simp only [List.mem_map, List.mem_filter] at hp
    obtain ⟨s, ⟨hs, hon⟩, rfl⟩ := hp
    have hm := (hsp.1.mem_hi s hs)
    refine hflags s.lo (by omega) ?_
    rw [← (hsp.2 s hs).1]
    exact hon
  let segFlags : List (Nat × Nat) := (segs.filter Seg.on).map (fun s => (s.lo, (f s.lo).2))
  let o : VOut :=
    { team := { t with v := t.v.set d (canonical w runs) }, passes := passCount segFlags.length k, flags := orFlags (segFlags.map Prod.snd)
      cls := .vector, num := d }
  refine ⟨canonical w runs, o,
    ?_, rfl, canonical_w w runs, canonical_isCanonical w runs _ hrises hl, rfl, rfl, rfl, rfl, ?_, ?_, ?_⟩
  · unfold elementWise
    simp only
    rw [show segments em ends ((t.rv d).ends t.lanes) = segs from rfl, htrap]
    simp only
    rw [show canonical w (buildRuns k (fun i => BitVec.ofNat 64 (f i).1) ((t.rv d).lane (if w then 64 else 32)) segs 0 []) = canonical w runs from rfl,
      Team.putV_ok t d _ hcost]
  · simp [o, segFlags, computed, segs]
  · simp only [o, segFlags, segs, List.map_map]
    rfl
  · intro i hi
    obtain ⟨s, hs, h1, h2⟩ := hsp.1.find i (Nat.zero_le i) hi
    have h3 := (hsp.2 s hs)
    have h4 := h3.2 i h1 h2
    have hval : (canonical w runs).lane n i = cut n (if s.on then val s.lo else (t.rv d).lane n s.lo) := by
      show cut n ((canonical w runs).shape.at (canonical w runs).w i) = _
      rw [canonical_at w runs t.lanes i hrises hi]
      congr 1
      exact hgo s hs i h1 h2
    show (canonical w runs).lane n i = _
    rw [hval, h4.1, ← h3.1]
    by_cases hon : s.on = true
    · simp only [hon, if_true, val]
      rw [hf s.lo i h1 hi h4.2.1]
    · have hoff : s.on = false := by simpa using hon
      simp only [hoff]
      have hc := VReg.lane_const (t.rv d) t.lanes n s.lo i h1 hi (h4.2.2 hoff)
      show cut n ((t.rv d).lane n s.lo) = (t.rv d).lane n i
      rw [hc]
      unfold VReg.lane cut
      simp only [BitVec.toNat_ofNat]
      congr 1
      have : n = 64 ∨ n = 32 := by
        show (if w then 64 else 32) = 64 ∨ (if w then 64 else 32) = 32
        cases w <;> simp
      rcases this with h | h <;> rw [h] <;> omega

end Sys2Proof.Machine
end

