-- ==== Sys2Proof/Tests/Slice0.lean ====
section
/-! SUPPORT. Tests of the model: words written out from the encoding tables, ill-formed terms, small steps whose
results are calculated by hand from the specification's rules, and for every statement with hypotheses a state and
operands that meet them. -/

namespace Sys2Proof.Tests

set_option Elab.async false

open Sys2Proof Sys2Proof.Machine

/-! ## Words of every constructor, from the fields of the encoding table -/

theorem test_decode_major_00 :
    decode 0x00000000#32 = .ok (.nop) ∧
    decode 0x00189622#32 = .ok (.bra 562722) ∧
    decode 0x00289623#32 = .ok (.call 562723) ∧
    decode 0x0038C000#32 = .ok (.jmpi 35) ∧
    decode 0x00400000#32 = .ok (.ret) ∧
    decode 0x00500000#32 = .ok (.join) ∧
    decode 0x00600000#32 = .ok (.exit) ∧
    decode 0x00700000#32 = .ok (.yield) ∧
    decode 0x00800000#32 = .ok (.halt) ∧
    decode 0x00900000#32 = .ok (.eret) ∧
    decode 0x00A8C009#32 = .ok (.trap 35 9) ∧
    decode 0x00B09623#32 = .ok (.bkpt 38435) ∧
    decode 0x00C09623#32 = .ok (.sysc 38435) ∧
    decode 0x012B72DE#32 = .ok (.brd 2 750302) := by decide

theorem test_decode_major_01 :
    decode 0x05512345#32 = .ok (.mode 21 74565) ∧
    decode 0x06780023#32 = .ok (.modeReg 39 35) := by decide

theorem test_decode_major_02 :
    decode 0x08000292#32 = .ok (.rep true false true false 18) := by decide

theorem test_decode_major_03 :
    decode 0x0C089622#32 = .ok (.imm 562722) := by decide

theorem test_decode_major_04 :
    decode 0x1237DB00#32 = .ok (.sadd 35 31 27) ∧
    decode 0x1237DB01#32 = .ok (.ssub 35 31 27) ∧
    decode 0x1237DB02#32 = .ok (.smul 35 31 27) ∧
    decode 0x12481C03#32 = .ok (.smulh 36 32 28) ∧
    decode 0x12585D04#32 = .ok (.smulhu 37 33 29) ∧
    decode 0x1237DB25#32 = .ok (.sdiv 35 31 27 true) ∧
    decode 0x1237DB26#32 = .ok (.srem 35 31 27 true) ∧
    decode 0x1237DB07#32 = .ok (.sand 35 31 27) ∧
    decode 0x12279A08#32 = .ok (.sor 34 30 26) ∧
    decode 0x1237DB09#32 = .ok (.sxor 35 31 27) ∧
    decode 0x1237DB0A#32 = .ok (.sshl 35 31 27) ∧
    decode 0x1237DB0B#32 = .ok (.sshr 35 31 27) ∧
    decode 0x1237DB0C#32 = .ok (.ssra 35 31 27) ∧
    decode 0x1237DB2D#32 = .ok (.smin 35 31 27 true) ∧
    decode 0x1237DB2E#32 = .ok (.smax 35 31 27 true) ∧
    decode 0x1237C00F#32 = .ok (.smov 35 31) ∧
    decode 0x1237DB30#32 = .ok (.sbfx 35 31 27 true) ∧
    decode 0x1237DB11#32 = .ok (.sbfi 35 31 27) ∧
    decode 0x1237C012#32 = .ok (.sclz 35 31) ∧
    decode 0x1237C013#32 = .ok (.spop 35 31) := by decide

theorem test_decode_major_05 :
    decode 0x167032E3#32 = .ok (.saddImm 39 13027) ∧
    decode 0x167072E3#32 = .ok (.ssubImm 39 13027) ∧
    decode 0x1670B2E3#32 = .ok (.smulImm 39 13027) ∧
    decode 0x1671F2E3#32 = .ok (.sandImm 39 13027) ∧
    decode 0x166232E2#32 = .ok (.sorImm 38 13026) ∧
    decode 0x167272E3#32 = .ok (.sxorImm 39 13027) ∧
    decode 0x1672B2E3#32 = .ok (.sshlImm 39 13027) ∧
    decode 0x1672F2E3#32 = .ok (.sshrImm 39 13027) ∧
    decode 0x167332E3#32 = .ok (.ssraImm 39 13027) ∧
    decode 0x167B4F9F#32 = .ok (.sminImm 39 true 3999) ∧
    decode 0x167B8F9F#32 = .ok (.smaxImm 39 true 3999) ∧
    decode 0x1673F2E3#32 = .ok (.smovImm 39 13027) := by decide

theorem test_decode_major_06 :
    decode 0x1A2B72DE#32 = .ok (.sli 34 750302) := by decide

theorem test_decode_major_07 :
    decode 0x1E37DB0C#32 = .ok (.scmp 35 31 27 true 4) ∧
    decode 0x1E37DB97#32 = .ok (.ssel 35 31 27 23) := by decide

theorem test_decode_major_08 :
    decode 0x2237DB00#32 = .ok (.vadd 35 31 27) ∧
    decode 0x2237DB01#32 = .ok (.vsub 35 31 27) ∧
    decode 0x2237DB02#32 = .ok (.vmul 35 31 27) ∧
    decode 0x22481C03#32 = .ok (.vmulh 36 32 28) ∧
    decode 0x2237DB04#32 = .ok (.vmin 35 31 27) ∧
    decode 0x2237DB05#32 = .ok (.vmax 35 31 27) ∧
    decode 0x2237DB06#32 = .ok (.vand 35 31 27) ∧
    decode 0x22279A07#32 = .ok (.vor 34 30 26) ∧
    decode 0x2237DB08#32 = .ok (.vxor 35 31 27) ∧
    decode 0x2237DB09#32 = .ok (.vshl 35 31 27) ∧
    decode 0x2237DB0A#32 = .ok (.vshr 35 31 27) ∧
    decode 0x2237C010#32 = .ok (.vabs 35 31) ∧
    decode 0x2237C011#32 = .ok (.vneg 35 31) ∧
    decode 0x2237C012#32 = .ok (.vnot 35 31) ∧
    decode 0x2237C013#32 = .ok (.vmov 35 31) ∧
    decode 0x2237C014#32 = .ok (.vclz 35 31) ∧
    decode 0x2237C015#32 = .ok (.vpop 35 31) ∧
    decode 0x22400016#32 = .ok (.viota 36) ∧
    decode 0x22585D17#32 = .ok (.vbcast 37 33 29) ∧
    decode 0x2237C330#32 = .ok (.vcvt 35 31 3 16) ∧
    decode 0x2237DBF7#32 = .ok (.vsel 35 31 27 7) := by decide

theorem test_decode_major_09 :
    decode 0x26A9A200#32 = .ok (.vaddScalar 42 38 34) ∧
    decode 0x26A9A201#32 = .ok (.vsubScalar 42 38 34) ∧
    decode 0x26A9A202#32 = .ok (.vmulScalar 42 38 34) ∧
    decode 0x26B9E303#32 = .ok (.vmulhScalar 43 39 35) ∧
    decode 0x26A9A204#32 = .ok (.vminScalar 42 38 34) ∧
    decode 0x26A9A205#32 = .ok (.vmaxScalar 42 38 34) ∧
    decode 0x26A9A206#32 = .ok (.vandScalar 42 38 34) ∧
    decode 0x26996107#32 = .ok (.vorScalar 41 37 33) ∧
    decode 0x26A9A208#32 = .ok (.vxorScalar 42 38 34) ∧
    decode 0x26A9A209#32 = .ok (.vshlScalar 42 38 34) ∧
    decode 0x26A9A20A#32 = .ok (.vshrScalar 42 38 34) ∧
    decode 0x26A98013#32 = .ok (.vmovScalar 42 38) ∧
    decode 0x26A9A2FE#32 = .ok (.vselScalar 42 38 34 14) := by decide

theorem test_decode_major_0A :
    decode 0x2A37DB5D#32 = .ok (.vfma 35 31 27 23 false true) := by decide

theorem test_decode_major_0B :
    decode 0x2E37C000#32 = .ok (.vrcp 35 31 false) ∧
    decode 0x2E37C002#32 = .ok (.vrsq 35 31 false) ∧
    decode 0x2E480005#32 = .ok (.vsqrt 36 32 true) ∧
    decode 0x2E37DB07#32 = .ok (.vdiv 35 31 27 true) ∧
    decode 0x2E480009#32 = .ok (.vexp2 36 32 true) ∧
    decode 0x2E48000B#32 = .ok (.vlog2 36 32 true) ∧
    decode 0x2E37C00C#32 = .ok (.vsin 35 31 false) ∧
    decode 0x2E37C00E#32 = .ok (.vcos 35 31 false) := by decide

theorem test_decode_major_0C :
    decode 0x32400000#32 = .ok (.vcoal 36) ∧
    decode 0x32480001#32 = .ok (.vinfo 36 32) ∧
    decode 0x32400002#32 = .ok (.vfree 36) ∧
    decode 0x32688003#32 = .ok (.vbudget 38 34) ∧
    decode 0x3237DB04#32 = .ok (.vrun 35 31 27) ∧
    decode 0x3237DB05#32 = .ok (.vext 35 31 27) ∧
    decode 0x3237DB06#32 = .ok (.vins 35 31 27) := by decide

theorem test_decode_major_0D :
    decode 0x3637C010#32 = .ok (.vred 35 31 4) ∧
    decode 0x36480034#32 = .ok (.vscan 36 32 5) ∧
    decode 0x36481C40#32 = .ok (.vperm 36 32 28) ∧
    decode 0x3637DB60#32 = .ok (.vrot 35 31 27) ∧
    decode 0x3637DB90#32 = .ok (.vsfc 35 31 27 true false) := by decide

theorem test_decode_major_0E :
    decode 0x3862C000#32 = .ok (.mand 6 11 0) ∧
    decode 0x3862C001#32 = .ok (.mor 6 11 0) ∧
    decode 0x3862C002#32 = .ok (.mxor 6 11 0) ∧
    decode 0x3862C003#32 = .ok (.mandn 6 11 0) ∧
    decode 0x3862C004#32 = .ok (.mnot 6 11) ∧
    decode 0x3862C005#32 = .ok (.mmov 6 11) ∧
    decode 0x3862C006#32 = .ok (.mcnt 6 11) ∧
    decode 0x3862C007#32 = .ok (.mfirst 6 11) ∧
    decode 0x3862C008#32 = .ok (.mset 6 11 0) := by decide

theorem test_decode_major_0F :
    decode 0x3C62C00D#32 = .ok (.vcmp 6 11 0 true 5) := by decide

theorem test_decode_major_10 :
    decode 0x42279A51#32 = .ok (.lds 34 30 26 2 true false true) ∧
    decode 0x42279AD0#32 = .ok (.sts 34 30 26 2 true false) := by decide

theorem test_decode_major_11 :
    decode 0x46279A51#32 = .ok (.ldt 34 30 26 2 true false true) ∧
    decode 0x46279AD0#32 = .ok (.stt 34 30 26 2 true false) := by decide

theorem test_decode_major_12 :
    decode 0x4A279A51#32 = .ok (.ldc 34 30 26 2 true false true) ∧
    decode 0x4A279AD0#32 = .ok (.stc 34 30 26 2 true false) := by decide

theorem test_decode_major_13 :
    decode 0x4E175920#32 = .ok (.ld 33 29 25 1 false false false) ∧
    decode 0x4E1759A0#32 = .ok (.st 33 29 25 1 false false) ∧
    decode 0x4E480002#32 = .ok (.space 36 32) ∧
    decode 0x4E37C094#32 = .ok (.cast 35 31 9) := by decide

theorem test_decode_major_14 :
    decode 0x5237DB27#32 = .ok (.atom 35 31 27 2 false true true true) := by decide

theorem test_decode_major_15 :
    decode 0x5400009C#32 = .ok (.fence 2 7) := by decide

theorem test_decode_major_16 :
    decode 0x58090001#32 = .ok (.cpost 36 0 true) ∧
    decode 0x5A500050#32 = .ok (.cqstat 37 1) ∧
    decode 0x58098080#32 = .ok (.ccancel 38) := by decide

theorem test_decode_major_17 :
    decode 0x5C092000#32 = .ok (.binit 36 32) ∧
    decode 0x5C08DF01#32 = .ok (.barv 35 31) ∧
    decode 0x5C08DF02#32 = .ok (.bexp 35 31) ∧
    decode 0x5C092003#32 = .ok (.bwait 36 32) ∧
    decode 0x5E481C04#32 = .ok (.btest 36 32 28) := by decide

theorem test_decode_major_18 :
    decode 0x62669649#32 = .ok (.mma true 6 26 22 18 false true) := by decide

theorem test_decode_major_19 :
    decode 0x66071851#32 = .ok (.mloop true 0 28 24 20 false true) := by decide

theorem test_decode_major_1A :
    decode 0x68400020#32 = .ok (.mzero 4 2) ∧
    decode 0x6837C050#32 = .ok (.mlda 3 31 1) ∧
    decode 0x6837DB80#32 = .ok (.msta 3 31 27) := by decide

theorem test_decode_major_1B :
    decode 0x6C08C000#32 = .ok (.tsub 35) ∧
    decode 0x6E480018#32 = .ok (.ttake 36 32 true) ∧
    decode 0x6C090020#32 = .ok (.tdone 36) ∧
    decode 0x6C094038#32 = .ok (.tretry 37 true) ∧
    decode 0x6C098040#32 = .ok (.tcancel 38) := by decide

theorem test_decode_major_1C :
    decode 0x72584000#32 = .ok (.launch 37 33 false) ∧
    decode 0x72480040#32 = .ok (.lwait 36 32) := by decide

theorem test_decode_major_1D :
    decode 0x76279A15#32 = .ok (.cxa 34 30 26 5 true) ∧
    decode 0x76279A20#32 = .ok (.cxg 34 30 26 false) ∧
    decode 0x76279A49#32 = .ok (.cxs 34 30 26 2 true) ∧
    decode 0x76279A60#32 = .ok (.cxb 34 30 26 false) ∧
    decode 0x76279A80#32 = .ok (.cxt 34 30 26 false) ∧
    decode 0x740880A0#32 = .ok (.cxp 34 false) := by decide

theorem test_decode_major_1E :
    decode 0x7A200010#32 = .ok (.xrd 34 16) ∧
    decode 0x78088049#32 = .ok (.xwr 34 9) ∧
    decode 0x7A300080#32 = .ok (.time 35) := by decide

theorem test_decode_major_3F :
    decode 0xFD88BAA8#32 = .ok (.hdr 1570 14 10 10) := by decide


/-! ## Ill-formed terms, one or more for each check -/

/-- The opposite of well formed. -/
def ill (i : Instr) : Bool := !i.wf

theorem smoke_control : (ill (.trap 1 0) && ill (.trap 1 21) && ill (.mode 0x20 0x60000) && ill (.mode 0x10 0x06000) && ill (.hdr 0 0 0 1)) = true := by decide

theorem smoke_scalar : (ill (.scmp 1 2 3 false 6) && ill (.scmp 1 2 3 true 7)) = true := by decide

theorem smoke_formats : (ill (.vcvt 1 2 12 0) && ill (.vcvt 1 2 0 15) && ill (.vcvt 1 2 22 0) && ill (.vcvt 1 2 0 31)) = true := by decide

theorem smoke_reductions : (ill (.vred 1 2 6) && ill (.vscan 1 2 7)) = true := by decide

theorem smoke_masks :
    (ill (.mand 16 1 2) && ill (.mand 1 16 2) && ill (.mand 1 2 16) && ill (.mor 16 1 2) && ill (.mxor 1 63 2) && ill (.mandn 1 2 16) && ill (.mnot 16 1) &&
      ill (.mnot 1 16) && ill (.mmov 1 16) && ill (.mcnt 1 16) && ill (.mfirst 1 16) && ill (.mset 16 1 2) && ill (.vcmp 16 1 2 false 0) && ill (.vcmp 1 1 2 false 6)) = true := by
  decide

theorem smoke_local :
    (ill (.lds 1 2 3 0 true true false) && ill (.sts 1 2 3 0 true true) && ill (.ldt 1 2 3 0 true true false) && ill (.stt 1 2 3 0 true true) &&
      ill (.ldc 1 2 3 0 true true false) && ill (.stc 1 2 3 0 true true) && ill (.ld 1 2 3 0 true true false) && ill (.st 1 2 3 0 true true)) = true := by decide

theorem smoke_pointers :
    (ill (.cast 1 2 1) && ill (.cast 1 2 12) && ill (.atom 1 2 0 8 false false false false) && ill (.atom 1 2 0 0 false true false false) &&
      ill (.atom 1 2 3 0 false false false false) && ill (.fence 0 0) && ill (.fence 1 10)) = true := by decide

theorem smoke_matrix_collective :
    (ill (.mzero 0 3) && ill (.mlda 0 1 3) && ill (.cxa 1 2 3 6 false) && ill (.cxs 1 2 3 7 false) && ill (.xrd 1 17) && ill (.xwr 1 17)) = true := by decide

theorem smoke_teams :
    (ill (.vectorFinalPass 320 0) && ill (.vectorFinalPass 0 48) && ill (.loadDataReady 320 0) && ill (.storePerform 0 48) && ill (.clusterStoreAck 320 0) &&
      ill (.yieldExpiry 0 48) && ill (.specialFunctionReady 320 0) && ill (.dividerFree 320) && ill (.matrixOpStart 320) && ill (.matrixOpComplete 320)) = true := by decide

theorem smoke_dispatch :
    (ill (.doorbell 64 0 0) && ill (.doorbell 0 65536 0) && ill (.doorbell 0 0 2) && ill (.queuePriorityWrite 0 8 0) && ill (.queueOwnportMove 0 2 0) &&
      ill (.launchRecordRead 64) && ill (.groupPlacement 4) && ill (.partitionFillEnd 0 16) && ill (.groupComplete 320 0) && ill (.launchAccept 0 16) &&
      ill (.notificationPost 64)) = true := by decide

theorem smoke_saving :
    (ill (.quantumExpiry 0 16) && ill (.parkedEviction (2 ^ 32)) && ill (.gridStall (2 ^ 32)) && ill (.hostPreemptRequest 0 2) && ill (.groupRestore 0 (2 ^ 32)) &&
      ill (.debugHalt 320 0 0) && ill (.debugResume 0 48 0) && ill (.debugStep 0 0 2) && ill (.snap 0 16 0) && ill (.snapReload 320 0)) = true := by decide

theorem smoke_copy :
    (ill (.commandAccept 320 0 0) && ill (.commandStart 0 4) && ill (.copyCmd 0 0 64 1) && ill (.gatherCmd 0 4 0 1) && ill (.scatterCmd 320 0 0 1) && ill (.fillCmd 0 0 64 1) &&
      ill (.watchCmd 0 4 0) && ill (.watchComplete 0 0 64) && ill (.signalCmd 0 4 0) && ill (.copyFence 0 0 64) && ill (.flushCmd 320 0 0) && ill (.hintPrefetchL2 0 4 0) &&
      ill (.hintPrefetchHome 0 0 64) && ill (.hintKeepResident 320 0 0) && ill (.hintReleaseResidency 0 4 0) && ill (.commandComplete 0 0 64) &&
      ill (.cancellationComplete 0 4 0) && ill (.fqsvcResume 0 2) && ill (.fqsvcCancel 0 2)) = true := by decide

theorem smoke_memory :
    (ill (.generationBump 4 0) && ill (.generationBump 0 16) && ill (.homeAcknowledge 4 0) && ill (.fillReturn 4 0) && ill (.writeBack 4 0) && ill (.writeThrough 4 0) &&
      ill (.homeAtomic 4 0) && ill (.rdupInvalidate 4 0) && ill (.sweeperVisit 0 32) && ill (.scrubRead 8 .none) && ill (.pageWalk 0 16 0) && ill (.pageWalk 0 0 (2 ^ 55)) &&
      ill (.replay 4 0 0) && ill (.tlbinv 0 0 2) && ill (.tlbinvComplete 4) && ill (.handoverTodevice 0 2) && ill (.handoverTohost 0 2)) = true := by decide

theorem smoke_hosts :
    (ill (.hostRead (2 ^ 52) 8 0) && ill (.hostRead 0 0 0) && ill (.hostRead 0 4097 0) && ill (.hostWrite 0 [] 2) && ill (.hostFetchadd 0 2 0 0) && ill (.hostSwap 0 3 0 0) &&
      ill (.hostCas 0 5 0 0 0) && ill (.registerWrite 0 2 0 0) && ill (.powerRequest 0 2)) = true := by decide

def accessOf (size src : Nat) : RemoteAccess :=
  { src := src, cmd := 0, elem := 0, key := 0, va := 0, kind := .read, op := 0, fmt := 7, size := size, value := 0, seq := 0, mask := 0, cmp := 0, rel := 0 }

theorem smoke_fabric :
    (ill (.mcwinDefine 256 0 0) && ill (.collectiveAbort 256 0) && ill (.collectiveAccept 320 0) && ill (.collectiveComplete 320 0 .timeout) && ill (.flitReceive 16 []) &&
      ill (.flitReceive 0 []) && ill (.flitNak 0 4096) && ill (.remoteRequest (accessOf 3 0)) && ill (.remoteRequest (accessOf 8 288)) &&
      ill (.remoteCommit ⟨288, 0, .commit, 0⟩)) = true := by decide

/-! ## States for tests -/

/-- A team of 32 lanes at word 1 of a clause of eight words, with sixteen vector registers. -/
def tm : Team := { Team.blank with nv := 16, allot := 400, pc := 0x1000, pos := 1, hdr := 56 }

/-- A group with 4 KiB of scratchpad, one 16 KiB tile unit and two accumulators, 1,024 bytes of it shared. -/
def gp : Group :=
  { Group.blank with grid := 1, spUnits := 1, tileUnits := 1, accs := [0, 1],
                     lrec := { LaunchRec.blank with scratch := 1024, tile := 16384, nacc := 2, priv := 4 } }

/-- Core 0 with that group and a team. -/
def coreOf (t : Team) : Core := { Core.empty with teams := [(0, t)], groups := [(0, gp)] }

/-- The state with that core alone. -/
def onCore (x : Core) : State := { State.reset with m := { Mach.initial with cores := [(0, x)] } }

/-- The state whose present team is the only one. -/
def on (t : Team) : State := onCore (coreOf t)

/-- A grid of one group. -/
def gr : Grid := { newGrid gp.lrec 0 0 0 none 0 none false with next := 1, dies := [0] }

/-- The state after reset, running a word next. -/
def fetching (w : Nat) : State := State.reset.withFetchWord 32 w

/-- A team with listed registers in canonical form is canonical. -/
theorem canonical_of (t : Team) (h : 32 ≤ t.lanes ∧ t.lanes ≤ 1024) (hm : ∀ k, k < 16 → maskCanonical t.lanes (t.rm k) = true)
    (hv : t.v.all (fun p => p.2.isCanonical t.lanes) = true) : t.Canonical := by
  refine ⟨h, hm, fun r => ?_⟩
  have aux : ∀ (v : Tab VReg), v.all (fun p => p.2.isCanonical t.lanes) = true → (v.get (VReg.uniform 0) r).isCanonical t.lanes = true := by
    intro v
    induction v with
    | nil => intro _; rfl
    | cons p v ih =>
      obtain ⟨j, x⟩ := p
      intro hh
      simp only [List.all_cons, Bool.and_eq_true] at hh
      by_cases e : j = r
      · simpa [Tab.get, Tab.find?, e] using hh.1
      · have := ih hh.2
        simpa [Tab.get, Tab.find?, e] using this
  exact aux t.v hv

theorem canonical_tm : tm.Canonical := canonical_of _ (by decide) (by decide) (by decide)

/-- Whether an outcome is a next state. -/
def goes (o : Host.Outcome State Fault Refusal) : Bool := match o with | .next _ => true | _ => false

theorem next_of_goes {o : Host.Outcome State Fault Refusal} (h : goes o = true) : ∃ t, o = .next t := by
  cases o with
  | next t => exact ⟨t, rfl⟩
  | fault f => exact nomatch h
  | refused r => exact nomatch h

/-- What holds of an outcome's next state. -/
def next (o : Host.Outcome State Fault Refusal) (p : State → Bool) : Bool := match o with | .next t => p t | _ => false

/-- An answer that a check allows. -/
theorem ok_of {ε α : Type} [DecidableEq α] {x : Except ε α} {v : α} (h : (match x with | .ok w => decide (w = v) | .error _ => false) = true) :
    x = .ok v := by
  cases x with
  | ok w => exact congrArg _ (of_decide_eq_true h)
  | error e => exact nomatch h

/-! ## Encoding, the step and reset: states that meet the hypotheses -/

theorem witness_encodedWordsDecode : WellFormed (.sadd 3 1 2) ∧ encode (.sadd 3 1 2) = some 0x10304200#32 := by decide

theorem witness_decodedWordsEncode : decode 0x10304200#32 = .ok (.sadd 3 1 2) := by decide

theorem witness_printedWordsDecode : (0x1F ≤ major 0x7C000000#32 ∧ major 0x7C000000#32 ≤ 0x3E) ∧ (0x1F ≤ major 0xF8000000#32 ∧ major 0xF8000000#32 ≤ 0x3E) ∧
    major 0x7C000000#32 = 0x1F ∧ major 0xF8000000#32 = 0x3E := by decide

/-- A state whose cores' other teams of core 0 stand at the same word. -/
def twins (w : Nat) : State :=
  let s := fetching w
  { s with m := s.m.setCore 0 { s.m.core 0 with teams := [(0, (s.m.core 0).team 0), (1, (s.m.core 0).team 0)] }, agenda := [.issue 0 1] }

def wordOfInstr (i : Instr) : Nat := ((encode i).getD 0).toNat

theorem witness_stepRunsDecodedWord :
    (fetching 0x10304200).agenda = [.issue 0 0] ∧ (fetching 0x10304200).sys.frozen = false ∧ (fetching 0x10304200).turn ≤ issueKey ∧
    (((fetching 0x10304200).m.core 0).due (fetching 0x10304200).m.now 0).isNone = true ∧ (fetching 0x10304200).pick 0 = some 0 ∧
    nextOf (fetching 0x10304200) 0 0 = .run (.sadd 3 1 2) .scalar := by decide +kernel

theorem witness_stepRunsDecodedWord_others : (let s := twins 0x10304200
    s.agenda = [.issue 0 1] ∧ s.turn ≤ issueKey ∧ ((s.m.core 0).due s.m.now 0).isNone = true ∧ s.pick 0 = some 0 ∧ (0 : Nat) ≠ 1 ∧
    (List.map Prod.fst (s.m.core 0).teams).Nodup ∧ nextOf s 0 0 = .run (.sadd 3 1 2) .scalar ∧ nextOf s 0 1 = .run (.sadd 3 1 2) .scalar ∧
    (s.m.core 0).teams.has 1 = true) ∧ (∀ d a, Instr.sadd 3 1 2 ≠ .vbudget d a) := by
  exact ⟨by decide +kernel, nofun⟩

theorem witness_stepRunsDecodedWord_vbudget : (let s := twins (wordOfInstr (.vbudget 1 2))
    s.pick 0 = some 0 ∧ (s.m.teamAt 0 0).age = (s.m.teamAt 0 1).age ∧ (∃ sl, nextOf s 0 0 = .run (.vbudget 1 2) sl) ∧
    ∃ sl, nextOf s 0 1 = .run (.vbudget 1 2) sl) := by
  exact ⟨by decide +kernel, by decide +kernel, ⟨slotOfMajor (major (.ofNat 32 (wordOfInstr (.vbudget 1 2)))), by decide +kernel⟩,
    ⟨slotOfMajor (major (.ofNat 32 (wordOfInstr (.vbudget 1 2)))), by decide +kernel⟩⟩

def wSadd : Inst := 0x10304200#32
def sSadd : State := fetching 0x10304200
def tSadd : Team := (sSadd.m.core 0).team 0

/-- That state with its team changed. -/
def standing (w : Nat) (f : Team → Team) : State :=
  let s := fetching w
  { s with m := s.m.setCore 0 ((s.m.core 0).setTeam 0 (f ((s.m.core 0).team 0))) }

/-- Whether team 0 of core 0 may go on and fetches a word there. -/
def fetches (s : State) (k : Nat) (w : Inst) : Bool :=
  s.m.mayIssue 0 0 &&
    match fetchWord s ((s.m.core 0).group ((s.m.core 0).team 0).group).aspace (((s.m.core 0).team 0).pc + .ofNat 64 (4 * k)) with
    | .ok v => decide (v = w)
    | .error _ => false

/-- Whether the registers and the slot of an instruction are ready. -/
def isReady (s : State) (i : Instr) (w : Inst) : Bool :=
  let t := (s.m.core 0).team 0
  (t.needs i (slotOfMajor (major w))).all (fun r => !t.pending s.m.now r) && !t.heldBack s.m.now i && instrReady s.m 0 0 i &&
    (s.m.core 0).slotFree s.m.now (slotOfMajor (major w))

/-- Headers without and with a flag to await, REP of four steps that moves d and a by two, IMM, and the words behind them. -/
def wHdr : Inst := 0xFC000038#32
def wHdrA : Inst := 0xFC004038#32
def wRep : Inst := 0x08000383#32
def wImm : Inst := 0x0C012345#32
def wImmed : Inst := 0x14403FF8#32
/-- sadd 63 1 2. -/
def wSadd63 : Inst := 0x13F04200#32

theorem witness_nextWordIsAtThePc_head :
    (let s := standing 0xFC000038 ({ · with pos := 0 }); fetches s 0 wHdr = true ∧ ((s.m.core 0).team 0).pos = 0) ∧
    decode wHdr = .ok (.hdr 0 0 0 14) ∧ (∀ f, f < 12 → (0 : BitVec 12).getLsbD f = true → tm.flagCount f = 0) ∧ wHdr.toNat % 8 = 0 ∧
    (let s := standing 0xFC004038 ({ · with pos := 0, flags := [(0, 1)] }); fetches s 0 wHdrA = true ∧ ((s.m.core 0).team 0).pos = 0 ∧
      decode wHdrA = .ok (.hdr 1 0 0 14) ∧ (1 : BitVec 12).getLsbD 0 = true ∧ ((s.m.core 0).team 0).flagCount 0 ≠ 0) ∧
    (let s := standing 0x10304200 ({ · with pos := 0 }); fetches s 0 wSadd = true ∧ ((s.m.core 0).team 0).pos = 0 ∧ major wSadd ≠ 0x3F) := by
  decide +kernel

theorem witness_nextWordIsAtThePc :
    fetches sSadd 0 wSadd = true ∧ tSadd.pos ≠ 0 ∧ tSadd.repWord = none ∧ tSadd.immWord = none ∧ decode wSadd = .ok (.sadd 3 1 2) ∧
    major wSadd ≠ 0x02 ∧ major wSadd ≠ 0x03 ∧ major wSadd ≠ 0x3F ∧ tSadd.pos + 0 ≤ tSadd.len + 1 ∧ major wSadd ≠ 0 ∧
    isReady sSadd (.sadd 3 1 2) wSadd = true := by decide +kernel

/-- RET, a word that ends its clause, in the last place. -/
theorem witness_nextWordIsAtThePc_last :
    (let s := fetching 0x400000; let t := (s.m.core 0).team 0
     fetches s 0 0x400000#32 = true ∧ decode 0x400000#32 = .ok .ret ∧ major 0x400000#32 = 0 ∧ (0x400000#32 : Inst).toNat / 2 ^ 20 % 64 = 4 ∧
      t.pos = t.len + 1 ∧ isReady s .ret 0x400000#32 = true) := by decide +kernel

/-- Under IMM, a word with an immediate. -/
theorem witness_nextWordIsAtThePc_imm :
    (let s := standing 0x14403FF8 ({ · with immWord := some wImm })
     fetches s 0 wImmed = true ∧ decode wImmed = .ok (.saddImm 4 (-8)) ∧ (useOf (.saddImm 4 (-8))).imm = true ∧
      isReady s (.saddImm 4 (-8)) wImmed = true) := by decide +kernel

/-- Under REP: step 1 issues the word with its fields moved on by two; the step past the last one is passed over; and a field beyond 63. -/
theorem witness_nextWordIsAtThePc_rep :
    (let s := standing 0x10304200 ({ · with repWord := some wRep, repCnt := 1 })
     fetches s 0 wSadd = true ∧ decode wRep = .ok (.rep true true true false 3) ∧ (1 : Nat) ≤ (3 : BitVec 6).toNat ∧ 4 ≤ major wSadd ∧ major wSadd ≤ 0x17 ∧
      (useOf (.sadd 3 1 2)).d = true ∧ (useOf (.sadd 3 1 2)).a = true ∧ wSadd.toNat / 2 ^ 20 % 64 + 2 < 64 ∧ wSadd.toNat / 2 ^ 14 % 64 + 2 < 64 ∧
      wSadd.toNat / 2 ^ 8 % 64 + 0 < 64 ∧ (0x1050C200#32 : Inst).toNat = wSadd.toNat + 2 * 2 ^ 20 + 2 * 2 ^ 14 + 0 * 2 ^ 8 ∧
      decode 0x1050C200#32 = .ok (.sadd 5 3 2) ∧ isReady s (.sadd 5 3 2) 0x1050C200#32 = true) ∧
    (let s := standing 0x10304200 ({ · with repWord := some wRep, repCnt := 4 }); fetches s 0 wSadd = true ∧ (3 : BitVec 6).toNat < 4) ∧
    (let s := standing 0x13F04200 ({ · with repWord := some wRep, repCnt := 1 }); fetches s 0 wSadd63 = true ∧
      decode wSadd63 = .ok (.sadd 63 1 2) ∧ 64 ≤ wSadd63.toNat / 2 ^ 20 % 64 + 2) := by decide +kernel

/-- A prefix issues when the word behind it could. -/
theorem witness_nextWordIsAtThePc_prefix :
    (let s := fetching 0x08000383; let v : Inst := 0x10000000#32
     fetches s 0 wRep = true ∧ fetches s 1 v = true ∧ decode v = .ok (.sadd 0 0 0) ∧ ((s.m.core 0).team 0).repCnt = 0 ∧ major v = 4 ∧
      ((s.m.core 0).team 0).pos + 1 ≤ ((s.m.core 0).team 0).len + 1 ∧ isReady s (.sadd 0 0 0) v = true) ∧
    (let s := fetching 0x0C012345; let v : Inst := 0x14000000#32
     fetches s 0 wImm = true ∧ fetches s 1 v = true ∧ decode v = .ok (.saddImm 0 0) ∧ decode wImm = .ok (.imm 0x12345) ∧
      (useOf (.saddImm 0 0)).imm = true ∧ isReady s (.saddImm 0 0) v = true) := by decide +kernel

theorem witness_resetState : (63 : Nat) < 64 ∧ (State.reset.m.queue 63).ownPort = 1 := by decide

/-- A core with one sound team whose memories are in canonical form is sound. -/
theorem inv_of (s : State) (x : Core) (c p : Nat) (t : Team) (h : s.mem.wf = true) (hc : s.m.cores = [(c, x)]) (ht : x.teams = [(p, t)])
    (hx : (x.scratch.wf && x.tile.wf && x.accs.all (fun q => q.2.mem.wf)) = true) (h32 : 32 ≤ t.lanes ∧ t.lanes ≤ 1024)
    (hm : ∀ k, k < 16 → maskCanonical t.lanes (t.rm k) = true) (hv : t.v.all (fun p => p.2.isCanonical t.lanes) = true)
    (hs : t.stack.all (fun e => maskCanonical t.lanes e.saved && maskCanonical t.lanes e.pending) = true) : s.Inv := by
  simp only [Bool.and_eq_true, List.all_eq_true] at hx hs
  refine ⟨h, fun q hq => ?_⟩
  rw [hc, List.mem_singleton] at hq
  subst hq
  refine ⟨hx.1.1, hx.1.2, hx.2, fun r hr => ?_⟩
  rw [ht, List.mem_singleton] at hr
  subst hr
  exact ⟨canonical_of t h32 hm hv, hs⟩

theorem witness_stepKeepsInvariant : sSadd.Inv ∧ ∃ t, step sSadd = .next t :=
  ⟨inv_of _ (sSadd.m.core 0) 0 0 tSadd (by decide +kernel) (by decide +kernel) (by decide +kernel) (by decide +kernel) (by decide +kernel) (by decide +kernel)
    (by decide +kernel) (by decide +kernel), next_of_goes (by decide +kernel)⟩

theorem witness_wordsReachNoDeviceMemory : (encode .nop).isSome = true ∧ exec .nop State.reset = .next (State.reset.withTeam State.reset.team.retire) :=
  ⟨by decide, rfl⟩

/-! ## Scalar instructions -/

def tsc : Team := { tm with s := [(1, 7), (2, 0), (3, -3)] }

theorem witness_scalarProductsAndQuotients : (on tsc).reg 3 ≠ 0 ∧ (on tsc).reg 2 = 0 := by decide

theorem witness_scalarCompareAndSelect : (5 : BitVec 3).toNat < 6 ∧ 6 ≤ (6 : BitVec 3).toNat ∧ (1 : BitVec 3).toNat < 2 ∧
    (0x1C000076 : Inst).toNat / 2 ^ 26 = 7 ∧ (0x1C000076 : Inst).toNat / 2 ^ 7 % 2 = 0 ∧ 6 ≤ (0x1C000076 : Inst).toNat % 8 ∧
    (0x1FFFFF15 : Inst).toNat / 2 ^ 26 = 7 ∧ (0x1FFFFF15 : Inst).toNat / 2 ^ 7 % 2 = 0 ∧ (0x1FFFFF15 : Inst).toNat % 8 < 6 ∧
    (0x1FFFFF15 : Inst).toNat / 2 ^ 4 % 8 ≠ 0 := by decide

/-- R423: the register form adds; R415: s0 keeps zero. -/
theorem test_sadd : (match exec (.sadd 4 1 3) (on tsc) with | .next u => (u.team.rs 4, u.team.pc) | _ => (0, 0)) = (4, 0x1004) := by decide

theorem test_sadd_s0 : (match exec (.sadd 0 1 3) (on tsc) with | .next u => (u.team.rs 0, u.team.pc) | _ => (1, 0)) = (0, 0x1004) := by decide

/-- R428: −3 by 7 toward zero is 0, remainder −3. -/
theorem test_sdiv : (match exec (.sdiv 4 3 1 false) (on tsc) with | .next u => u.team.rs 4 | _ => 9) = 0 := by decide

theorem test_srem : (match exec (.srem 4 3 1 false) (on tsc) with | .next u => u.team.rs 4 | _ => 9) = -3 := by decide

theorem test_ssra : (match exec (.ssra 4 3 1) (on tsc) with | .next u => u.team.rs 4 | _ => 9) = -1 := by decide

theorem test_smulhu : (match exec (.smulhu 4 3 1) (on tsc) with | .next u => u.team.rs 4 | _ => 9) = 6 := by decide

/-- R425: the field at POS 1 of LEN 2 of 7 is 3, which is −1 when signed. -/
theorem test_sbfx : (match exec (.sbfx 4 1 5 false) (on { tsc with s := tsc.s ++ [(5, 65)] }) with | .next u => u.team.rs 4 | _ => 9) = -1 := by decide

/-! ## Control -/

theorem witness_nopPrefixesAndHeaderComplete :
    (on tm).team.repWord = none ∧ (let t : Team := { tm with repWord := some 0x08000002#32 }; t.repWord = some 0x08000002#32 ∧ t.repCnt < (0x08000002#32 : Inst).toNat % 64) ∧
    (let t : Team := { tm with repWord := some 0x08000002#32, repCnt := 2 }; (0x08000002#32 : Inst).toNat % 64 ≤ t.repCnt) ∧ (0 : BitVec 4).toNat % 2 = 0 ∧
    (14 : BitVec 4).toNat % 2 = 0 := by decide

def tbr : Team := { tm with s := [(1, 0x2000), (2, 0x2002), (62, 0x3000)] }

theorem witness_branchesComplete :
    (on tbr).team.Canonical ∧ ((on tbr).team.mode.toNat / 256 % 16 = 0) ∧ isClauseAddress ((on tbr).reg 1) ∧ ¬ isClauseAddress ((on tbr).reg 2) ∧
    isClauseAddress ((on tbr).reg 62) ∧ ¬ isClauseAddress ((on { tbr with s := [(62, 1)] }).reg 62) :=
  ⟨canonical_of _ (by decide) (by decide) (by decide), by decide, by unfold isClauseAddress; decide, by unfold isClauseAddress; decide,
    by unfold isClauseAddress; decide, by unfold isClauseAddress; decide⟩

/-- A guard m5 that holds no lane. -/
def tguard : Team := { tbr with mode := 0x500 }

theorem witness_branchesComplete_notTaken : (on tguard).team.Canonical ∧
    ¬ ((on tguard).team.mode.toNat / 256 % 16 = 0 ∨ ∃ l, l < (on tguard).team.lanes ∧ (on tguard).team.active l = true ∧ (on tguard).team.guardHolds l = true) := by
  refine ⟨canonical_of _ (by decide) (by decide) (by decide), ?_⟩
  have h : ∀ l, l < 32 → (on tguard).team.guardHolds l = false := by decide
  rintro (e | ⟨l, hl, -, g⟩)
  · exact absurd e (by decide)
  · rw [h l hl] at g
    exact absurd g (by decide)

/-- m1 holds the first two lanes. -/
def tdiv : Team := { tm with m := [(1, [⟨true, 2⟩, ⟨false, 32⟩])] }

theorem witness_divergingBranch : (on tdiv).team.Canonical ∧ (on tdiv).team.stack.length < 32 ∧
    3 * (on tdiv).team.lanes ≤ (on tdiv).team.free + ((on tdiv).team.rm 0).length ∧
    (tdiv.active 0 && maskAt (tdiv.rm 1) 0) = true ∧ (tdiv.active 2 && !maskAt (tdiv.rm 1) 2) = true :=
  ⟨canonical_of _ (by decide) (by decide) (by decide), by decide, by decide, by decide, by decide⟩

theorem witness_divergingBranch_noTaken : (on tdiv).team.Canonical ∧ (on tdiv).team.stack.length < 32 ∧ ∀ l, l < 32 → maskAt ((on tdiv).team.rm 3) l = false :=
  ⟨canonical_of _ (by decide) (by decide) (by decide), by decide, by decide⟩

/-- R381: with lanes 0 and 1 taken, m0 is theirs and the entry keeps the others. -/
theorem test_brd : (match exec (.brd 1 4) (on tdiv) with | .next u => (u.team.pc, u.team.rm 0, u.team.stack.map StackEntry.pending) | _ => (0, [], [])) =
    (0x1010, [⟨true, 2⟩, ⟨false, 32⟩], [[⟨false, 2⟩, ⟨true, 32⟩]]) := by decide

def tjoin (rec : Bool) : Team := { tm with stack := [⟨rec, [⟨true, 32⟩], [⟨false, 2⟩, ⟨true, 32⟩], 0x4000⟩] }

theorem witness_joinCompletes :
    ((on tm).team.stack = [] ∧ (on tm).team.spilled = []) ∧
    ((on (tjoin true)).team.stack = [⟨true, [⟨true, 32⟩], [⟨false, 2⟩, ⟨true, 32⟩], 0x4000⟩]) ∧
    ((on (tjoin false)).team.stack = [⟨false, [⟨true, 32⟩], [⟨false, 2⟩, ⟨true, 32⟩], 0x4000⟩] ∧
      2 ≤ (on (tjoin false)).team.free + ((on (tjoin false)).team.rm 0).length) := by decide

theorem witness_teamsEndAndWait : (on tm).team.held = none ∧ (on tm).group.phase = .resident ∧
    (∀ p ∈ (on tm).core.teams, p.2.group = (on tm).team.group → p.1 ≠ (on tm).m.cur.place → p.2.phase = .exited) ∧ (on tm).core.attach = false ∧
    (onCore { coreOf tm with attach := true }).core.attach = true ∧ (onCore { coreOf tm with attach := true }).team.held = none := by decide

/-- R340: element type 11 and rounding 5 are the highest allowed. -/
theorem witness_modeWrites :
    ((0x5D000 : Nat) / 2 ^ 15 % 16 < 12 ∧ (0x5D000 : Nat) / 2 ^ 12 % 8 < 6) ∧ ¬ ((0x60000 : Nat) / 2 ^ 15 % 16 < 12) ∧ ¬ ((0x6000 : Nat) / 2 ^ 12 % 8 < 6) := by decide

theorem test_mode : (match exec (.mode 0x30 0x55000) (on { tm with mode := 0x21 }) with | .next u => u.team.mode | _ => 0) = 0x55021 := by decide

theorem test_mode_reserved : (match exec (.mode 0x20 0x60000) (on { tm with trapVec := 0x8000 }) with
    | .next u => (u.team.mode, u.team.trapCause.toNat % 256, u.team.trapInfo) | _ => (1, 0, 0)) = (0, 2, 0x06060000) := by decide

/-! ## Traps -/

def ttrap : Team := { tm with trapVec := 0x8000 }
def thandler : Team := { ttrap with trapCause := wordOf [(63, 1), (48, 3), (32, 56), (0, 11)], trapPc := 0x100C, trapClause := some 0x1000 }

theorem witness_trapGoesToHandler : (255 : Nat) < 256 ∧ (on ttrap).team.wordPos < 16 ∧ (on ttrap).team.trapCause.getLsbD 63 = false ∧
    (on ttrap).team.trapVec ≠ 0 ∧ (on ttrap).team.held = none := by decide

/-- The team holds task 2, which is RUNNING. -/
def onTask (t : Team) : State := onCore { coreOf { t with held := some 2 } with scratch := Mem.writeD [] 128 (.ofNat 64 (3 * 2 ^ 61)) }

theorem witness_trapGoesToHandler_task : (let s := onTask ttrap
    s.team.trapCause.getLsbD 63 = false ∧ s.team.trapVec ≠ 0 ∧ s.team.held = some 2 ∧ (s.core.readSp s.group 128).toNat / 2 ^ 61 = 3 ∧
      (20 : Nat) < 256 ∧ (20 : Nat) ≠ 15 ∧ (20 : Nat) ≠ 16) ∧ 8 < (on { ttrap with pos := 12 }).team.wordPos ∧ (on { ttrap with pos := 8 }).team.wordPos ≤ 8 := by
  decide +kernel

/-- R263: the block becomes FAULTED with the cause in FAULT. -/
theorem test_trap_task : (let s := (onTask ttrap).trapped 20 0
    (s.core.readSp s.group 128).toNat) = 5 * 2 ^ 61 + 20 * 2 ^ 40 := by decide +kernel

theorem witness_trapWithoutHandlerTerminates :
    ((on tm).team.wordPos < 16 ∧ (on tm).team.trapCause.getLsbD 63 = false ∧ (on tm).team.trapVec = 0) ∧
    ((on thandler).team.wordPos < 16 ∧ (on thandler).team.trapCause.getLsbD 63 = true) ∧ (∀ f, f < 13 → (on tm).team.flagCount f = 0) ∧
    (on { tm with flags := [(12, 1)] }).team.flagCount 12 ≠ 0 := by decide

theorem witness_trapWithoutHandlerTerminates_task : (let s := { onTask tm with m := { (onTask tm).m with grids := [(1, gr)] } }
    s.team.trapVec = 0 ∧ s.team.held = some 2 ∧ (s.core.readSp s.group 128).toNat / 2 ^ 61 = 3 ∧ s.m.grids.find? s.group.grid = some gr) := by
  decide +kernel

theorem witness_trapInstructionsTrap :
    ((on ttrap).team.trapCause.getLsbD 63 = false ∧ (on ttrap).team.trapVec ≠ 0 ∧ (on ttrap).core.attach = false ∧ (on ttrap).team.retire.pos < 16) ∧
    (onCore { coreOf ttrap with attach := true }).core.attach = true ∧ (onCore { coreOf ttrap with attach := true }).team.trapVec ≠ 0 ∧
    (16 : BitVec 8).toNat = 16 ∧ (15 : BitVec 8).toNat = 15 ∧ (1 ≤ (1 : BitVec 8).toNat ∧ (1 : BitVec 8).toNat ≤ 20) ∧
    (1 ≤ (20 : BitVec 8).toNat ∧ (20 : BitVec 8).toNat ≤ 20) ∧ (0 : BitVec 8).toNat = 0 ∧ 20 < (21 : BitVec 8).toNat := by decide

/-- R276, R431: SYSC traps with code 16 behind its own word. -/
theorem test_sysc : (match exec (.sysc 5) (on ttrap) with
    | .next u => (u.team.pc, u.team.trapPc, u.team.trapInfo, u.team.trapCause) | _ => (0, 0, 0, 0)) =
    (0x8000, 0x1004, 5, wordOf [(63, 1), (48, 2), (32, 56), (0, 16)]) := by decide

theorem witness_returnFromHandler :
    (on ttrap).team.trapCause.getLsbD 63 = false ∧ (on thandler).team.trapCause.getLsbD 63 = true ∧ (on thandler).team.trapClause = some 0x1000 ∧
    (on thandler).team.trapCause.toNat / 2 ^ 48 % 16 ≠ 0 ∧
    (on { thandler with trapCause := wordOf [(63, 1), (0, 11)] }).team.trapCause.toNat / 2 ^ 48 % 16 = 0 := by decide

/-- R277: the return resumes at word 3 of the clause that trapped. -/
theorem test_eret : (match exec .eret (on thandler) with
    | .next u => (u.team.pc, u.team.pos, u.team.trapCause.getLsbD 63) | _ => (0, 0, true)) = (0x100C, 3, false) := by decide

theorem witness_systemRegisters : isClauseAddress ((on tbr).reg 1) ∧ ¬ isClauseAddress ((on tbr).reg 2) ∧
    ((0 : Reg).toNat ≤ 16 ∧ (0 : Reg) ≠ 8 ∧ (0 : Reg) ≠ 9 ∧ (0 : Reg) ≠ 11 ∧ (0 : Reg) ≠ 12) ∧ ((16 : Reg).toNat ≤ 16 ∧ (16 : Reg) ≠ 8) := by unfold isClauseAddress; decide

/-! ## Vector instructions -/

/-- The team with an element type in MODE (R339): v1 a general register of two runs, v2 an affine one, v3 uniform. -/
def tv (e : Nat) : Team :=
  { tm with mode := .ofNat 64 (e * 2 ^ 15), s := [(1, 5), (2, 21), (3, -1)],
            v := [(1, ⟨false, .g [⟨3, 4⟩, ⟨0xFFFFFFFE, 32⟩]⟩), (2, ⟨false, .a 10 2⟩), (3, ⟨false, .u 0x3F800000⟩)] }

theorem canonical_tv (e : Nat) : (tv e).Canonical :=
  canonical_of _ (by simp only [tv, tm, Team.blank]; decide) (by simp only [Team.rm, tv, tm, Team.blank]; decide)
    (by simp only [tv, tm, Team.blank]; decide)

theorem witness_vectorIntegerArithmetic :
    ((on (tv 0)).team.Canonical ∧ (on (tv 0)).team.etype = 0 ∧ (on (tv 0)).team.Room 15 false) ∧
    ((on (tv 7)).team.Canonical ∧ (on (tv 7)).team.etype = 7 ∧ (on (tv 7)).team.Room 0 true) ∧ (15 : Nat) < (on (tv 0)).team.nv :=
  ⟨⟨canonical_tv 0, by decide, by unfold Team.Room; decide⟩, ⟨canonical_tv 7, by decide, by unfold Team.Room; decide⟩, by decide⟩

theorem witness_vectorFloatArithmetic :
    ((on (tv 8)).team.Canonical ∧ (on (tv 8)).team.etype = 8 ∧ (on (tv 8)).team.Room 15 false ∧ (on (tv 8)).team.trapEn = 0) ∧
    ((on (tv 11)).team.Canonical ∧ (on (tv 11)).team.etype = 11 ∧ (on (tv 11)).team.Room 0 true ∧ (on (tv 11)).team.trapEn = 0) :=
  ⟨⟨canonical_tv 8, by decide, by unfold Team.Room; decide, by decide⟩, ⟨canonical_tv 11, by decide, by unfold Team.Room; decide, by decide⟩⟩

/-- FP32 with the trap of invalid enabled: v1 holds a signalling NaN from lane 4 on, v2 1.0. -/
def tnan : Team :=
  { tm with mode := .ofNat 64 (10 * 2 ^ 15 + 16), v := [(1, ⟨false, .g [⟨0x3F800000, 4⟩, ⟨0x7F800001, 32⟩]⟩), (2, ⟨false, .u 0x3F800000⟩)] }

theorem canonical_tnan : tnan.Canonical := canonical_of _ (by decide) (by decide) (by decide)

theorem witness_floatTraps : (on tnan).team.Canonical ∧ (on tnan).team.etype = 10 ∧ (on tnan).team.Room 15 false ∧
    (on tnan).team.trapEn.testBit 4 = true ∧ (4 : Nat) < (on tnan).team.lanes ∧ (on tnan).team.active 4 = true ∧
    fpSignalling 10 ((on tnan).team.elem ((on tnan).team.rv 1) 4) = true ∧
    (∀ j, j < 4 → (on tnan).team.active j = true → fpSignalling 10 ((on tnan).team.elem ((on tnan).team.rv 1) j) = false) :=
  ⟨canonical_tnan, by decide, by unfold Team.Room; decide, by decide, by decide, by decide, by decide, by decide⟩

/-- The trap's cause, its TRAPINFO and v4's first lane after an instruction of that team, with a handler. -/
def nanTrap (i : Instr) : Nat × Word × Word :=
  match exec i (on { tnan with trapVec := 0x8000 }) with
  | .next u => (u.team.trapCause.toNat % 256, u.team.trapInfo, (u.team.rv 4).lane 32 0)
  | _ => (0, 0, 1)

/-- R116, R117, R274: FP_EXCEPTION with the lowest lane in bits 31 to 16 and the enabled flags in bits 4 to 0, and no effect. -/
theorem test_fp_exception :
    nanTrap (.vadd 4 1 2) = (12, 0x40010, 0) ∧ nanTrap (.vneg 4 1) = (12, 0x40010, 0) ∧ nanTrap (.vfma 4 1 2 2 false false) = (12, 0x40010, 0) ∧
    nanTrap (.vrcp 4 1 false) = (12, 0x40010, 0) ∧ nanTrap (.vcmp 4 1 2 false 0) = (12, 0x40010, 0) ∧ nanTrap (.vred 4 1 0) = (12, 0x40010, 0) := by
  decide +kernel

/-- With no trap enabled no lane traps. -/
theorem untrapped_of (t : Team) (em : Nat → Bool) (lane : Nat → Nat × Nat) (h : t.trapEn = 0) : t.Untrapped em lane := by
  intro l _ _
  rw [h]
  exact Nat.and_zero _

theorem witness_vectorUnaryFunctions : (on (tv 11)).team.Canonical ∧ (on (tv 11)).team.etype < 12 ∧ (on (tv 11)).team.Room 15 true ∧
    (15 : Nat) < (on (tv 11)).team.nv ∧ 8 ≤ (on (tv 11)).team.etype ∧ (on (tv 7)).team.etype < 8 ∧ (on (tv 7)).team.Room 15 true ∧
    (on (tv 11)).team.Untrapped (on (tv 11)).team.active (signOp 11 (on (tv 11)).team.flush false) :=
  ⟨canonical_tv 11, by decide, by unfold Team.Room; decide, by decide, by decide, by decide, by unfold Team.Room; decide, untrapped_of _ _ _ (by decide)⟩

theorem witness_vectorMovesAndKeys : (on (tv 10)).team.Canonical ∧ (on (tv 10)).team.etype < 12 ∧ 8 ≤ (on (tv 10)).team.etype ∧
    (on (tv 3)).team.etype < 8 ∧ (on (tv 10)).team.Room 15 true ∧ (1 ≤ ((on (tv 10)).team.rs 1).toNat ∧ ((on (tv 10)).team.rs 1).toNat ≤ 21) ∧
    ((on (tv 10)).team.rs 2).toNat = 21 ∧ 13 + 2 < (on (tv 10)).team.nv ∧ 14 + 1 < (on (tv 10)).team.nv :=
  ⟨canonical_tv 10, by decide, by decide, by decide, by unfold Team.Room; decide, by decide, by decide, by decide, by decide⟩

theorem witness_specialFunctionsAndConversions : (on (tv 8)).team.Canonical ∧ 8 ≤ (on (tv 8)).team.etype ∧ (on (tv 11)).team.etype < 12 ∧
    (on (tv 8)).team.Room 15 true ∧ (15 : Nat) < (on (tv 8)).team.nv ∧ fmtBits 21 ≠ 0 ∧ fmtBits 0 ≠ 0 ∧ fmtBits 16 ≠ 0 :=
  ⟨canonical_tv 8, by decide, by decide, by unfold Team.Room; decide, by decide, by decide, by decide, by decide⟩

theorem witness_maskInstructions : (on (tv 2)).team.Canonical ∧ (on (tv 2)).team.RoomM 15 ∧ (15 : BitVec 6).toNat < 16 ∧ (on (tv 2)).team.etype < 8 ∧
    8 ≤ (on (tv 8)).team.etype ∧ (5 : BitVec 3).toNat < 6 ∧ (15 : Nat) < (on (tv 2)).team.nv :=
  ⟨canonical_tv 2, by unfold Team.RoomM; decide, by decide, by decide, by decide, by decide, by decide⟩

/-- A team whose m0 leaves out lane 3. -/
def tinactive : Team := { tv 2 with m := [(0, [⟨true, 3⟩, ⟨false, 4⟩, ⟨true, 32⟩])], s := [(1, 3), (2, -1), (3, 1000), (4, -400)] }

theorem witness_runManagement : (on (tv 2)).team.Canonical ∧ (on (tv 2)).team.Room 15 true ∧ (on (tv 2)).team.active 5 = true ∧
    (on tinactive).team.Canonical ∧ (on tinactive).team.active ((on tinactive).team.rs 1).toNat = false ∧
    ((0 ≤ ((on tinactive).team.rs 1).toInt ∧ ((on tinactive).team.rs 1).toInt ≤ (on tinactive).core.poolFree)) ∧
    (((on tinactive).team.rs 2).toInt < 0 ∧ -((on tinactive).team.rs 2).toInt ≤ (on tinactive).team.free) ∧
    ¬ (-((on tinactive).team.rs 4).toInt ≤ (on tinactive).team.free) :=
  ⟨canonical_tv 2, by unfold Team.Room; decide, by decide, canonical_of _ (by decide) (by decide) (by decide), by decide, by decide, by decide, by decide⟩

theorem witness_reductionsAndScans : (on (tv 2)).team.Canonical ∧ (on (tv 2)).team.Room 15 true ∧ (on (tv 0)).team.etype < 8 ∧ (on (tv 7)).team.etype < 8 ∧
    8 ≤ (on (tv 8)).team.etype ∧ (on (tv 11)).team.etype < 12 ∧ (on (tv 8)).team.trapEn = 0 ∧ (4 : BitVec 3).toNat < 5 ∧ (2 : BitVec 3).toNat < 3 :=
  ⟨canonical_tv 2, by unfold Team.Room; decide, by decide, by decide, by decide, by decide, by decide, by decide, by decide⟩

/-- A team whose slots are nearly all taken: v1 has four runs, and one slot is left beside v0's own. -/
def tfull : Team := { tv 2 with allot := 37, v := [(1, ⟨false, .g [⟨1, 1⟩, ⟨2, 2⟩, ⟨3, 3⟩, ⟨4, 32⟩]⟩)] }

def runs4 : List Run := [⟨1, 1⟩, ⟨2, 2⟩, ⟨3, 3⟩, ⟨4, 32⟩]

theorem witness_vectorTraps : (on (tv 2)).team.nv ≤ (16 : Reg).toNat ∧ 8 ≤ (on (tv 8)).team.etype ∧ (0 : Nat) < (on tfull).team.nv ∧ (on tfull).team.Canonical ∧
    (on tfull).team.etype < 8 ∧ (∀ l, l < (on tfull).team.lanes → (on tfull).team.active l = true) ∧ (on tfull).team.repCnt < 64 ∧
    (on tfull).team.rv 1 = ⟨decide (fmtBits (on tfull).team.etype = 64), .g runs4⟩ ∧ mergeRuns runs4 = runs4 ∧
    (∀ r ∈ runs4, r.val.toNat < 2 ^ fmtBits (on tfull).team.etype) ∧ runs4.length ≤ 16 ∧ (on tfull).team.free + ((on tfull).team.rv 0).cost < 4 :=
  ⟨by decide, by decide, by decide, canonical_of _ (by decide) (by decide) (by decide), by decide, by decide, by decide, by decide, by decide, by decide,
    by decide, by decide⟩

theorem witness_vectorTraps_special : (on (tv 7)).team.etype < 8 ∧ (on (tv 0)).team.etype < 8 := by decide

/-- A vector result that does not fit: v1 of that team has four runs. -/
theorem witness_vectorTraps_vector : (on tfull).team.Canonical ∧ (on tfull).team.etype < 8 ∧ (∃ rs, ((on tfull).team.rv 1).shape = .g rs) ∧
    ((List.range (on tfull).team.lanes).filter fun l => (on tfull).team.active l && (on tfull).team.edge ((on tfull).team.rv 1) l).length ≤ 16 ∧
    (on tfull).team.free + ((on tfull).team.rv 0).cost < 4 :=
  ⟨canonical_of _ (by decide) (by decide) (by decide), by decide, ⟨runs4, by decide⟩, by decide, by decide⟩

/-- A team whose 16 registers, 16 masks and the runs of m2 leave no slot. -/
def tmasks : Team := { tm with nv := 16, allot := 34, m := [(2, [⟨true, 1⟩, ⟨false, 2⟩, ⟨true, 32⟩])] }

theorem witness_vectorTraps_mask : (on tmasks).team.Canonical ∧ (on tmasks).team.free + ((on tmasks).team.rm 1).length < 3 ∧
    (on tmasks).team.stack.length < 32 ∧ ((on tmasks).team.active 0 && maskAt ((on tmasks).team.rm 2) 0 && (on tmasks).team.guardHolds 0) = true ∧
    (∀ l, l < (on tmasks).team.lanes → ((on tmasks).team.active l && maskAt ((on tmasks).team.rm 3) l && (on tmasks).team.guardHolds l) = false) ∧
    (on tmasks).team.free + ((on tmasks).team.rm 0).length < 3 :=
  ⟨canonical_of _ (by decide) (by decide) (by decide), by decide, by decide, by decide, by decide, by decide⟩

/-- The cause and TRAPINFO of a team with a handler after an instruction. -/
def trapOf (i : Instr) (s : State) : Nat × Word :=
  match exec i s with
  | .next u => (u.team.trapCause.toNat % 256, u.team.trapInfo)
  | _ => (0, 0)

/-- R89: NEEDED in bits 63 to 48, AVAILABLE in 47 to 32, KIND in 9 and 8, the register below. -/
theorem test_run_overflow :
    trapOf (.vmov 0 1) (on { tfull with trapVec := 0x8000 }) = (4, wordOf [(48, 4), (32, (on tfull).team.free + 1), (8, 0), (0, 0)]) ∧
    trapOf (.mmov 1 2) (on { tmasks with trapVec := 0x8000 }) = (4, wordOf [(48, 3), (32, (on tmasks).team.free + 1), (8, 1), (0, 1)]) ∧
    trapOf (.brd 3 4) (on { tmasks with trapVec := 0x8000 }) = (4, wordOf [(48, 3), (32, (on tmasks).team.free + 1), (8, 2), (0, 0)]) := by decide +kernel

/-- A team with a spilled entry of three runs and fewer slots left; its private area starts behind the shared kilobyte. -/
def onSpill : State :=
  let t := { tmasks with trapVec := 0x8000, spilled := [0], spillEnd := 40 }
  onCore { coreOf t with
    scratch := (((Mem.writeD [] 1024 (.ofNat 64 (2 ^ 63 + 0x4000))).writeD 1032 (wordOf [(32, 1), (0, 2)])).writeD 1040 (wordOf [(16, 1), (0, 32)])).writeD
      1048 (wordOf [(0, 2)]) |>.writeD 1056 (wordOf [(16, 1), (0, 32)]) }

theorem witness_vectorTraps_reload : onSpill.team.stack = [] ∧ onSpill.team.spilled = [0] ∧ onSpill.team.free < 3 ∧
    (match parseEntry (fun i => onSpill.core.readSp onSpill.group (onSpill.group.privBase onSpill.team.tid + 0 + 8 * i)) onSpill.team.lanes
        (onSpill.group.privSize - 0) with
      | some v => decide (v.saved.length = 1 ∧ v.pending.length = 2)
      | none => false) = true := by decide +kernel

theorem test_run_overflow_reload : trapOf .join onSpill = (4, wordOf [(48, 3), (32, onSpill.team.free), (8, 3)]) := by decide +kernel

/-- Segments of the float register of `tnan`: lanes 0 to 4 and 4 to 32. -/
theorem witness_reductionsAndScans_segment : (on tnan).team.oneSegment ((on tnan).team.rv 1) 0 4 ∧ (on tnan).team.active 0 = true ∧
    (on tinactive).team.oneSegment ((on tinactive).team.rv 1) 3 4 ∧ (on tinactive).team.active 3 = false ∧ (5 : BitVec 3).toNat = 5 := by
  unfold Team.oneSegment
  exact ⟨⟨by decide, by decide, by decide, by decide, fun k h1 h2 => (by decide : ∀ k, k < 4 → 0 < k → (on tnan).team.edge ((on tnan).team.rv 1) k = false) k h2 h1⟩, by decide, ⟨by decide, by decide, by decide, by decide, by omega⟩, by decide, by decide⟩

/-- Lane l of v4 and v4's slot cost after an instruction. -/
def v4 (e : Nat) (i : Instr) (l : Nat) : Word × Nat := match exec i (on (tv e)) with | .next u => ((u.team.rv 4).lane 32 l, (u.team.rv 4).cost) | _ => (0, 0)

/-- R442 on INT32: 10 + 2·5 = 20 and −2 in lane 5 give 18, in 29 runs or fewer; R79: an affine sum is affine, with two slots. -/
theorem test_vadd : (v4 2 (.vadd 4 1 2) 5).1 = 18 ∧ v4 2 (.vadd 4 2 2) 5 = (40, 2) := by decide +kernel

theorem test_vmul : (v4 2 (.vmul 4 1 1) 31).1 = 4 ∧ (v4 2 (.vmul 4 1 1) 0).1 = 9 := by decide +kernel

theorem test_vshr_signed : (v4 2 (.vshrScalar 4 1 1) 31).1 = 0xFFFFFFFF ∧ (v4 6 (.vshrScalar 4 1 1) 31).1 = 0x07FFFFFF := by decide +kernel

/-- 1.0 + 1.0 = 2.0 in FP32. -/
theorem test_vadd_fp32 : v4 10 (.vadd 4 3 3) 9 = (0x40000000, 1) := by decide +kernel

theorem test_viota : v4 2 (.viota 4) 31 = (31, 2) := by decide +kernel

/-- R87: the sum over the lanes of the affine register is 32·10 + 2·496 = 1312. -/
theorem test_vred : v4 2 (.vred 4 2 0) 7 = (1312, 1) := by decide +kernel

theorem test_vrot : (v4 2 (.vrot 4 2 1) 30).1 = 16 := by decide +kernel

theorem test_vclz : (v4 2 (.vclz 4 1) 0).1 = 30 ∧ (v4 2 (.vclz 4 1) 31).1 = 0 := by decide +kernel

/-- R446: lanes 0 to 3 of v1 are greater than 0. -/
theorem test_vcmp : (match exec (.vcmp 2 1 0 true 4) (on (tv 2)) with | .next u => u.team.rm 2 | _ => []) = [⟨true, 4⟩, ⟨false, 32⟩] := by decide +kernel

/-! ## Local memory -/

/-- s1 is an offset, s2 a scratchpad pointer to the same byte, s3 a misaligned offset, s4 one past the end, s5 a tile-store pointer. -/
def tmem : Team :=
  { tm with s := [(1, 64), (2, 0x9000000000000040), (3, 66), (4, 4096), (5, 0xB000000000000000), (6, 4092), (7, 0x1000), (9, 0xC000000000000000),
                  (10, 0x1122334455667788), (11, 16384)],
            v := [(1, ⟨false, .a 0 4⟩), (2, ⟨false, .g [⟨7, 4⟩, ⟨9, 32⟩]⟩)] }

theorem canonical_tmem : (on tmem).team.Canonical := canonical_of _ (by decide) (by decide) (by decide)

def sMem : State := on tmem

theorem witness_loadsComplete_scratch :
    sMem.m.reachOf .scratch (sMem.reg 1) = .ok (sMem.m.reachSp, 64) ∧ sMem.team.Canonical ∧ (15 : Nat) < sMem.team.nv ∧ sMem.team.Room 15 true ∧
    ∀ l, l < sMem.team.lanes → accessAllowed sMem sMem.m.reachSp 4 false (laneOffset sMem 64 1 true l) ∧
      (sMem.m.core 0).uncorrectable false (sMem.m.phys sMem.m.reachSp (laneOffset sMem 64 1 true l) / 8) = false :=
  ⟨rfl, canonical_tmem, by decide, by unfold Team.Room; decide, by unfold accessAllowed; decide +kernel⟩

theorem witness_loadsComplete_last : accessAllowed sMem sMem.m.reachSp 4 false (laneOffset sMem 4092 0 false 0) ∧ sMem.reg 6 = 4092 := by
  unfold accessAllowed; decide +kernel

theorem witness_loadsComplete_tile : sMem.m.reachOf .tile (sMem.reg 1) = .ok (sMem.m.reachTile, 64) ∧ accessAllowed sMem sMem.m.reachTile 8 false 64 :=
  ⟨rfl, by unfold accessAllowed; decide +kernel⟩

/-- The reach of the cluster window's core 0 and of the pointer in s2. -/
def reachC : Reach := { core := 0, group := 0, tile := false, base := 0, limit := 4096, cluster := true }

/-- The same team in a group of a set of two (R43). -/
def sColoc : State := onCore { coreOf tmem with groups := [(0, { gp with lrec := { gp.lrec with coloc := 1 } })] }

theorem witness_loadsComplete_cluster : sColoc.m.reachOf .cluster (sColoc.reg 1) = .ok (reachC, 64) ∧ accessAllowed sColoc reachC 8 false 64 :=
  ⟨ok_of (by decide +kernel), by unfold accessAllowed; decide +kernel⟩

theorem witness_loadsComplete_pointer : sMem.m.reachOf .pointer (sMem.reg 2) = .ok (sMem.m.reachSp, 64) ∧
    sMem.m.reachOf .pointer (sMem.reg 5) = .ok (sMem.m.reachTile, 0) := ⟨ok_of (by decide +kernel), ok_of (by decide +kernel)⟩

theorem witness_storesEnterTheQueue : accessAllowed sMem sMem.m.reachSp 4 true (laneOffset sMem 64 1 true 31) ∧
    accessAllowed sMem sMem.m.reachTile 8 true 64 ∧ accessAllowed sColoc reachC 1 true 67 ∧
    ((List.range 32).filter fun l => sMem.team.active l && sMem.team.guardHolds l) ≠ [] ∧
    ((List.range 32).filter fun l => (on tguard).team.active l && (on tguard).team.guardHolds l) = [] := by
  unfold accessAllowed; decide +kernel

/-- A store to the bytes 8 and 9 of the scratchpad, whose word 1 is left to write. -/
def storeOf (cluster : Bool) : QueuedStore := ⟨0, false, cluster, [(8, 1), (9, 2)], 0, 0, [1], false⟩

/-- The state at cycle 1 in which a team has that store at the head of its queue, or in flight. -/
def queuedOn (t : Team) : State := { on t with m := { (on t).m with now := 1 } }
def sQueued (cluster : Bool) : State := queuedOn { tm with storeQ := [storeOf cluster] }
def sFlight : State := queuedOn { tm with flight := [storeOf true] }

theorem witness_storesArePerformed : ((sQueued true).m.core 0).teams.find? 0 = some { tm with storeQ := [storeOf true] } ∧
    (storeOf true).entered < (sQueued true).m.now ∧ ((sQueued false).m.core 0).teams.find? 0 = some { tm with storeQ := [storeOf false] } ∧
    (((sQueued false).m.core 0).serveStore (storeOf false) BankUse.idle).1 = [] ∧ (storeOf false).left = [1] ∧ ((sQueued false).m.core 0).use = BankUse.idle ∧
    ((sQueued false).m.core 0).tileTests = [] ∧ (sFlight.m.teamAt 0 0).flight ≠ [] := by decide +kernel

/-- Two words of one bank, of which one is served a cycle. -/
def storeTwo : QueuedStore := ⟨0, false, false, [(8, 1), (1032, 2)], 0, 0, [1, 129], false⟩

theorem witness_storesArePerformed_waits : let s := queuedOn { tm with storeQ := [storeTwo] }
    ((s.m.core 0).serveStore storeTwo (s.m.core 0).use).1 ≠ [] ∧ storeTwo.entered < s.m.now := by decide +kernel

theorem test_storePerform : next (exec (.storePerform 0 0) (sQueued false))
    (fun u => (u.m.core 0).scratch == [⟨8, 1⟩, ⟨9, 2⟩] && (u.m.teamAt 0 0).storeQ == []) = true := by decide +kernel

theorem test_clusterStore : next (exec (.storePerform 0 0) (sQueued true)) (fun u => (u.m.core 0).scratch == [] && (u.m.teamAt 0 0).flight == [storeOf true]) = true ∧
    next (exec (.clusterStoreAck 0 0) sFlight) (fun u => (u.m.core 0).scratch == [⟨8, 1⟩, ⟨9, 2⟩] && (u.m.teamAt 0 0).flight == []) = true := by decide +kernel

theorem witness_localAccessTraps :
    (sMem.m.reachOf .scratch (sMem.reg 3) = .ok (sMem.m.reachSp, 66) ∧ (66 : Int) + sMem.team.localOff false 0 = 66 ∧ (66 : Int) % 4 ≠ 0) ∧
    (sMem.m.reachOf .scratch (sMem.reg 4) = .ok (sMem.m.reachSp, 4096) ∧ (4096 : Int) % 4 = 0 ∧ (sMem.m.reachSp.limit : Int) < 4096 + 4) ∧
    (sMem.m.reachOf .tile (sMem.reg 11) = .ok (sMem.m.reachTile, 16384) ∧ (sMem.m.reachTile.limit : Int) < 16384 + 1) ∧
    (∃ l, l < sMem.team.lanes ∧ sMem.team.active l = true ∧ sMem.team.guardHolds l = true) ∧
    (sMem.reg 7).toNat / 2 ^ 60 = 0 ∧ (sMem.reg 10).toNat / 2 ^ 60 = 1 ∧ (sMem.reg 9).toNat / 2 ^ 60 = 12 :=
  ⟨⟨rfl, by decide, by decide⟩, ⟨rfl, by decide, by decide⟩, ⟨rfl, by decide⟩, ⟨0, by decide, by decide, by decide⟩, by decide, by decide, by decide⟩

theorem witness_atomicUpdates : sMem.m.reachPtr (sMem.reg 2) = .ok sMem.m.reachSp ∧ sMem.team.Room 14 true ∧ (14 : Nat) + 1 < sMem.team.nv ∧
    (7 : BitVec 4).toNat < 8 ∧ (∀ l, l < 32 → accessAllowed sMem sMem.m.reachSp 4 true
      ((ptrOff (sMem.reg 2) : Int) + (((sMem.team.rv 1).lane 32 l).setWidth 32).toInt)) ∧
    ∀ l, l < 32 → accessAllowed sMem sMem.m.reachSp 8 true (ptrOff (sMem.reg 2) : Int) :=
  ⟨ok_of (by decide +kernel), by unfold Team.Room; decide, by decide, by decide, by unfold accessAllowed; decide +kernel, by unfold accessAllowed; decide +kernel⟩

/-- R374: 32 lanes add 7 four times and 9 twenty-eight times to one word, and lane 1 sees lane 0's sum. -/
theorem test_atom : next (exec (.atom 2 2 0 0 false false false false) sMem)
    (fun u => (u.m.core 0).scratch.readN 64 4 == 280 && (u.team.rv 2).lane 32 1 == 7) = true := by decide +kernel

/-- R405: four bytes at 64 + 4·l in lane l, zero-extended; the word 0x80 stands at 76. -/
theorem test_lds : next (exec (.lds 3 1 1 2 true false false) (onCore { coreOf tmem with scratch := [⟨76, 0x80⟩] }))
    (fun u => (u.team.rv 3).lane 32 3 == 0x80 && (u.team.rv 3).lane 32 4 == 0) = true := by decide +kernel

/-- R136: TRAPINFO is the offset. -/
theorem test_lds_misaligned : next (exec (.lds 12 3 0 2 false true false) (on { tmem with trapVec := 0x8000 }))
    (fun u => u.team.trapInfo == 66 && u.team.trapCause.toNat % 256 == 10) = true := by decide +kernel

theorem test_ld_private_window : next (exec (.ld 12 10 0 2 false true false) (on { tmem with trapVec := 0x8000 }))
    (fun u => u.team.trapInfo == 0x1000000000000002 && u.team.trapCause.toNat % 256 == 7) = true := by decide +kernel

/-- s1 to s3 are a private pointer, a global one and one of no window; the core is core 0. -/
def tptr : Team := { tm with s := [(1, 0x8000000000000010), (2, 0x10), (3, 0xC000000000000000)] }

theorem witness_pointersAndFences : (2 ^ 19 - 1 : Nat) < 2 ^ 19 ∧ (on tptr).m.cur.core < 320 ∧ ((on tptr).reg 1).toNat = 8 * 2 ^ 60 + 16 ∧
    ((on tptr).reg 2).toNat < 2 ^ 55 ∧ 12 * 2 ^ 60 ≤ ((on tptr).reg 3).toNat ∧ (1 : BitVec 2) ≠ 0 ∧ (9 : BitVec 4).toNat < 10 ∧
    10 ≤ (10 : BitVec 4).toNat ∧ (11 : BitVec 4) ∈ [(0 : BitVec 4), 8, 9, 10, 11] ∧ (1 : BitVec 4) ∉ [(0 : BitVec 4), 8, 9, 10, 11] := by decide +kernel

theorem test_cast : next (exec (.cast 4 1 9) (on tptr)) (fun u => u.team.rs 4 == 0x9000000000000410) = true := by decide +kernel

/-! ## Barriers and the copy queues -/

/-- s1 is a barrier's offset, s2 a phase or a count. -/
def tbar (p : Word) : Team := { tm with s := [(1, 8), (2, p)] }

theorem witness_barriersComplete :
    ((on (tbar 0)).reg 1).toInt = 8 ∧ (8 : Int) + 8 ≤ (on (tbar 0)).group.spSize ∧
    lockHit ((on (tbar 0)).core.seenLocks 0) false (on (tbar 0)).team.group 8 8 true = none ∧
    lockHit ((on (tbar 0)).core.seenLocks 0) false (on (tbar 0)).team.group 8 8 false = none ∧
    (((on (tbar 0)).m.barrierSeen 8).toNat / 2 ^ 48 + 65536 - 0) % 65536 < 32768 ∧
    ¬ ((((on (tbar 1)).m.barrierSeen 8).toNat / 2 ^ 48 + 65536 - 1) % 65536 < 32768) := by decide +kernel

/-- R172: the third arrival of three moves the phase on. -/
theorem test_barv : next (exec (.barv 1 2) (onCore { coreOf (tbar 1) with scratch := [⟨8, 2⟩, ⟨10, 3⟩] }))
    (fun u => u.core.scratch.readD 8 == 0x0001000000030000) = true := by decide +kernel

theorem test_bwait_parks : next (exec (.bwait 1 2) (on (tbar 1))) (fun u => u.team.phase == .parked (.bwait 8 1)) = true := by decide +kernel

/-- A FILL of four bytes of 0x5A at scratchpad offset 256 (R152: KIND 3, SCOPE 0, both formats 4; R153: words 2, 3 and 4) at offset 512. -/
def fillRec : List Word := [wordOf [(60, 3), (35, 4), (30, 4)], 0, 0x9000000000000100, 0x5A, 4, 0, 0]

def coreFill : Core :=
  { coreOf { tm with s := [(1, 512), (2, 576)] } with
    scratch := Mem.writePairs []  ((fillRec.zipIdx.flatMap fun p => (leBytes p.1.toNat 8).zipIdx.map fun q => (512 + 8 * p.2 + q.2, q.1))) }

def sFill : State := onCore coreFill

theorem witness_copyCommandsComplete_post : sFill.m.postOffset 512 = .ok () ∧ (sFill.reg 1).toInt = 512 ∧ (sFill.m.postCheck 512).failures = [] ∧
    sFill.m.locksFit (sFill.m.postRanges 512 (sFill.m.postCheck 512)) = true ∧ sFill.core.cmds.find? (64 * 3 + 0) = none :=
  ⟨ok_of (by decide +kernel), by decide, by decide +kernel, by decide +kernel, by decide⟩

/-- A command of group 0 in an entry, with the record above. -/
def cmdOf (words : List Word) : Cmd := newCmd 0 0 0 12 512 0 words none none

def withCmd (x : Core) (key : Nat) (k : Cmd) : Core := { x with cmds := x.cmds.set key k }

theorem witness_copyCommandsComplete_slot63 :
    (onCore { coreFill with cmds := (List.range 63).map fun i => (i, cmdOf fillRec) }).core.cmds.find? 63 = none ∧
    ∀ k, k < 63 → (onCore { coreFill with cmds := (List.range 63).map fun i => (i, cmdOf fillRec) }).core.cmds.find? k ≠ none := by decide +kernel

theorem witness_copyCommandsComplete_cancel :
    (List.map Prod.fst (onCore (withCmd coreFill 192 (cmdOf fillRec))).core.cmds).Nodup ∧
    (∃ p ∈ (onCore (withCmd coreFill 192 (cmdOf fillRec))).core.cmds, p.2.group = sFill.team.group ∧ BitVec.ofNat 64 p.2.off = sFill.reg 1 ∧
      (p.2.state = .posted ∨ p.2.state = .running ∨ p.2.state = .suspended)) ∧ sFill.core.cmds = [] ∧
    (onCore (withCmd coreFill 192 (cmdOf fillRec))).core.cmds.countP (fun p => p.1 / 64 = 3) ≤ 64 := by decide +kernel

theorem test_cpost : next (exec (.cpost 1 3 false) sFill) (fun u => (u.core.cmds.find? 192).map Cmd.words == some fillRec &&
    (List.map (fun l : Nat × Lock => (l.1, l.2.start, l.2.stop, l.2.rw)) u.core.locks) == [(0, 256, 260, true), (1, 568, 576, false)]) = true := by decide +kernel

/-! ## Matrix engine -/

/-- One row of 32 INT8 elements at 0, one column of 32 of them at 64 (R229), an INT32 and an FP32 array of one element at 128, and a format-block
record's offset. -/
def shA : Word := wordOf [(42, 31), (20, 32), (0, 0)]
def shB : Word := wordOf [(50, 31), (20, 1), (0, 64)]
def shI : Word := wordOf [(59, 2), (20, 4), (0, 128)]
def shF : Word := wordOf [(59, 10), (20, 4), (0, 128)]
def tmat (round : Nat) : Team := { tm with mode := wordOf [(12, round)], s := [(1, shA), (2, shB), (3, shI), (4, shF), (5, 160), (6, 1024)] }

/-- The bytes 1 and 2 in both operands' first two elements. -/
def coreMat (round : Nat) : Core := { coreOf (tmat round) with tile := [⟨0, 1⟩, ⟨1, 2⟩, ⟨64, 1⟩, ⟨65, 2⟩], accs := [(1, { Acc.initial with tag := .int32 })] }

def sMat (round : Nat) : State := onCore (coreMat round)

def pMat : MmaP := ⟨shapeOf shA, shapeOf shB, none, 1, 0, 0, false⟩

theorem witness_matrixInstructionsQueue :
    (1 : BitVec 3).toNat < (sMat 0).group.lrec.nacc ∧ (sMat 0).group.accs.getD 1 0 = 1 ∧
    (sMat 0).m.checkMma ((sMat 0).core.acc 1).tag false pMat none = .ok pMat ∧
    (sMat 0).m.checkMma ((sMat 0).core.acc 0).tag true { pMat with steps := 2 } none = .ok { pMat with steps := 2 } ∧
    (2 : BitVec 2) ≠ 3 ∧ tileFailures (shapeOf shI) .int32 (mldaFormat .int32 2) (sMat 0).group.tileSize = [] ∧
    lockFailures (sMat 0).core 0 0 false [(shapeOf shI).span 128] = [] ∧
    tileFailures (shapeOf shF) ((sMat 5).core.acc 0).tag (fmtBits 10 ≠ 0) (sMat 5).group.tileSize = [] ∧
    ((5 : Reg) ≠ 0 ∧ blockFailures (sMat 5).group.tileSize ((sMat 5).reg 5) = [] ∧ ((sMat 5).core.tile.readD (0 + 160 + 24)).toNat % 2 ^ 58 = 0 ∧
      lockFailures (sMat 5).core 0 0 true [((184 : Nat), (192 : Nat)), (shapeOf shF).span 128] = [] ∧ (sMat 5).team.round = 5) ∧
    (sMat 0).group.lrec.nacc ≤ (2 : BitVec 3).toNat :=
  ⟨by decide, by decide, ok_of (by decide +kernel), ok_of (by decide +kernel), by decide, by decide +kernel, by decide +kernel, by decide +kernel,
    by decide +kernel, by decide⟩

/-- An engine that has one operation queued. -/
def opMat : MatOp := { group := 0, acc := 1, tag := .int32, kind := .mma shA shB none 1 0 0 false true false, issued := 0, cycles := 16 }

def sEngine (op : MatOp) : State :=
  let s := onCore { coreMat 0 with matQ := [op] }
  { s with m := { s.m with now := 1 } }

/-- What R246 asks before the oldest operation starts. -/
def mayStart (op : MatOp) : Bool :=
  let s := sEngine op
  let x := s.m.core 0
  decide (x.matQ = [op]) && x.matRun.isNone && decide (op.issued < s.m.now) && decide (x.matEnd = 0) && x.tileTests.isEmpty &&
    decide (8 * (x.occupied + 1) ≤ s.ramp 0 * s.m.usCycles) && !x.tileStoresBefore 0 op && (x.acc op.acc).mem.wf

/-- Operations of each kind: an FP32 array of one element at 128 or of one FP64 element, two FP32 elements of A and B, and an O4 pair. -/
def shX : Word := wordOf [(59, 10), (42, 1), (20, 8), (0, 0)]
def shY : Word := wordOf [(59, 10), (50, 1), (20, 4), (0, 64)]
def shD : Word := wordOf [(59, 11), (20, 8), (0, 128)]
def shO : Word := wordOf [(59, 17), (42, 1), (20, 1), (0, 128)]

def opF : MatOp := { opMat with acc := 0, tag := .fp32, kind := .mma shX shY none 2 8 8 true true false }
def opD : MatOp := { opMat with acc := 0, tag := .fp64, kind := .mma shD shD none 1 0 0 false false false }
def opLoad (tag : AccTag) (w : Word) : MatOp := { opMat with acc := 0, tag := tag, kind := .mlda w }
def opStore (tag : AccTag) (w : Word) : MatOp := { opMat with acc := 0, tag := tag, kind := .msta w 5 63 true tag }

theorem witness_matrixOperationsRun :
    mayStart opMat = true ∧ mayStart { opMat with kind := .mzero } = true ∧ mayStart opF = true ∧ mayStart opD = true ∧
    mayStart (opLoad .fp32 shF) = true ∧ mayStart (opLoad .int32 shO) = true ∧ mayStart (opStore .fp32 shF) = true ∧ mayStart (opStore .fp32 shO) = true := by
  decide +kernel

theorem witness_matrixOperationsRun_formats :
    (mmaFormat (shapeOf shA).fmt = true ∧ mmaInt (shapeOf shA).fmt = true ∧ mmaInt (shapeOf shB).fmt = true ∧ pMat.K = pMat.Kb ∧ pMat.sca.blk = 0 ∧ pMat.scb.blk = 0) ∧
    (let p : MmaP := ⟨shapeOf shX, shapeOf shY, none, 2, 8, 8, false⟩
     mmaFormat p.a.fmt = true ∧ mmaFormat p.b.fmt = true ∧ p.K = p.Kb ∧ 0 < p.M ∧ 0 < p.N ∧ p.M ≤ 63) ∧
    (let p : MmaP := ⟨shapeOf shD, shapeOf shD, none, 1, 0, 0, false⟩
     p.a.fmt = 11 ∧ p.b.fmt = 11 ∧ p.K = p.Kb ∧ p.sca.blk = 0 ∧ p.scb.blk = 0 ∧ p.M ≤ 1 ∧ p.N ≤ 1) ∧
    mldaFormat .fp32 (shapeOf shF).fmt = true ∧ mldaFormat .int32 (shapeOf shO).fmt = true ∧ (shapeOf shO).fmt = 17 ∧ mldaFormat .int32 (shapeOf shI).fmt = true ∧
    (let sh := shapeOf shF; sh.overlaps = false ∧ fmtBits sh.fmt ≠ 0 ∧ sh.outRows ≤ 64 ∧ sh.outCols ≤ AccTag.fp32.cols ∧ 0 < sh.rows ∧ 0 < sh.cols) ∧
    (let sh := shapeOf shO; sh.overlaps = false ∧ fmtBits sh.fmt ≠ 0 ∧ sh.fmt = 17 ∧ sh.four = true ∧ 1 < sh.cols) ∧
    (let sh := shapeOf (wordOf [(59, 17), (42, 2), (20, 2), (0, 128)]); sh.four = true ∧ sh.cols % 2 = 1) := by decide +kernel

def sRunning : State :=
  let s := onCore { coreMat 0 with matRun := some opMat, matEnd := 0 }
  { s with m := { s.m with now := 1 } }

theorem witness_matrixOperationsRun_complete : (sRunning.m.core 0).matRun = some opMat ∧ (sRunning.m.core 0).matEnd < sRunning.m.now := by decide +kernel

/-- MLDA of 1.5 in FP32. -/
theorem test_mlda : next (exec (.matrixOpStart 0) (let s := sEngine (opLoad .fp32 shF)
      { s with m := s.m.setCore 0 { s.m.core 0 with tile := [⟨130, 0xC0⟩, ⟨131, 0x3F⟩] } }))
    (fun u => ((u.m.core 0).acc 0).mem.readN 0 4 == 0x3FC00000) = true := by decide +kernel

/-- R237: 1·1 + 2·2 = 5, at the start of the operation. -/
theorem test_mma : next (exec (.matrixOpStart 0) (sEngine opMat)) (fun u => ((u.m.core 0).acc 1).mem.readN 0 4 == 5) = true := by decide +kernel

/-! ## Tasks -/

/-- Word 0 of a TCB (R249). -/
def tcbWord (state prio nsucc count runner : Nat) : Word := wordOf [(61, state), (58, prio), (54, nsucc), (16, count), (10, runner)]

def spWith (ds : List (Nat × Word)) : Mem := ds.foldl (fun m p => m.writeD p.1 p.2) []

/-- A core whose team names task 15 in s1, the last of the shared region. -/
def coreTask (ds : List (Nat × Word)) (g : Group) (held : Option Nat) : Core :=
  { coreOf { tm with s := [(1, 15)], held := held } with scratch := spWith ds, groups := [(0, g)] }

def ready : Group := { gp with live := [15, 3], stamps := [(15, 4), (3, 5)] }

theorem witness_taskInstructionsComplete_tsub :
    let x := coreTask [] gp none
    x.parkedTake 0 = none ∧ ((onCore x).reg 1).toNat = 15 ∧ 64 * (15 + 1) ≤ (onCore x).group.lrec.sharedBytes ∧ x.taskLocks 0 0 15 true = none ∧
    (x.tcb0 gp 15).toNat / 2 ^ 61 % 2 ^ 3 = 0 ∧ x.tcbFieldsOk gp 15 = true := by
  refine ⟨by decide +kernel, by decide +kernel, by decide +kernel, ?_, by decide +kernel, by decide +kernel⟩
  rfl

/-- Task 15 comes before task 3: of equal priority, it was READY first. -/
theorem witness_taskInstructionsComplete_ttake :
    ready.stamps = [(15, 4), (3, 5)] ∧ tcbPrio ((coreTask [] ready none).tcb0 ready 15) = tcbPrio ((coreTask [] ready none).tcb0 ready 3) ∧ (4 : Nat) < 5 ∧
    (onCore (coreTask [] ready none)).team.held = none ∧ (onCore (coreTask [] ready none)).m.cur.place < 64 ∧ gp.stamps = [] ∧ gp.live = [] ∧
    ({ gp with live := [3] } : Group).live ≠ [] := by decide +kernel

theorem witness_taskInstructionsComplete_tdone :
    let x := coreTask [(960, tcbWord 3 0 1 0 0), (1008, 3), (192, tcbWord 1 0 0 1 0)] ready (some 15)
    x.taskLocks 0 0 15 true = none ∧ (x.tcb0 ready 15).toNat / 2 ^ 61 % 2 ^ 3 = 3 ∧ (onCore x).team.held = some 15 ∧ x.badSuccessor ready 15 = none ∧
    x.successors ready 15 = [3] ∧ tcbState (x.tcb0 ready 15) = 3 ∧ x.parkedTake 0 = none := by
  refine ⟨rfl, by decide +kernel, by decide +kernel, by decide +kernel, by decide +kernel, by decide +kernel, by decide +kernel⟩

theorem witness_taskInstructionsComplete_tdone_alone : (coreTask [(960, tcbWord 3 0 0 0 0)] ready (some 15)).successors ready 15 = [] := by decide +kernel

theorem witness_taskInstructionsComplete_faulted :
    let x := coreTask [(960, tcbWord 5 0 0 0 0)] ready none
    x.taskLocks 0 0 15 false = none ∧ (x.tcb0 ready 15).toNat / 2 ^ 61 % 2 ^ 3 = 5 ∧ (x.tcb0 ready 15).toNat / 2 ^ 10 % 2 ^ 6 = (onCore x).m.cur.place ∧
    ∀ j ∈ x.walkSuccessors ready 15, j ≠ 15 → 3 ≤ tcbState (x.tcb0 ready j) := by
  refine ⟨rfl, by decide +kernel, by decide +kernel, by decide +kernel⟩

theorem witness_successorsAreDecremented :
    let x := coreTask [(960, tcbWord 3 0 2 0 0), (1008, 0x00030003), (192, tcbWord 1 0 0 1 0)] ready (some 15)
    ((onCore x).reg 1).toNat = 15 ∧ 64 * (15 + 1) ≤ (onCore x).group.lrec.sharedBytes ∧ x.taskLocks 0 0 15 true = none ∧
    (x.tcb0 ready 15).toNat / 2 ^ 61 % 2 ^ (63 - 61 + 1) = 3 ∧ (onCore x).team.held = some 15 ∧ x.badSuccessor ready 15 = none ∧
    x.parkedTake 0 = none ∧ x.successors ready 15 = [3, 3] := by
  refine ⟨by decide +kernel, by decide +kernel, rfl, by decide +kernel, by decide +kernel, by decide +kernel, by decide +kernel, by decide +kernel⟩

theorem witness_successorsAreDecremented_kinds :
    ((coreTask [(960, tcbWord 3 0 1 0 0), (1008, 3), (192, tcbWord 6 0 0 1 0)] ready (some 15)).tcb0 ready 3).toNat / 2 ^ 61 = 6 ∧
    ((coreTask [(960, tcbWord 3 0 1 0 0), (1008, 3), (192, tcbWord 1 0 0 0 0)] ready (some 15)).tcb0 ready 3).toNat / 2 ^ 16 % 2 ^ 16 = 0 ∧
    (coreTask [(960, tcbWord 3 0 1 0 0), (1008, 3), (192, tcbWord 1 0 0 1 0)] ready (some 15)).isResident 0 3 = true := by decide +kernel

/-- R252: the successor's COUNT reaches 0 and it becomes READY; word 0 of the task itself says DONE. -/
theorem test_tdone : next (exec (.tdone 1) (onCore (coreTask [(960, tcbWord 3 0 1 0 0), (1008, 3), (192, tcbWord 1 0 0 1 0)] ready (some 15))))
    (fun u => u.core.scratch.readD 192 == tcbWord 2 0 0 0 0 && u.core.scratch.readD 960 == tcbWord 4 0 1 0 0) = true := by decide +kernel

theorem test_ttake : next (exec (.ttake 2 3 true) (onCore (coreTask [] ready none))) (fun u => u.team.rs 2 == 15 && u.team.held == some 15) = true := by
  decide +kernel

theorem test_ttake_none : next (exec (.ttake 2 3 true) (onCore (coreTask [] gp none))) (fun u => u.team.rs 2 == 0xFFFFFFFFFFFFFFFF) = true := by decide +kernel

/-! ## Child launches and collectives -/

def coreChild (status : Word) : Core := { coreOf { tm with s := [(1, 64)] } with scratch := spWith [(128, status)] }

theorem witness_launchesAndWaits :
    ({ gp with depth := 10 } : Group).depth = 10 ∧ (onCore (coreChild 0)).group.depth ≠ 10 ∧ ((onCore (coreChild 0)).reg 1).toInt = 64 ∧
    (64 : Int) + 72 ≤ (onCore (coreChild 0)).group.spSize ∧ lockHit ((onCore (coreChild 0)).core.seenLocks 0) false 0 64 72 true = none ∧
    lockHit ((onCore (coreChild 0)).core.seenLocks 0) false 0 128 8 false = none ∧ ((onCore (coreChild 0)).m.childWord 0 0 64).toNat / 2 ^ 60 = 0 ∧
    ((onCore (coreChild (wordOf [(60, 2)]))).m.childWord 0 0 64).toNat / 2 ^ 60 = 2 ∧
    ((onCore (coreChild (wordOf [(60, 3)]))).m.childWord 0 0 64).toNat / 2 ^ 60 = 3 ∧
    ((onCore (coreChild (wordOf [(60, 4)]))).m.childWord 0 0 64).toNat / 2 ^ 60 = 4 ∧
    ((onCore (coreChild (wordOf [(60, 5)]))).m.childWord 0 0 64).toNat / 2 ^ 60 = 5 := by decide +kernel

/-- R408: a rejected child's status comes back; a pending one parks the team. -/
theorem test_lwait : next (exec (.lwait 2 1) (onCore (coreChild (wordOf [(60, 3), (52, 2)])))) (fun u => u.team.rs 2 == wordOf [(60, 3), (52, 2)]) = true ∧
    next (exec (.lwait 2 1) (onCore (coreChild 0))) (fun u => u.team.phase == .parked (.lwait 64 2)) = true := by decide +kernel

/-- A control register (R306) with one arrival at barrier 256 and the status at 512, and one without an arrival. -/
def ctlOk : Word := wordOf [(48, 1), (19, 512), (0, 256)]

def tcoll : Team := { tm with s := [(1, ctlOk), (2, shI), (3, 0)] }

theorem witness_collectivesIssue :
    (on tcoll).m.collCheck 0 5 ((on tcoll).reg 1) ((on tcoll).reg 2) = .ok () ∧ (on tcoll).m.collCheck 1 0 ctlOk shI = .ok () ∧
    (on tcoll).m.collCheck 2 5 ctlOk shI = .ok () ∧ (on tcoll).m.collCheck 3 0 ctlOk shI = .ok () ∧ (on tcoll).m.collCheck 4 0 ctlOk shI = .ok () ∧
    (wordOf [(19, 512)]).toNat / 2 ^ 48 = 0 :=
  ⟨ok_of (by decide +kernel), ok_of (by decide +kernel), ok_of (by decide +kernel), ok_of (by decide +kernel), ok_of (by decide +kernel), by decide +kernel⟩

/-- A repartition record at 0 (R312: MKIND 1 over die 0, BITS 1, rows of 8 bytes at 512, results at 768 and 896, its reports behind it) and the
layout record at 640 of the one row. -/
def cxpRec : List (Nat × Word) :=
  [(0, wordOf [(62, 1), (55, 1), (53, 1)]), (8, 0xC00000000000000A), (16, 0x9000000000000300), (24, 0x9000000000000380), (32, wordOf [(48, 8), (32, 1), (0, 1)]),
   (48, wordOf [(48, 1), (0, 256)]), (640, 0x9000000000000200), (648, wordOf [(59, 4), (56, 1), (32, 1), (0, 8)])]

def sCxp : State := onCore { coreOf { tm with s := [(1, 0)] } with scratch := spWith cxpRec }

/-- Whether a check passes. -/
def passed {ε α : Type} (x : Except ε α) : Bool := match x with | .ok _ => true | .error _ => false

theorem witness_collectivesIssue_cxp : ∃ k, sCxp.m.cxpCheck ((sCxp.reg 1).toInt) = .ok k := by
  have h : passed (sCxp.m.cxpCheck ((sCxp.reg 1).toInt)) = true := by decide +kernel
  cases e : sCxp.m.cxpCheck ((sCxp.reg 1).toInt) with
  | ok k => exact ⟨k, rfl⟩
  | error r => rw [e] at h; exact nomatch h

/-! ## What comes to teams, and dispatch -/

/-- The state with another time: cycles and time units. -/
def at_ (s : State) (now time : Nat) : State := { s with m := { s.m with now := now, time := time } }

def twait : Team :=
  { tm with passes := [⟨5, 2⟩, ⟨0, 1⟩], pend := [⟨.vector, 1, 9, .load, some 0⟩, ⟨.vector, 2, 1, .load, some 0⟩, ⟨.vector, 3, 1, .special, some 1⟩],
            flags := [(0, 2), (1, 1)], yielding := some 1 }

def sWait : State := at_ (onCore { coreOf twait with dividerFree := 1 }) 1 1

theorem witness_teamEvents : (sWait.m.core 0).teams.find? 0 = some twait ∧
    (twait.passes = [⟨5, 2⟩] ++ ⟨0, 1⟩ :: [] ∧ 0 < sWait.m.now) ∧
    (twait.pend = [⟨.vector, 1, 9, .load, some 0⟩] ++ ⟨.vector, 2, 1, .load, some 0⟩ :: [⟨.vector, 3, 1, .special, some 1⟩] ∧
      (1 ≤ sWait.m.now) ∧ PendKind.special ≠ .load) ∧
    (twait.pend = [⟨.vector, 1, 9, .load, some 0⟩, ⟨.vector, 2, 1, .load, some 0⟩] ++ ⟨.vector, 3, 1, .special, some 1⟩ :: []) ∧ twait.phase ≠ .ending ∧
    (0 < (sWait.m.core 0).dividerFree ∧ (sWait.m.core 0).dividerFree ≤ sWait.m.now) ∧ (twait.yielding = some 1 ∧ 1 ≤ sWait.m.now) := by decide +kernel

/-- R118: flag 0 joins STATUS. -/
theorem test_vectorFinalPass : next (exec (.vectorFinalPass 0 0) sWait) (fun u => (u.m.teamAt 0 0).status == 1) = true := by decide +kernel

/-- A launch record of one group of one team (R36), and one with VREGS 0. -/
def recOk (groups coloc : Nat) : List Word := [wordOf [(32, groups - 1), (12, coloc), (4, 1)], 0x20000, 7, 0, 24, 0, 0, 5]
def recBad : List Word := [0, 0x20000, 7, 0, 24, 0, 0, 5]

def memRec (base : Nat) (ws : List Word) : Mem := ws.zipIdx.foldl (fun m p => m.writeD (base + 8 * p.2) p.1) []

def withQueue (q : Nat) (k : LaunchQ) (mem : Mem) : State :=
  { State.reset with m := { Mach.initial with queues := [(q, k)] }, mem := mem }

/-- Queue 63 with a record at the last place of its ring of 16 at 0x30000. -/
def q63 : LaunchQ := { LaunchQ.initial 63 with rbase := 0x30000, enable := true, head := 15, tail := 0 }

def sRead (ws : List Word) : State := withQueue 63 q63 (memRec 0x303C0 ws)

theorem witness_launchesAreDispatched_read :
    (sRead (recOk 1 0)).sys.pstate = 0 ∧ (sRead (recOk 1 0)).sys.boot = 0 ∧ ((sRead (recOk 1 0)).m.queue 63).head ≠ ((sRead (recOk 1 0)).m.queue 63).tail ∧
    ((sRead (recOk 1 0)).m.queue 63).current = none ∧ (∀ i, i < 8 → inDevice (0x303C0 + 8 * i) = true ∧ (sRead (recOk 1 0)).poisoned (0x303C0 + 8 * i) 8 = false) ∧
    bits q63.rbase 51 6 * 64 + 64 * 15 = 0x303C0 ∧ (sRead (recOk 1 0)).mem.readDs 0x303C0 8 = recOk 1 0 ∧ (sRead (recOk 1 0)).m.rejects (recOk 1 0) = none ∧
    (sRead recBad).mem.readDs 0x303C0 8 = recBad ∧ (sRead recBad).m.rejects recBad = some 1 := by decide +kernel

theorem test_launchRecordRead_rejected : next (exec (.launchRecordRead 63) (sRead recBad))
    (fun u => (u.m.queue 63).head == 0 && (u.m.queue 63).notes == [⟨wordOf [(56, 1), (48, 1), (40, 63)], 5⟩]) = true := by decide +kernel

/-- A grid of sixteen groups with nothing handed out. -/
def grid16 : Grid := newGrid (launchRec (recOk 16 0)) 0 0 0 none 0 none false

def sHand : State :=
  { State.reset with m := { Mach.initial with grids := [(1, grid16)], queues := [(0, { LaunchQ.initial 0 with current := some 1 })] } }

theorem witness_launchesAreDispatched_batch :
    sHand.savedFirst = false ∧ sHand.m.served = some (1, grid16) ∧ sHand.m.grids.find? 1 = some grid16 ∧ grid16.lrec.coop = false ∧ grid16.needAcq = false ∧
    sHand.m.dieOrder.find? (fun d => sHand.m.takes d 1 grid16) = some 0 ∧ 16 % grid16.lrec.factor = 0 ∧ 16 ≤ sHand.m.dieCount 0 1 16 := by decide +kernel

def sPlace : State := { sHand with m := { sHand.m with handed := [(3, [⟨1, 0, 0⟩])] } }

def grant0 : Grant := { group := 0, sp := 0, tile := 0, accs := [], places := [0] }

/-- The die's first core is out of placement: the group goes to the second. -/
def sPlace1 : State := { sPlace with m := sPlace.m.setCore 240 { Core.empty with lost := true } }

theorem witness_launchesAreDispatched_placement :
    sPlace.m.handedTo 3 = ⟨1, 0, 0⟩ :: [] ∧ sPlace.m.grids.find? 1 = some grid16 ∧ grid16.lrec.coloc = 0 ∧ grid16.acquire = none ∧
    (sPlace.m.core (80 * 3 + 0)).grant? grid16.lrec grid16.lrec.needs = some grant0 ∧
    (sPlace1.m.core (80 * 3 + 1)).grant? grid16.lrec grid16.lrec.needs = some grant0 ∧ (sPlace1.m.core (80 * 3 + 0)).grant? grid16.lrec grid16.lrec.needs = none := by
  decide +kernel

/-- R35, R43: the group stands on the die's first core with its team at the entry. -/
theorem test_groupPlacement : next (exec (.groupPlacement 3) sPlace) (fun u => (u.m.teamAt 240 0).pc == 0x20000 && (u.m.teamAt 240 0).rs 1 == 7) = true := by decide +kernel

/-- A device in a power state, with queue 63 enabled and empty. -/
def sBell (p : Nat) : State :=
  let s := withQueue 63 { LaunchQ.initial 63 with enable := true, head := 15, tail := 15 } []
  { s with sys := { s.sys with pstate := p } }

theorem witness_dispatchRecords_queues :
    ((sBell 2).m.queue 63).ownPort = 1 ∧ (sBell 2).sys.boot = 0 ∧ (sBell 2).sys.pstate ≤ 2 ∧ ((sBell 2).m.queue 63).enable = true ∧
    (15 + 2 ^ ((sBell 1).m.queue 63).log2 - 15 % 16) % 16 < (0 + 16 - 15 % 16) % 16 ∧ ((sBell 0).m.queue 63).head = ((sBell 0).m.queue 63).tail := by decide +kernel

def sGroup (v : Group) : State :=
  let s := onCore { coreOf { tm with phase := .exited } with groups := [(15, v)], teams := [] }
  { s with m := { s.m with grids := [(1, gr)] } }

theorem witness_dispatchRecords_groups :
    ((sGroup { gp with filling := some 0 }).m.core 0).groups.find? 15 = some { gp with filling := some 0 } ∧ 0 ≤ (sGroup gp).m.now ∧ gp.acquire = none ∧
    ((sGroup { gp with phase := .draining }).m.core 0).groups.find? 15 = some { gp with phase := .draining } ∧
    (sGroup { gp with phase := .draining }).m.enginesDone 0 15 = true ∧
    (sGroup { gp with phase := .draining, children := 1 }).m.holders 0 < 1024 ∧ (sGroup { gp with phase := .draining }).m.grids.find? 1 = some gr ∧
    gr.lrec.groups ≤ gr.complete + 1 ∧ gr.lrec.sigaddr = 0 ∧ gr.parent = none ∧ (∀ d ∈ gr.dies, ((sGroup gp).die d).performedAll = true) ∧
    ({ gr with lrec := { gr.lrec with groups := 2 } } : Grid).complete + 1 < 2 := by decide +kernel

/-- The fill of a restored group ends once its acquire's bumps are made and its WATCH is armed. -/
def sRestored : State :=
  let s := onCore { coreOf tm with groups := [(0, { gp with filling := some 0, acquire := some 3 })],
                                   cmds := [(0, { newCmd 0 0 0 12 512 0 [wordOf [(60, kWATCH)], 0, 0, 0, 0, 0, 0] none none with state := .running, stage := 1 })] }
  { s with m := { s.m with bumps := [{ die := 0, cls := 2, token := 4, at_ := 0, lwait := false }] } }

theorem witness_dispatchRecords_restored :
    (sRestored.m.core 0).groups.find? 0 = some { gp with filling := some 0, acquire := some 3 } ∧ (∀ b ∈ sRestored.m.bumps, b.token ≠ 3) ∧
    (∀ p ∈ (sRestored.m.core 0).cmds, p.2.group = 0 ∧ p.2.kind = kWATCH ∧ p.2.state = .running ∧ p.2.stage ≠ 0) := by decide +kernel

/-- A die that holds a message not yet performed, and one whose table of placeholders is full. -/
theorem witness_dispatchRecords_full :
    ({ (sGroup gp).die 0 with msgs := [{ id := 0, line := 0, cls := 0, kind := .writeBack 0, rdup := false }] } : Die).performedAll = false ∧
    ({ (sGroup gp).m with placeholders := List.replicate 1024 ⟨0, 1, 0, 1⟩ } : Mach).holders 0 = 1024 := by decide +kernel

def reqOf (ws : List Word) : LaunchReq :=
  { core := 0, place := 0, group := 0, grid := 1, idx := 0, off := 64, words := ws, dst := 5, flag := 0, issued := 0 }

def sChild (ws : List Word) : State :=
  let s := at_ (on tm) 64 64
  { s with m := { s.m with launches := [reqOf ws] } }

theorem witness_dispatchRecords_launch :
    (sChild recBad).m.launches = [] ++ reqOf recBad :: [] ∧ (reqOf recBad).issued + 64 ≤ (sChild recBad).m.now ∧ (sChild recBad).m.rejects recBad = some 1 ∧
    (sChild (recOk 1 0)).m.rejects (recOk 1 0) = none := by decide +kernel

def sNote : State :=
  let s := withQueue 63 { LaunchQ.initial 63 with nbase := 0x40000, ntail := 15, nhead := 1, notes := [⟨1, 2⟩] } []
  { s with m := { s.m with faults := [teamFault 16 0 0 0 1 0 1 0 0] }, sys := { s.sys with fqBase := 0x50000, fqTail := 63, fqHead := 1 } }

theorem witness_dispatchRecords_rings :
    (sNote.m.queue 63).notes = [⟨1, 2⟩] ∧ ((sNote.m.queue 63).ntail + 1) % 2 ^ (sNote.m.queue 63).nlog2 ≠ (sNote.m.queue 63).nhead ∧
    inDevice (bits (sNote.m.queue 63).nbase 51 4 * 16 + 16 * 15) = true ∧ sNote.m.faults = [teamFault 16 0 0 0 1 0 1 0 0] ∧
    (teamFault 16 0 0 0 1 0 1 0 0).words.length = 4 ∧ (sNote.sys.fqTail + 1) % 2 ^ sNote.sys.fqLog2 ≠ sNote.sys.fqHead ∧
    inDevice (bits sNote.sys.fqBase 51 5 * 32 + 32 * 63) = true := by decide +kernel

/-- A pending request for P0 in P1, and a batch already handed out in this cycle. -/
theorem witness_pending : ({ (sBell 1).sys with preqPending := true } : Sys).preq = 0 ∧ ({ sHand.m with batchFrom := 1 } : Mach).now < 1 ∧ sHand.m.batchFrom ≤ sHand.m.now := by
  decide +kernel

theorem test_notificationPost : next (exec (.notificationPost 63) sNote)
    (fun u => u.mem.readD 0x400F8 == 2 && u.sys.outputs == [.msix 1 63] && (u.m.queue 63).ntail == 0) = true := by decide +kernel

theorem test_doorbell : next (exec (.doorbell 63 0 1) (sBell 1)) (fun u => (u.m.queue 63).tail == 0 && u.sys.pstate == 0) = true ∧
    next (exec (.doorbell 63 0 0) (sBell 1)) (fun u => (u.m.queue 63).tail == 15) = true := by decide +kernel

/-! ## Saving, restoring, debugging -/

/-- Group 0 of core 0 of a grid, holding every accumulator; every other core is out of placement, or free. -/
def gfull : Group := { gp with accs := List.range 16, lrec := { gp.lrec with priv := 0, scratch := 0, tile := 0 }, spUnits := 0, tileUnits := 0 }

/-- A launch that wants eight accumulators. -/
def gwait (prio : Nat) : Grid := newGrid { LaunchRec.blank with nacc := 8, prio := prio } 0 0 0 none prio none false

def sFree (v : Group) (t : Team) (prio : Nat) (own : Grid) : State :=
  { State.reset with
    m := { Mach.initial with
      cores := [(0, { Core.empty with teams := [(0, t)], groups := [(0, v)] })],
      grids := [(1, own), (2, gwait prio)], queues := [(0, { LaunchQ.initial 0 with current := some 2 })] },
    sys := { Sys.initial with nslot := 1, pool := 0x400000 } }

def sBusy (v : Group) (t : Team) (prio : Nat) (own : Grid) : State :=
  let s := sFree v t prio own
  { s with m := { s.m with cores := s.m.cores ++ (List.range 319).map fun k => (k + 1, { Core.empty with lost := true }) } }

def gr1 : Grid := { gr with lrec := gfull.lrec }

def sResting : State := sFree { gfull with stopping := true } { tm with phase := .exited } 3 gr1

theorem witness_groupsAreSavedAndRestored_save : sResting.restingUnit (fun _ _ => true) = some [(0, 0)] ∧ sResting.sys.freeSlot? = some 0 ∧
    sResting.m.grids.find? (sResting.m.groupAt 0 0).grid = some gr1 := by decide +kernel

theorem witness_groupsAreSavedAndRestored_choose :
    let s := sBusy gfull tm 3 gr1
    s.restingUnit (fun _ _ => true) = none ∧ s.m.unplaced = [(2, gwait 3)] ∧
    s.victims (.fresh 2 (gwait 3)) (fun w => decide (w.prio < s.m.prioOf (gwait 3))) = some [[(0, 0)]] := by
  refine ⟨by decide +kernel, by decide +kernel, by decide +kernel⟩

/-- The same of equal priority, 20 quanta of 100 µs after the placement. -/
def sOut : State := at_ (sBusy gfull tm 0 gr1) 0 (20 * 100000 * nsUnits)

theorem witness_groupsAreSavedAndRestored_quantum :
    sOut.restingUnit (fun c' g' => (sOut.m.unitOf 0 0).contains (c', g')) = none ∧ (sOut.m.core 0).groups.has 0 = true ∧
    (sOut.m.groupAt 0 0).phase = .resident ∧ sOut.sys.quantum ≠ 0 ∧ (sOut.m.groupAt 0 0).placedAt + sOut.sys.quantum * 100000 * nsUnits ≤ sOut.m.time ∧
    (sOut.m.waitingAt (sOut.m.groupAt 0 0).prio).findSome? (fun w =>
      sOut.victims w (fun w => w.prio = (sOut.m.groupAt 0 0).prio && sOut.ranOut w)) = some [[(0, 0)]] ∧
    ([[(0, 0)]] : List (List (Nat × Nat))).find? (fun w => w.contains (0, 0)) = some [(0, 0)] := by decide +kernel

/-- An evictable grid of two groups whose first is parked and whose second wants more accumulators than a core has. -/
def gr2 : Grid := { gr1 with lrec := { gfull.lrec with evictable := true, groups := 2, nacc := 17 } }

def sParked : State := sFree { gfull with lrec := gr2.lrec } { tm with phase := .parked (.bwait 0 1) } 3 gr2

theorem witness_groupsAreSavedAndRestored_parked :
    sParked.restingUnit (fun c' g' => (sParked.m.groupAt c' g').grid = 1) = none ∧ sParked.m.grids.find? 1 = some gr2 ∧ gr2.lrec.evictable = true ∧
    sParked.stalled 1 gr2 = true ∧ (∀ p ∈ sParked.m.waitingFor 1 gr2, (sParked.m.without sParked.m.stopped).fits p.1 p.2 = false) ∧
    sParked.oldestUnit 1 = some [(0, 0)] := by decide +kernel

def sStall : State := at_ (sFree gfull tm 0 { gr1 with stallSince := some 0 }) 0 (1000000 * nsUnits)

theorem witness_groupsAreSavedAndRestored_stall : sStall.m.grids.find? 1 = some { gr1 with stallSince := some 0 } ∧ gr1.lrec.evictable = false ∧
    gr1.stallPosted = false ∧ 0 + (if gr1.lrec.stalliv = 0 then 1000000 else gr1.lrec.stalliv * 10000) * nsUnits ≤ sStall.m.time ∧ gr1.queue < 64 := by decide +kernel

theorem witness_groupsAreSavedAndRestored_host :
    sParked.sys.ctlPort = 0 ∧ sParked.sys.boot = 0 ∧ sParked.sys.pstate ≠ 3 ∧
    sParked.m.residents.filter (fun p => p.2.2.grid = 1) = [(0, 0, { gfull with lrec := gr2.lrec })] ∧ (sParked.m.groupAt 0 0).lrec.coop = false ∧
    (sParked.m.groupAt 0 0).lrec.coloc = 0 ∧ sParked.choosable [(0, 0)] = true := by decide +kernel

/-- A record in slot 0 of group 0 of grid 1, whose one team has exited (R283, R284), and the grid that waits for it. -/
def savedRef : SavedRef := { extras := [], live := [], cmds := [], idx := 0, slot := 0, die := 0, prio := 0, at_ := 0 }

def grSaved : Grid := { newGrid LaunchRec.blank 0 0 0 none 0 none false with next := 1, dies := [0], saved := [savedRef] }

def sSaved : State :=
  { State.reset with
    m := { Mach.initial with grids := [(1, grSaved)] },
    mem := ((((([] : Mem) |> (Mem.writeD · 0x400000 (wordOf [(32, 1)]))) |> (Mem.writeD · 0x400380 0x1B5000)) |> (Mem.writeD · 0x401000 0xFFFF)) |>
      (Mem.writeD · 0x5B5000 (wordOf [(57, 4)]))),
    sys := { Sys.initial with nslot := 1, pool := 0x400000, usedSlots := [0] } }

def savedRec : Saved :=
  { teams := [{ blankTeam LaunchRec.blank 0 0 with phase := .exited, allot := 0 }], locks := [], cmds := [], held := [none], ready := [] }

theorem witness_groupsAreSavedAndRestored_restore :
    sSaved.m.grids.find? 1 = some grSaved ∧ grSaved.saved = [savedRef] ∧ savedRef.idx = 0 ∧ grSaved.lrec.coop = false ∧ grSaved.lrec.coloc = 0 ∧
    sSaved.m.outranks 1 savedRef = true ∧ (∀ r ∈ sSaved.returning, r.2.before savedRef = false) ∧ sSaved.m.partCoop = none ∧ (∀ d, d < 4 → sSaved.m.handedTo d = []) ∧ sSaved.sys.pstate = 0 ∧
    sSaved.coresFor grSaved [savedRef] = some [(0, grant0)] ∧ savedRef.die = 0 / 80 ∧ savedRec.cmds = [] ∧
    sSaved.readRecord 1 grSaved savedRef 0 = some savedRec ∧ (∀ h ∈ savedRec.held, h = none) ∧ (∀ p ∈ (sSaved.m.core 0).cmds, p.2.group ≠ grant0.group) := by
  decide +kernel

/-- A grid of two groups whose record fails its checks. -/
def grBad : Grid := { grSaved with lrec := { LaunchRec.blank with groups := 2 }, next := 2 }
def sBadRec : State := { sSaved with m := { sSaved.m with grids := [(1, grBad)] }, mem := [] }

theorem witness_groupsAreSavedAndRestored_bad : sBadRec.m.grids.find? 1 = some grBad ∧ sBadRec.m.outranks 1 savedRef = true ∧
    sBadRec.coresFor grBad [savedRef] = some [(0, grant0)] ∧ sBadRec.readRecord 1 grBad savedRef 0 = none ∧ grBad.complete + 1 < grBad.lrec.groups ∧
    bits (sBadRec.mem.readD (sBadRec.sys.slotBase 0 + 8)) 31 0 = 0 := by decide +kernel

theorem test_groupRestore_bad : next (exec (.groupRestore 1 0) sBadRec)
    (fun u => (u.m.faults.map FaultRec.words) == [[wordOf [(56, 17)], 0, wordOf [(32, 1)], 0]] && (u.m.grids.find? 1).map Grid.complete == some 1) = true := by
  decide +kernel

theorem test_groupRestore : next (exec (.groupRestore 1 0) sSaved) (fun u => u.sys.usedSlots == [] && (u.m.groupAt 0 0).grid == 1) = true := by decide +kernel

/-- Core 319 with a team, debug open. -/
def sDebug (t : Team) : State :=
  { State.reset with m := { Mach.initial with cores := [(319, { Core.empty with teams := [(47, t)], groups := [(0, { Group.blank with grid := 1 })] })] },
                     sys := { Sys.initial with dbg := 1, nslot := 1, pool := 0x400000 } }

theorem witness_debugCommands :
    (sDebug tm).sys.ctlPort = 0 ∧ (sDebug tm).sys.boot = 0 ∧ (sDebug tm).sys.pstate ≠ 3 ∧ (sDebug tm).sys.dbg ≠ 0 ∧
    ((sDebug tm).m.core 319).teams.find? 47 = some tm ∧ tm.phase = .running ∧
    ((sDebug { tm with phase := .parked (.bwait 0 1) }).m.core 319).teams.find? 47 = some { tm with phase := .parked (.bwait 0 1) } ∧
    ((sDebug { tm with phase := .halted none }).m.core 319).teams.find? 47 = some { tm with phase := .halted none } ∧
    (sDebug tm).sys.freeSlot? = some 0 ∧ (((sDebug tm).m.core 319).group 0).phase = .resident ∧ ((sDebug tm).m.core 319).groups.has 0 = true ∧
    ((sDebug { tm with phase := .halted none }).m.core 319).allHalted 0 = true := by decide +kernel

/-- A team that has been asked to halt, at a clause start; a group whose matrix operation runs. -/
theorem witness_debugCommands_halt : (let t : Team := { tm with haltReq := true, pos := 0 }
      t.haltReq = true ∧ t.phase = .running ∧ t.pos = 0 ∧ ((sDebug t).m.core 319).matBusy t.group = false) ∧
    ({ (sDebug tm).m.core 319 with matQ := [opMat] } : Core).matBusy 0 = true ∧ (sDebug tm).m.core 0 = Core.empty := by decide +kernel

/-- A snapshot's record whose only team has exited: the reload keeps an exited team as it is. -/
def sSnapped : State := { sDebug { tm with phase := .exited } with mem := Mem.writeD [] 0x400000 (wordOf [(32, 1)]) }

theorem witness_debugCommands_reload :
    (sSnapped.m.core 319).groups.has 0 = true ∧ (sSnapped.m.core 319).allHalted 0 = true ∧
    sSnapped.mem.readD (sSnapped.sys.slotBase (sSnapped.m.core 319).snapSlot) = wordOf [(32, ((sSnapped.m.core 319).group 0).grid), (0, ((sSnapped.m.core 319).group 0).idx)] ∧
    (∀ q ∈ (sSnapped.m.core 319).ownTeams 0, sSnapped.reloadTeam (sSnapped.sys.slotBase 0) ((sSnapped.m.core 319).group 0).lrec q.2 = some { tm with phase := .exited }) ∧
    (((sSnapped.m.core 319).ownTeams 0).foldl (fun (y : Core) q => y.setTeam q.1 { tm with phase := .exited }) (sSnapped.m.core 319)).granted ≤ 65536 := by
  decide +kernel

/-- The same with a halted team, whose galley is none. -/
theorem witness_debugCommands_reload_fails :
    let s : State := { sDebug { tm with phase := .halted none } with mem := Mem.writeD [] 0x400000 (wordOf [(32, 1)]) }
    (s.m.core 319).allHalted 0 = true ∧ (∃ q ∈ (s.m.core 319).ownTeams 0, s.reloadTeam (s.sys.slotBase 0) ((s.m.core 319).group 0).lrec q.2 = none) := by
  decide +kernel

theorem test_debugStep : next (exec (.debugStep 319 47 0) (sDebug { tm with phase := .halted none })) (fun u => (u.m.teamAt 319 47).stepping) = true := by decide +kernel

theorem witness_debugCommands_fields : Fields (sSnapped.mem.readD (sSnapped.sys.slotBase 0)) [(63, 32, 1), (31, 0, 0)] := by
  unfold Fields; decide +kernel

/-! ## Copy commands -/

/-- Core 0 with a command in entry 63 of queue 3, at 8 cycles; address space 0 maps its first 64 KiB pages one to one, with every right. -/
def mapped : Mem := Mem.writeD [] 0x10000 (wordOf [(53, 1), (52, 1), (2, 1), (0, 2)])

def cmdState (k : Cmd) : State :=
  let s := at_ (onCore { coreFill with cmds := [(255, k)] }) 8 8
  { s with mem := mapped, sys := { s.sys with asroot := [(0, wordOf [(0, 0x10001)])] } }

def kFill : Cmd := { cmdOf fillRec with state := .posted }
def kRun (words : List Word) : Cmd := { cmdOf words with accepted := true, started := true, state := .running }

theorem witness_copyCommandsLiveAndEnd :
    ((cmdState kFill).m.core 0).cmds.find? 255 = some kFill ∧ ((cmdState kFill).m.groupAt 0 0).filling = none ∧
    (kFill.accepted = false ∧ kFill.state = .posted ∧ kFill.postedAt + 8 ≤ (cmdState kFill).m.now) ∧
    (({ kFill with accepted := true } : Cmd).started = false ∧ ((cmdState kFill).m.core 0).groups.has 0 = true ∧ ({ kFill with accepted := true } : Cmd).kind ≠ 6) ∧
    ((kRun fillRec).total = 4 ∧ ({ kRun fillRec with done := 4 } : Cmd).total ≤ 4 ∧ (cmdState { kRun fillRec with done := 4 }).acked 0 { kRun fillRec with done := 4 } = true ∧
      (cmdState { kRun fillRec with done := 4 }).openRequests 0 255 = false ∧ ({ kRun fillRec with done := 4 } : Cmd).token = none) ∧
    (({ kRun fillRec with cancelling := true } : Cmd).cancelling = true) := by decide +kernel

/-- A record with a barrier of one arrival at offset 640, behind word 7. -/
theorem witness_copyCommandsLiveAndEnd_barrier :
    let k := kRun (fillRec.take 6 ++ [wordOf [(48, 1), (0, 640)]])
    bits (k.w 6) 63 48 = 1 ∧ bits (k.w 6) 18 0 = 640 ∧ k.off + 64 ≤ 640 ∧ 576 + 8 ≤ ({ k with off := 528 } : Cmd).off + 56 := by
  refine ⟨by decide +kernel, by decide +kernel, by decide +kernel, by decide +kernel⟩

def kSusp : Cmd := { kRun fillRec with state := .suspended, fault := 1, idQueue := 3, idSlot := 63 }

def sSvc (a : Nat) : State :=
  let s := cmdState kSusp
  { s with sys := { s.sys with svc0 := wordOf [(62, a), (60, 3), (54, 63), (0, 0)] } }

theorem witness_copyCommandsLiveAndEnd_service :
    (sSvc 1).sys.ctlPort = 0 ∧ (sSvc 1).sys.boot = 0 ∧ (sSvc 1).sys.pstate ≠ 3 ∧
    (sSvc 1).m.serviced ((1 : Word).toNat % 2 ^ 32) (bits (sSvc 1).sys.svc0 31 0) (bits (sSvc 1).sys.svc0 61 60) (bits (sSvc 1).sys.svc0 59 54) = some (0, 255, kSusp) ∧
    bits (sSvc 1).sys.svc0 63 62 = 1 ∧ bits (sSvc 2).sys.svc0 63 62 = 2 ∧ kSusp.cancelling = false := by decide +kernel

theorem test_commandAccept : next (exec (.commandAccept 0 3 63) (cmdState kFill)) (fun u => (u.cmd? 0 255).map Cmd.accepted == some true) = true := by decide +kernel

/-- A COPY of four bytes from 0x180 to 0x100, a GATHER and a SCATTER of two rows of them with the index list at 0x1C0; layouts 12 and 13 of one dimension
of four bytes at each place (R157). -/
def copyRec : List Word := [wordOf [(35, 4), (30, 4)], 0x9000000000000180, 0x9000000000000100, 0, 4, 0, 0]
def gatherRec : List Word := [wordOf [(60, 1), (35, 4), (30, 4)], 0xC00000000000000C, 0x9000000000000100, 0x90000000000001C0, 2, 0, 0]
def scatterRec : List Word := [wordOf [(60, 2), (35, 4), (30, 4)], 0x9000000000000180, 0xC00000000000000D, 0x90000000000001C0, 2, 0, 0]
def layAt (p : Word) : List Word := [p, wordOf [(59, 4), (56, 1), (32, 1), (0, 4)], 0, 0, 0, 0, 0, 0]

def kGather : Cmd := { kRun gatherRec with src := some (layAt 0x9000000000000180) }
def kScatter : Cmd := { kRun scatterRec with dst := some (layAt 0x9000000000000100) }

/-- The operand of a word. -/
def opOf (k : Cmd) (word : Nat) : Option Operand := (cmdState k).m.operandOf 0 k word 4 k.total (if word = 1 then k.src else k.dst)

/-- Whether a local operand stands there. -/
def isLocal (o : Option Operand) : Bool := match o with | some o => !o.spot.global | none => false

theorem witness_copyCommandsAct_data :
    (cmdState (kRun fillRec)).m.mayAccess 0 255 (kRun fillRec) = true ∧ ((cmdState (kRun fillRec)).m.core 0).stopEng = false ∧
    (kRun fillRec).done < (kRun fillRec).total ∧ (kRun fillRec).answers = [] ∧ bits ((kRun fillRec).w 0) 39 35 = bits ((kRun fillRec).w 0) 34 30 ∧
    isFourBit 4 = false ∧ bits ((kRun fillRec).w 0) 26 24 = 0 ∧ isLocal (opOf (kRun fillRec) 2) = true ∧
    (kRun fillRec).kind = 3 ∧ (kRun copyRec).kind = 0 ∧ kGather.kind = 1 ∧ kScatter.kind = 2 ∧
    isLocal (opOf (kRun copyRec) 1) = true ∧ isLocal (opOf (kRun copyRec) 2) = true ∧ isLocal (opOf kGather 1) = true ∧ isLocal (opOf kScatter 2) = true ∧
    ((cmdState (kRun copyRec)).m.core 0).uncorrectable false (0x180 / 8) = false ∧
    (0 : Nat) < ((opOf kGather 1).map Operand.extOuter).getD 0 ∧ (0 : Nat) < ((opOf kScatter 2).map Operand.extOuter).getD 0 ∧
    ((cmdState kGather).m.spotOf 0 0 0 false (kGather.w 3)).isSome = true := by decide +kernel

/-- R158: the copied byte arrives; DONE says 1. -/
theorem test_copyCmd :
    let s := cmdState (kRun copyRec)
    next (exec (.copyCmd 0 3 63 1) { s with m := s.m.setCore 0 { s.m.core 0 with scratch := [⟨0x180, 0x77⟩] } })
      (fun u => (u.m.core 0).scratch.read 0x100 == 0x77 && (u.cmd? 0 255).map Cmd.done == some 1) = true := by
  refine by decide +kernel

/-- WATCH and SIGNAL on the word at 0x8000, FENCE, FLUSH and the four HINTs. -/
def watchRec (cmp : Word) : List Word := [wordOf [(60, 4), (56, 6), (40, 1), (15, 1)], 0x8000, 0x9000000000000100, 0xFFFFFFFFFFFFFFFF, 0, cmp, 0]
def signalRec : List Word := [wordOf [(60, 5), (56, 6), (40, 1), (15, 1)], 0, 0x8000, 9, 0, 0, 0]
def otherRec (kind op : Nat) : List Word := [wordOf [(60, kind), (56, if kind = 6 then 6 else 0), (20, if kind = 6 then 1 else 0), (13, op)], 0x8000, 0x8000, 0, 64, 0, 0]

/-- Whether a translation is there, local and plain. -/
def localLeaf (a : Access) : Bool := match a with | .ok l => !l.remote && inDevice (l.pa 0x8000) | _ => false

theorem witness_copyCommandsAct_watch :
    (kRun (watchRec 0)).kind = 4 ∧ (kRun (watchRec 0)).stage = 0 ∧
    (match (cmdState (kRun (watchRec 0))).engineAccess 0 255 (kRun (watchRec 0)) 0x8000 .read with | .ok r => localLeaf (.ok r.2) | .error _ => false) = true ∧
    (cmdState (kRun (watchRec 0))).poisoned 0x8000 8 = false ∧ ((cmdState (kRun (watchRec 0))).home (stackOf 0x8000)).watches = [] ∧
    (({ owner := .command 0 255, pa := 0x8000, size := 8, mask := 0xFFFFFFFFFFFFFFFF, cmp := 0, rel := 0, armed := true } : Watch).meets 0 = true) ∧
    (({ owner := .command 0 255, pa := 0x8000, size := 8, mask := 0xFFFFFFFFFFFFFFFF, cmp := 1, rel := 0, armed := true } : Watch).meets 0 = false) ∧
    ({ kRun (watchRec 0) with stage := 1, watchVal := some 0 } : Cmd).watchVal = some 0 ∧ 6 ≤ bits ((kRun (watchRec 0)).w 0) 59 56 ∧
    ((cmdState (kRun (watchRec 0))).m.spotOf 0 0 0 false ((kRun (watchRec 0)).w 2)).isSome = true := by decide +kernel

theorem witness_copyCommandsAct_others :
    ((kRun signalRec).kind = 5 ∧ (kRun signalRec).done ≠ 1 ∧ localLeaf ((cmdState (kRun signalRec)).engineXlat 0 0 0x8000 .write).2 = true ∧
      (cmdState { kRun signalRec with stage := 1 }).acked 0 { kRun signalRec with stage := 1 } = true ∧
      (cmdState { kRun signalRec with stage := 2 }).openRequests 0 255 = false ∧ (kRun signalRec).remoteFault = 0 ∧ (kRun signalRec).peers = []) ∧
    ((kRun (otherRec 6 0)).kind = 6 ∧ (kRun (otherRec 6 0)).order = 0 ∧ (cmdState { kRun (otherRec 6 0) with stage := 1 }).acked 0 (kRun (otherRec 6 0)) = true) ∧
    ((kRun (otherRec 7 0)).kind = 7 ∧ (cmdState { kRun (otherRec 7 0) with stage := 1 }).acked 0 (kRun (otherRec 7 0)) = true) ∧
    ((kRun (otherRec 8 0)).kind = 8 ∧ ∀ op, op < 4 → bits ((kRun (otherRec 8 op)).w 0) 14 13 = op) ∧
    ((cmdState (kRun (otherRec 8 3))).rangePieces 0 0 0x8000 64 (fun l => l.read && !l.own)).2.1.map (fun p => p.1) = [0x8000] := by decide +kernel

/-- What cannot be taken back: a FENCE that is done, a SIGNAL whose write is answered; a FILL never. -/
def isMade (k : Cmd) : Bool :=
  k.remoteFault = 0 && ((k.kind = 6 && k.stage = 4) || (k.kind = 5 && (3 ≤ k.stage || (k.stage = 2 && (bits (k.w 0) 26 24 ≠ 0 || k.peers = [])))))

theorem witness_copyCommandsLiveAndEnd_cancel :
    isMade { kRun (otherRec 6 0) with stage := 4, cancelling := true } = true ∧ isMade { kRun signalRec with stage := 3, cancelling := true } = true ∧
    isMade { kRun fillRec with cancelling := true } = false ∧ ({ kFill with cancelling := true } : Cmd).state = .posted ∧
    (∀ p ∈ ((cmdState kFill).m.core 0).cmds, p.1 / 64 = 3 → p.2.accepted = false → kFill.postedAt = p.2.postedAt ∧ kFill.team ≤ p.2.team) := by decide +kernel

/-- R384: a command cancelled in the eight cycles is CANCELLED in place of POSTED. -/
theorem test_commandAccept_cancelled : next (exec (.commandAccept 0 3 63) (cmdState { kFill with cancelling := true }))
    (fun u => (u.cmd? 0 255).map Cmd.state == some .cancelled && ((u.m.core 0).readSp (u.m.groupAt 0 0) 568).toNat / 2 ^ 60 == 4) = true := by decide +kernel

/-- R172: an arrival lands as the cycle ends: the second of two expected moves the phase on. -/
theorem test_landAll : (({ coreFill with scratch := [⟨640, 1⟩, ⟨642, 2⟩], arrivals := [⟨255, 640, 1⟩] } : Core).landAll.scratch.readD 640,
    ({ coreFill with arrivals := [⟨255, 640, 1⟩] } : Core).landAll.arrivals) = (0x0001000000020000, []) := by decide +kernel

/-- Nothing comes first on the bytes of a local operand, and the word at 0x8000 has met no error. -/
theorem witness_copyCommandsAct_ready :
    (match opOf (kRun copyRec) 2 with
      | some o => !(cmdState (kRun copyRec)).m.tileWaits o.spot.reach (o.at 0) 1 true (kRun copyRec).postedAt
      | none => false) = true ∧
    (((cmdState (kRun (watchRec 0))).home (stackOf 0x8000)).errors.find? (sectorOf 0x8000)).isNone = true ∧
    ((cmdState (kRun (watchRec 0))).m.groupAt 0 0).acquire = none := by decide +kernel

/-! ## Memory, translation, hosts -/

/-- Die 3 with some parts given. -/
def withDie (x : Die) : State := { State.reset with l2 := { dies := [(3, x)], homes := [] } }

def sBump : State :=
  let s := withDie { Die.initial with lines := [(7, { cls := 15, gen := 0, sv := 15, dirty := 0, rd := false, ret := 0, data := [], used := 0 })] }
  { at_ s 4 0 with m := { (at_ s 4 0).m with bumps := [⟨3, 15, 0, 0, false⟩] } }

theorem witness_memoryEvents_bump :
    ⟨3, 15, 0, 0, false⟩ ∈ sBump.m.bumps ∧ sBump.m.givenUp ⟨3, 15, 0, 0, false⟩ = false ∧ 0 + 4 ≤ sBump.m.now ∧ (sBump.die 3).liveCount 15 (((sBump.die 3).gen 15 + 1) % 64) = 0 ∧
    (Die.liveCount { Die.initial with gens := [(15, 63)], lines := (sBump.die 3).lines } 15 ((63 + 1) % 64) ≠ 0) ∧
    (sBump.die 3).stalled.find? 15 = none := by decide +kernel

/-- A command of core 240 that has asked for the sector at 0x8020, and the fill on its way. -/
def sFillBack : State :=
  let s := withDie { Die.initial with fills := [⟨0x8020, 0, 0, false, 1, 240, 255⟩] }
  { s with m := { s.m with cores := [(240, { Core.empty with cmds := [(255, { kRun fillRec with asked := [0x8020] })] })] }, mem := [⟨0x8021, 9⟩] }

theorem witness_memoryEvents_fill :
    (sFillBack.die 3).fills[0]? = some ⟨0x8020, 0, 0, false, 1, 240, 255⟩ ∧ sFillBack.rowStalls 0x8020 = false ∧ sFillBack.poisoned 0x8020 32 = false ∧
    (sFillBack.die 3).lines.find? (0x8020 / 128) = none ∧ sFillBack.cmd? 240 255 = some { kRun fillRec with asked := [0x8020] } ∧
    (sFillBack.die 3).bypasses (0x8020 / 32 * 32) = false ∧ (0 : Nat) = (sFillBack.die 3).gen 0 := by decide +kernel

/-- A message on its way. -/
def sMsg (k : MsgKind) (rdup : Bool) : State :=
  withDie { Die.initial with msgs := [⟨5, 256, 0, k, rdup⟩], lines := [(256, { cls := 0, gen := 0, sv := 15, dirty := 1, rd := false, ret := 0, data := [(0, 7)], used := 0 })] }

theorem witness_memoryEvents_messages :
    ((sMsg .performed false).die 3).msgs[0]? = some ⟨5, 256, 0, .performed, false⟩ ∧
    ((sMsg (.writeBack 256) false).die 3).turn 0 = some ⟨5, 256, 0, .writeBack 256, false⟩ ∧ ((sMsg (.writeBack 256) false).die 3).lines.find? 256 ≠ none ∧
    ((sMsg (.writeThrough 0x8000 [1, 2]) false).die 3).turn 0 = some ⟨5, 256, 0, .writeThrough 0x8000 [1, 2], false⟩ ∧
    (sMsg (.writeThrough 0x8000 [1, 2]) false).heldBy 3 0x8000 false = false ∧
    ((sMsg (.atomic 0x9000 0 7 8 1) false).die 3).turn 0 = some ⟨5, 256, 0, .atomic 0x9000 0 7 8 1, false⟩ ∧
    ((sMsg (.atomic 0x9000 0 7 8 1) false).die 3).lines.find? (0x9000 / 128) = none := by decide +kernel

/-- The granule of 0x8000 is held by die 0 as well. -/
def sHeld : State :=
  let s := sMsg (.writeThrough 0x8000 [1]) true
  { s with l2 := { s.l2 with homes := [(stackOf 0x8000, { Home.initial with holders := [(stackAddr 0x8000 / 4096, 1#4)] })] } }

theorem witness_memoryEvents_held : (sHeld.die 3).turn 0 = some ⟨5, 256, 0, .writeThrough 0x8000 [1], true⟩ ∧ (MsgKind.writeThrough 0x8000 [1]).pa? = some 0x8000 ∧
    (State.reset.home 7).enable = true := by decide +kernel

/-- A line that stands under another class, and a scrub that meets an error noted before. -/
theorem witness_memoryEvents_classes :
    (let x : Die := { (sMsg (.writeThrough 0x8000 [1, 2]) false).die 3 with
        lines := [(256, { cls := 4, gen := 0, sv := 15, dirty := 1, rd := false, ret := 0, data := [(0, 7)], used := 0 })] }
     x.turn 0 = some ⟨5, 256, 0, .writeThrough 0x8000 [1, 2], false⟩ ∧ (x.lines.find? (0x8000 / 128)).map Line.cls = some 4) ∧
    ((({ Home.initial with errors := [(0, .uncorrectable)] } : Home).errors.find? 0).getD .none = .uncorrectable) ∧ (State.reset.home 7).rowTests = [] ∧
    (0 : Nat) < 32 := by decide +kernel

theorem test_writeThrough : next (exec (.writeThrough 3 0) (sMsg (.writeThrough 0x8000 [1, 2]) false)) (fun u => u.mem.readN 0x8000 2 == 0x0201) = true := by
  decide +kernel

theorem test_homeAtomic : next (exec (.homeAtomic 3 0) (sMsg (.atomic 0x9000 0 7 8 1) false)) (fun u => u.mem.readN 0x9000 8 == 1) = true := by decide +kernel

def sXlat : State := { cmdState kFill with l2 := { dies := [(3, { Die.initial with invQueue := [(0, 1)], invDone := false })], homes := [] } }

theorem witness_translationEvents_walk :
    tlbFind (sXlat.die 3).tlb 0 (2 ^ 42 - 1) = none ∧ walk sXlat.mem sXlat.sys.asroot 0 (2 ^ 42 - 1) = some (1, wordOf [(53, 1), (52, 1), (2, 1), (0, 2)]) ∧
    (decodeLeaf 1 (wordOf [(53, 1), (52, 1), (2, 1), (0, 2)])).isSome = true ∧ (sXlat.die 3).invQueue = (0, 1) :: [] ∧ sXlat.drained 3 = true := by decide +kernel

/-- A running COPY of core 240 whose next element is at 0x8000, which no TLB entry maps. -/
def sWalk : State :=
  let k := kRun [wordOf [(35, 4), (30, 4)], 0x8000, 0x9000000000000100, 0, 4, 0, 0]
  { sXlat with m := { sXlat.m with cores := [(240, { coreFill with cmds := [(255, k)] })] }, l2 := { dies := [], homes := [] } }

theorem witness_translationEvents_ahead : sWalk.walksAhead 3 0 0x8000 = true ∧ tlbFind (sWalk.die 3).tlb 0 0x8000 = none ∧
    (walk sWalk.mem sWalk.sys.asroot 0 0x8000).isSome = true ∧ sWalk.walksAhead 3 0 (2 ^ 42 - 1) = false := by decide +kernel

theorem test_pageWalk : next (exec (.pageWalk 3 0 0x8000) sWalk) (fun u => (tlbFind (u.die 3).tlb 0 0x8000).isSome) = true := by decide +kernel

/-- A command that waits for page 1 of address space 2, and a handover of pages to the hosts or to the device. -/
def sReplay : State :=
  let s := cmdState { kRun fillRec with replay := some (2 * 2 ^ 39 + 1) }
  { s with l2 := { dies := [(0, { Die.initial with replayQ := [(0, 255)] })], homes := [] }, sys := { s.sys with ho0 := wordOf [(63, 1)] } }

theorem witness_translationEvents_writes :
    sReplay.sys.ctlPort = 0 ∧ sReplay.sys.boot = 0 ∧ sReplay.sys.pstate ≠ 3 ∧ (sReplay.die 0).replayQ = [(0, 255)] ∧
    (sReplay.cmd? 0 255).map Cmd.replay = some (some (bits (wordOf [(60, 2), (16, 1)]) 63 60 * 2 ^ 39 + bits (wordOf [(60, 2), (16, 1)]) 54 16)) ∧
    sReplay.sys.hoDone = true ∧ bitOf sReplay.sys.ho0 63 = true ∧ bitOf State.reset.sys.ho0 63 = false := by decide +kernel

/-- Page 2 of address space 0 is in the 2 MiB block that page 1 is in. -/
theorem witness_translationEvents_block : ({ cmdState kFill with mem := mapped } : State).samePage 1 2 = true := by decide +kernel

theorem witness_translationEvents_complete : ({ State.reset with sys := { Sys.initial with hoDone := false } } : State).sys.hoDone = false ∧
    ∀ k, k < 4 → ({ State.reset with sys := { Sys.initial with hoDone := false } } : State).drained k = true := by decide +kernel

def sHost : State := { State.reset with mem := [⟨2 ^ 39 - 8, 5⟩] }

theorem witness_hostEvents :
    sHost.sys.boot = 0 ∧ sHost.sys.pstate ≠ 3 ∧ (2 ^ 39 - 8) + 8 ≤ 2 ^ 39 ∧ sHost.poisoned (2 ^ 39 - 8) 8 = false ∧ sHost.poisoned (2 ^ 39 - 4) 4 = false ∧
    (2 ^ 39 - 8) % 8 = 0 ∧ (2 ^ 39 - 4) % 4 = 0 ∧ sHost.mem.readN (2 ^ 39 - 8) 8 = 5 ∧ 0 + 16 ≤ 2 ^ 39 ∧ (1 : Nat) ≠ sHost.sys.ctlPort ∧
    (0x20000 ≤ 0x30000 ∧ 0x30000 < 2 ^ 24) ∧ (2 ^ 24 - 8 < 2 ^ 24) ∧ (sHost.m.queue 63).ownPort = 1 ∧ (sHost.m.queue 63).enable = false ∧
    (sHost.m.queue 0).ownPort = 0 := by decide +kernel

theorem test_hostFetchadd : next (exec (.hostFetchadd (2 ^ 39 - 8) 8 3 0) sHost)
    (fun u => u.mem.readN (2 ^ 39 - 8) 8 == 8 && u.sys.outputs == [.readData 0 [5, 0, 0, 0, 0, 0, 0, 0] false]) = true := by decide +kernel

theorem test_hostCas_fails : next (exec (.hostCas (2 ^ 39 - 8) 8 4 9 0) sHost) (fun u => u.mem.readN (2 ^ 39 - 8) 8 == 5) = true := by decide +kernel

theorem test_registerWrite : next (exec (.registerWrite 0x30008 8 0xFFFFFFFFFFFFFFFF 0) sHost) (fun u => u.sys.asroot == [(1, 0x000FFFFFFFFF0001)]) = true := by
  decide +kernel

/-! ## The fabric -/

/-- Window 0 with ranks on this device and on device 5, reached through the second page of address space 0; a one-element CXA on it. -/
def winMem : Mem := mapped.writeD 0x10008 (wordOf [(60, 1), (59, 1), (52, 1), (0, 2)])

def win0 : Mcwin := { w0 := wordOf [(63, 1)], w1 := 0, ranks := [0, 5] }

def collA : Coll :=
  { id := 0, core := 0, group := 0, team := 0, flag := 12, op := 0, red := 0, ctl := ctlOk, shape := shI, window := 0x40000000000, off := 0, words := [],
    lay := [], issued := 0, accepted := false, ctx := [], rank := 0, seq := 0, data := [], done := false }

def sColl (k : Coll) : State :=
  let s := on tcoll
  { s with m := { s.m with colls := [k], nextColl := 1 }, mem := winMem, fab := { s.fab with mcwins := [(0, win0)] },
           sys := { s.sys with asroot := [(0, wordOf [(0, 0x10001)])] } }

def collRuns : Coll := { collA with accepted := true, ctx := [0, 0, 0, 5], data := [3, 0, 0, 0] }

def peer5 (params : List Nat) : List MemberData := [{ params := [], data := [], dcap := 0 }, { params := params, data := [4, 0, 0, 0], dcap := 0 }]

theorem witness_fabricEvents_windows :
    (sColl collA).sys.ctlPort = 0 ∧ (sColl collA).sys.boot = 0 ∧ (sColl collA).sys.pstate ≠ 3 ∧
    bitOf ((sColl collA).fab.mcwins.get Mcwin.initial 255).w0 63 = false ∧ bitOf (wordOf [(63, 1), (53, 1)]) 63 = true ∧ bitOf (wordOf [(63, 1), (53, 1)]) 62 = false ∧
    (sColl collRuns).m.running [0, 0] = some collRuns ∧ collRuns.op < 5 := by decide +kernel

theorem witness_fabricEvents_accept :
    ((sColl collA).m.collsOf 0)[0]? = some collA ∧ (sColl collA).m.collQuiet collA = true ∧
    (match ((sColl collA).contextOf collA).2 with | .ok ctx rank => ctx == [0, 0, 0, 5] && rank == 0 | _ => false) = true ∧
    (match ((sColl { collA with window := 0x80000000000 }).contextOf { collA with window := 0x80000000000 }).2 with | .fault code => code == 1 | _ => false) = true ∧
    ((sColl collA).contextOf collA).1.mustPrecede collA [0, 0] = false ∧ (((sColl collA).contextOf collA).1.capture collA).2 = some [0, 0, 0, 0] := by decide +kernel

theorem witness_fabricEvents_complete :
    ((sColl collRuns).m.collsOf 0)[0]? = some collRuns ∧ (sColl collRuns).m.running collRuns.key = some collRuns ∧
    collRuns.joined (peer5 [0, 0, 2, 1, 0]) = some [collRuns.member, { params := [0, 0, 2, 1, 0], data := [4, 0, 0, 0], dcap := 0 }] ∧
    collRuns.params = [0, 0, 2, 1, 0] ∧ collRuns.unfit 2 = false ∧ (shapeOf shI).four = false ∧ (shapeOf shI).overlaps = false ∧ collRuns.changes 2 0 0 = true ∧
    collRuns.barrier.1 + 8 ≤ collRuns.stoff ∧
    collRuns.joined (peer5 [1, 0, 2, 1, 0]) = some [collRuns.member, { params := [1, 0, 2, 1, 0], data := [4, 0, 0, 0], dcap := 0 }] := by decide +kernel

/-- R309: 3 + 4 = 7, and the status says DONE. -/
theorem test_collectiveComplete : next (exec (.collectiveComplete 0 0 (.joined (peer5 [0, 0, 2, 1, 0]))) (sColl collRuns))
    (fun u => (u.m.core 0).tile.readN 128 4 == 7 && (u.m.core 0).scratch.readD 512 == wordOf [(60, 1)]) = true := by decide +kernel

def flitBad : List Byte := leBytes 0x00A0000000000 256
def flitFine : List Byte := flitOf 1 0 0 noPayload

def sPort (x : Port) : State := { State.reset with fab := { State.reset.fab with ports := [(15, x)] } }

set_option maxRecDepth 100000 in
theorem witness_fabricEvents_goodFlit : flitGood flitFine = true := by decide +kernel

set_option maxRecDepth 100000 in
theorem witness_fabricEvents_badFlit : flitBad.length = 256 ∧ flitGood flitBad = false := by decide +kernel

theorem witness_fabricEvents_flits :
    (State.reset.fab.port 15).up = true ∧ flitFine.length = 256 ∧
    bits (flitHead flitFine) 63 56 = 1 ∧ bits (flitHead flitFine) 55 44 = (State.reset.fab.port 15).rxSeq ∧
    ((sPort { Port.initial with replay := [(4095, [])], nakSeq := 4095, naks := 15 }).fab.port 15).replay.has 4095 = true ∧
    (let x := (sPort { Port.initial with replay := [(4095, [])], nakSeq := 4095, naks := 16 }).fab.port 15; x.nakSeq = 4095 ∧ 16 ≤ x.naks) := by decide +kernel

/-- A key table of one entry at 0x40000 (R300): every right, all of the first page, generation 0; address space 0. -/
def keyMem : Mem := (mapped.writeD 0x40000 (wordOf [(60, 15)])).writeD 0x40008 0x10000

def sKeys : State :=
  { State.reset with mem := keyMem, sys := { Sys.initial with asroot := [(0, wordOf [(0, 0x10001)])], keyCnt := 1, keyBase := 0x40000 } }

def access (k : RemoteKind) (va : Nat) : RemoteAccess :=
  { src := 287, cmd := 1, elem := 0, key := 0, va := va, kind := k, op := 0, fmt := 7, size := 8, value := 5, seq := 0, mask := 0, cmp := 0, rel := 0 }

/-- Whether an access passes. -/
def allowedAt (c : RemoteCheck) (pa : Nat) : Bool := match c with | .ok a d => a == pa && !d | _ => false

theorem witness_fabricEvents_requests :
    ((access .read 0x8000).key.getLsbD 31 = false ∧ (287, 1) ∉ sKeys.fab.rejected) ∧
    allowedAt (sKeys.remoteCheck (access .read 0x8000)) 0x8000 = true ∧ allowedAt (sKeys.remoteCheck (access .write 0x8000)) 0x8000 = true ∧
    allowedAt (sKeys.remoteCheck (access .atomic 0x8000)) 0x8000 = true ∧ (match sKeys.remoteCheck (access .read 0x10000) with | .refused => true | _ => false) = true ∧
    sKeys.poisoned 0x8000 8 = false ∧ sKeys.fab.seen = [] := by decide +kernel

theorem test_remoteRequest : next (exec (.remoteRequest (access .atomic 0x8000)) sKeys)
    (fun u => u.mem.readN 0x8000 8 == 5 && u.fab.sent.any (fun o => match o with | .answer _ 287 1 0 0 v => v == 0 | _ => false)) = true := by decide +kernel

def staged1 : Staged := { src := 287, cmd := 1, elem := 0, pa := 0x8000, bytes := [5, 6], at_ := 0 }

def sStaged : State := { at_ State.reset 0 (16000000 * nsUnits) with fab := { State.reset.fab with staged := [staged1] } }

theorem witness_fabricEvents_staged : sStaged.fab.staged = [staged1] ∧ staged1.elem < 1 ∧ sStaged.otherHolders 0x8000 4 = [] ∧
    sStaged.fab.staged[0]? = some staged1 ∧ staged1.at_ + 16000000 * nsUnits ≤ sStaged.m.time ∧ RemoteNotice.cancel ≠ .commit := by decide +kernel

def remote1 (busy : Bool) (tries : Nat) : Remote :=
  { req := { core := 0, key := 255, elem := 0, peer := 5, index := 0, va := 0, kind := 0, op := 0, fmt := 4, size := 1, value := 0, seq := 0 }, tries := tries, due := 0, busy := busy, held := false }

def sRemote (x : Remote) : State :=
  let s := cmdState (kRun fillRec)
  { s with fab := { s.fab with remotes := [x] } }

theorem witness_fabricEvents_remotes :
    (sRemote (remote1 true 0)).fab.remotes[0]? = some (remote1 true 0) ∧ (remote1 false 5).tries < (sRemote (remote1 false 5)).sys.retries ∧
    (sRemote (remote1 false 6)).sys.retries ≤ (remote1 false 6).tries ∧ (sRemote (remote1 false 6)).cmd? 0 255 = some (kRun fillRec) ∧
    (sRemote (remote1 false 6)).fab.upPorts ≠ [] := by decide +kernel

theorem witness_fabricEvents_held : ({ remote1 false 0 with held := true } : Remote).held = true ∧ sKeys.fab.upPorts ≠ [] ∧ (access .read 0x8000).size ≤ 8 ∧
    (287 : Nat) ≠ sKeys.sys.devNum ∧ (sKeys.home (stackOf 0x8000)).errors.find? (sectorOf 0x8000) = none := by decide +kernel

/-- A buffer that meets an uncorrectable word when it is read at acceptance. -/
def sBadColl : State := { sColl collA with m := (sColl collA).m.setCore 0 { (sColl collA).m.core 0 with badTile := [16] } }

theorem witness_fabricEvents_capture : (match (sBadColl.contextOf collA).2 with | .ok ctx rank => ctx == [0, 0, 0, 5] && rank == 0 | _ => false) = true ∧
    ((sBadColl.contextOf collA).1.capture collA).2 = none ∧ (sBadColl.contextOf collA).1.mustPrecede collA (collKey [0, 0, 0, 5] 0) = false := by decide +kernel

/-! ## The device -/

theorem witness_deviceEvents_power :
    (at_ State.reset 0 (1000 * nsUnits)).m.rampUs < (at_ State.reset 0 (1000 * nsUnits)).m.us ∧
    (at_ State.reset 0 (10000 * nsUnits)).m.powerUs / 10 < (at_ State.reset 0 (10000 * nsUnits)).m.us / 10 ∧ 10 < State.reset.m.fcur ∧
    ({ Mach.initial with fnext := 10 } : Mach).fnext ≤ 10 ∧ 10 < State.reset.m.fnext ∧ State.reset.sys.pstate ≠ 3 ∧
    (let y := { Sys.initial with preqPending := true, preq := 3 }; y.preqPending = true ∧ y.pstate < y.preq) ∧ State.reset.m.grids = [] := by decide +kernel

theorem test_powerMeasure : next (exec (.powerMeasure 3600001) (at_ State.reset 0 (10000 * nsUnits))) (fun u => u.m.fnext == 35 && u.m.fcur == 36) = true ∧
    next (exec (.powerMeasure 3600000) (at_ State.reset 0 (10000 * nsUnits))) (fun u => u.m.fnext == 36) = true := by decide +kernel

/-- R22: the clock changes as the cycle ends. -/
theorem test_clock_changes : ({ State.reset with m := { Mach.initial with fnext := 35 } } : State).tick.m.fcur = 35 := by decide +kernel

def sys_ (y : Sys) : State := { State.reset with sys := y }

theorem witness_deviceEvents_debug :
    (sys_ { Sys.initial with dbg := 1 }).sys.dbg ≠ 0 ∧ (sys_ { Sys.initial with frozen := true }).sys.frozen = true ∧
    (∀ b, ({ sys_ { Sys.initial with frozen := true } with agenda := [.tick] } : State).agenda.head? ≠ some (.event (.resetDevice b))) ∧
    (sys_ { Sys.initial with sec := 2 }).sys.sec ≠ 0 ∧ State.reset.sys.sec = 0 := by
  refine ⟨by decide, by decide, fun b h => ?_, by decide, by decide⟩
  exact nomatch h

theorem test_frozen : next (step { sys_ { Sys.initial with frozen := true } with agenda := [.event .firmwareUpdate] }) (fun u => u.sys.firmware == 0) = true := by
  decide +kernel

/-- Bring-up: the steps of R318, and power requests that can be met at once. -/
def sBring (step : Nat) (sig tr : Bool) : State := sys_ { Sys.initial with boot := 3, bringUp := some ⟨⟨sig, tr⟩, step, 0⟩ }

theorem witness_deviceEvents_bringUp : (sBring 1 true true).sys.bringUp = some ⟨⟨true, true⟩, 1, 0⟩ ∧ 0 ≤ (sBring 1 true true).m.time ∧
    (sBring 1 false true).sys.bringUp = some ⟨⟨false, true⟩, 1, 0⟩ ∧ (sBring 2 true false).sys.bringUp = some ⟨⟨true, false⟩, 2, 0⟩ ∧
    (sBring 3 true true).sys.bringUp = some ⟨⟨true, true⟩, 3, 0⟩ ∧ ({ State.reset with agenda := [.scanRead] } : State).agenda = .scanRead :: [] := by decide

theorem test_bringUp : (sBring 2 true false).bringUpStep.sys.boot = 2 ∧ (sBring 1 false true).bringUpStep.sys.boot = 1 ∧
    (sBring 3 true true).bringUpStep.sys.boot = 0 := by decide +kernel

theorem witness_deviceEvents_states : (let s := at_ (sys_ { Sys.initial with pstate := 2, preqPending := true, preq := 0 }) 0 (200000 * nsUnits)
      s.sys.pstate ≠ 3 ∧ s.sys.pstate ≠ 0 ∧ s.sys.preqAt + 200000 * nsUnits ≤ s.m.time) ∧
    (∀ p ∈ State.reset.m.cores, ∀ g ∈ p.2.groups, g.2.phase = .gone) ∧ (∀ p ∈ State.reset.m.queues, p.2.head = p.2.tail) ∧
    (∀ p ∈ State.reset.m.queues, p.2.enable = false) := by decide +kernel

def bankError : ErrorSite := { unit := .tileBank, number := 31, parent := 319 }

theorem witness_deviceEvents_errors : siteExists bankError = true ∧ State.reset.sys.tests = [] ∧
    (sys_ { Sys.initial with tests := [⟨bankError, 1, 0⟩] }).sys.tests[0]? = some ⟨bankError, 1, 0⟩ := by decide

theorem test_selfTestEnd : next (exec (.selfTestEnd 0 true) (sys_ { Sys.initial with tests := [⟨bankError, 1, 0⟩] })) (fun u => (u.m.core 319).lost) = true := by
  decide +kernel

/-! ## Further states that meet hypotheses -/

/-- An LDC of a team of a set of two: its access to another core's partition has its place behind the issues. -/
def sLdc : State :=
  let s := fetching (wordOfInstr (.ldc 3 1 0 2 false true false))
  let x := s.m.core 0
  { s with m := s.m.setCore 0 { x with groups := x.groups.map (fun _ g => { g with lrec := { g.lrec with coloc := 1 }, spUnits := 1 }) } }

theorem witness_stepRunsDecodedWord_place : (let s := fetching 0x10304200
    s.keyOf (.issue 0 0) = issueKey ∧ s.dueFirst = none ∧ s.fetchErrs 0 0 = false) ∧
    (sLdc.agenda = [.issue 0 0] ∧ sLdc.keyOf (.issue 0 0) ≠ issueKey ∧ sLdc.turn ≤ sLdc.keyOf (.issue 0 0) ∧
      (sLdc.owed (sLdc.keyOf (.issue 0 0))).isNone = true ∧ sLdc.pickCluster 0 = some 0 ∧ sLdc.fetchErrs 0 0 = false ∧
      nextOf sLdc 0 0 = .run (.ldc 3 1 0 2 false true false) .localMem) := by decide +kernel

/-- The word fetched lies in a sector with an error, or in a row under test. -/
def sErrFetch : State := let s := fetching 0x10304200; s.setHome (stackOf 131072) { Home.initial with errors := [(sectorOf 131072, .corrected)] }
def sRowFetch : State := let s := fetching 0x10304200; s.setHome (stackOf 131072) { Home.initial with rowTests := [Config.hbmRow (sectorOf 131072)] }

theorem witness_stepRunsDecodedWord_fetch : sErrFetch.fetchErrs 0 0 = true ∧ (decide (nextOf sErrFetch 0 0 = .wait)) = false ∧ sErrFetch.dueFirst = none ∧
    sErrFetch.keyOf (.issue 0 0) = issueKey ∧ sErrFetch.pick 0 = some 0 := by decide +kernel

theorem witness_nextWordIsAtThePc_stalls : sRowFetch.fetchStalls 0 0 = true ∧ sSadd.fetchStalls 0 0 = false := by
  refine ⟨?_, by decide +kernel⟩
  have h : sRowFetch.fetchesOf 0 0 = [65536, 131072] := by decide +kernel
  have hd : inDevice 131072 = true := by decide +kernel
  have hh : (sRowFetch.home (stackOf 131072)).rowTests = [Config.hbmRow (sectorOf 131072)] := rfl
  have hl : sRowFetch.l2.homes.any (fun h => !h.2.rowTests.isEmpty) = true := rfl
  rw [State.fetchStalls, hl, h]
  simp [State.rowStalls, hd, hh]

/-- Of two task operations that could issue, the team on the lower place goes first. -/
theorem witness_stepRunsDecodedWord_task : (let s := twins (wordOfInstr (.tsub 1))
    s.pick 0 = some 0 ∧ nextOf s 0 0 = .run (.tsub 1) .control ∧ nextOf s 0 1 = .run (.tsub 1) .control) ∧ ∃ a, Instr.tsub 1 ∈ [Instr.tsub a, .tdone a, .tcancel a] :=
  ⟨by decide +kernel, 1, by decide⟩

/-! Scalar frame -/
theorem witness_scalarFrame : encode (.sadd 3 1 2) = some 0x10304200#32 ∧ 4 ≤ (0x10304200#32 : Inst).toNat / 2 ^ 26 ∧ (0x10304200#32 : Inst).toNat / 2 ^ 26 ≤ 7 ∧
    goes (exec (.sadd 3 1 2) (on tsc)) = true ∧ (∀ a b c u, Instr.sadd 3 1 2 = .sdiv a b c u ∨ Instr.sadd 3 1 2 = .srem a b c u → (on tsc).reg c ≠ 0) ∧
    (∀ a b c u r, Instr.sadd 3 1 2 = .scmp a b c u r → r.toNat < 6) ∧
    (∃ w, encode (.sdiv 4 3 1 false) = some w ∧ 4 ≤ w.toNat / 2 ^ 26 ∧ w.toNat / 2 ^ 26 ≤ 7) ∧ goes (exec (.sdiv 4 3 1 false) (on tsc)) = true ∧
    (∀ a b c u, Instr.sdiv 4 3 1 false = .sdiv a b c u ∨ Instr.sdiv 4 3 1 false = .srem a b c u → (on tsc).reg c ≠ 0) := by
  refine ⟨by decide, by decide, by decide, by decide, ?_, nofun, ⟨(encode (.sdiv 4 3 1 false)).getD 0, by decide, by decide, by decide⟩, by decide, ?_⟩
  · rintro a b c u (h | h) <;> exact nomatch h
  · rintro a b c u (h | h)
    · injection h with h1 h2 h3 h4
      subst h3
      decide
    · exact nomatch h

/-- A team whose stack holds 32 entries, the oldest with runs of its own; s63 names the end of its private area, or a place in it. -/
def entryOf (e : StackEntry) : List StackEntry := List.replicate 31 ⟨true, [⟨true, 32⟩], [⟨true, 32⟩], 0x4000⟩ ++ [e]
def oldest : StackEntry := ⟨false, [⟨true, 32⟩], [⟨false, 2⟩, ⟨true, 32⟩], 0x4000⟩
def tdeep (s63 : Word) : Team := { tdiv with stack := entryOf oldest, s := [(63, s63)] }

theorem witness_divergingBranch_spill :
    (on (tdeep 0x8000000000000400)).team.Canonical ∧ (on (tdeep 0)).team.stack = entryOf oldest ∧ (List.replicate 31 oldest).length = 31 ∧
    (let s := on (tdeep 0x8000000000000400); s.team.spillEnd + (16 + 8 * 3) ≤ s.group.lrec.priv * 256 ∧
      3 * s.team.lanes ≤ s.team.free + (s.team.rm 0).length + 1 + 2 ∧ (s.reg 63).toNat - 2 ^ 63 = 1024 ∧ s.group.lrec.priv * 256 = 1024) ∧
    (let s := on (tdeep 0x8000000000000020); (s.reg 63).toNat - 2 ^ 63 = 32 ∧ 32 < s.team.spillEnd + (16 + 8 * 3)) :=
  ⟨canonical_of _ (by decide) (by decide) (by decide), by decide, by decide, by decide, by decide⟩

/-- R59, R60: the record of the oldest entry stands at the private area's start, behind the shared kilobyte. -/
theorem test_brd_spill : next (exec (.brd 1 4) (on (tdeep 0))) (fun u => u.team.stack.length == 32 && u.team.spilled == [0] && u.team.spillEnd == 40 &&
      u.core.scratch.readD 1024 == 0x4000 && u.core.scratch.readD 1032 == wordOf [(32, 1), (0, 2)]) = true ∧
    trapOf (.brd 1 4) (on { tdeep 0x8000000000000020 with trapVec := 0x8000 }) = (13, 40) := by decide +kernel

/-- The spilled entry of `onSpill` fits a team with room; and records with a reserved bit, or that run past the area. -/
def onReload (w0 : Word) : State := onCore { onSpill.core with teams := [(0, { tm with trapVec := 0x8000, spilled := [0], spillEnd := 40 })], scratch := onSpill.core.scratch.writeD 1024 w0 }

theorem witness_joinCompletes_reload :
    (onReload (.ofNat 64 (2 ^ 63 + 0x4000))).team.stack = [] ∧ (onReload 0x4000).team.spilled = [0] ∧ (onReload 0x4000).team.Canonical ∧
    (onReload 0x4000).core.badScratch = [] ∧
    (∀ b ∈ [0x4000, (.ofNat 64 (2 ^ 63 + 0x4000) : Word)], ∃ (e : StackEntry) (ws : List Word), ws = ([b, wordOf [(32, 1), (0, 2)], wordOf [(16, 1), (0, 32)], wordOf [(0, 2)], wordOf [(16, 1), (0, 32)]] : List Word) ∧
      e = ⟨b ≠ 0x4000, [⟨true, 32⟩], [⟨false, 2⟩, ⟨true, 32⟩], 0x4000⟩ ∧ (List.range 5).map (fun j => (onReload b).core.readSp (onReload b).group (1024 + 8 * j)) = ws ∧
      e.resume.toNat < 2 ^ 55 ∧ maskCanonical 32 e.saved = true ∧ maskCanonical 32 e.pending = true ∧ 8 * ws.length ≤ 1024 - 0 ∧
      e.saved.length + 2 * e.pending.length ≤ (onReload b).team.free) ∧
    (onReload (.ofNat 64 (2 ^ 55))).core.readSp (onReload 0).group 1024 = .ofNat 64 (2 ^ 55) := by
  refine ⟨by decide +kernel, by decide +kernel, canonical_of _ (by decide) (by decide) (by decide), by decide +kernel, ?_, by decide +kernel⟩
  intro b hb
  simp only [List.mem_cons, List.not_mem_nil, or_false] at hb
  rcases hb with rfl | rfl <;> exact ⟨_, _, rfl, rfl, by decide +kernel⟩

theorem witness_joinCompletes_record : IsSpill [0x4000, wordOf [(32, 1), (0, 2)], wordOf [(16, 1), (0, 32)], wordOf [(0, 2)], wordOf [(16, 1), (0, 32)]]
    ⟨false, [⟨true, 32⟩], [⟨false, 2⟩, ⟨true, 32⟩], 0x4000⟩ := by
  refine ⟨_, _, _, rfl, ⟨rfl, fun k w p hw hp => ?_⟩, by unfold Fields; decide +kernel, by unfold Fields; decide +kernel⟩
  match k with
  | 0 => cases hw; cases hp; unfold Fields; decide +kernel
  | 1 => cases hw; cases hp; unfold Fields; decide +kernel
  | 2 => cases hw; cases hp; unfold Fields; decide +kernel
  | k + 3 => cases hw

theorem test_join_reload : next (exec .join (onReload 0x4000)) (fun u => u.team.pc == 0x4000 && u.team.rm 0 == [⟨false, 2⟩, ⟨true, 32⟩] && u.team.spilled == [] &&
      u.team.stack == [⟨true, [⟨true, 32⟩], [⟨false, 2⟩, ⟨true, 32⟩], 0x4000⟩]) = true ∧
    trapOf .join (onReload (.ofNat 64 (2 ^ 55))) = (13, .ofNat 64 (2 ^ 63 + 1024)) := by decide +kernel

/-- With all clause flags clear, and with the highest of them set; operations that named no flag do not count. -/
theorem witness_trapWithoutHandlerTerminates_flags : (∀ f, f < 12 → (on { tm with flags := [(12, 1)] }).team.flagCount f = 0) ∧
    (∃ f, f < 12 ∧ (on { tm with flags := [(11, 1)] }).team.flagCount f ≠ 0) ∧ (on { tm with flags := [(12, 1)] }).team.trapVec = 0 :=
  ⟨by decide, ⟨11, by decide, by decide⟩, by decide⟩

/-- R278: the team is EXITED though an operation that named no flag is not over. -/
theorem test_terminated_flags : ((on { tm with flags := [(12, 1)] }).trapped 20 0).team.phase = .exited ∧
    ((on { tm with flags := [(11, 1)] }).trapped 20 0).team.phase = .ending := by decide +kernel

/-- O4 as a source and as a target; a pair of 3.0 and −40.0 in FP32. -/
def tpair : Team := { tm with mode := .ofNat 64 (10 * 2 ^ 15), v := [(1, ⟨false, .g [⟨0x40400000, 1⟩, ⟨0xC2200000, 32⟩]⟩), (2, ⟨false, .g [⟨8, 1⟩, ⟨12, 32⟩]⟩)] }

theorem witness_specialFunctionsAndConversions_o4 : (on tpair).team.Canonical ∧ fmtBits 17 ≠ 0 ∧ (17 : BitVec 5).toNat = 17 ∧ (10 : Nat) ≠ 17 ∧ (on tpair).team.Room 4 false :=
  ⟨canonical_of _ (by decide) (by decide) (by decide), by decide, by decide, by decide, by unfold Team.Room; decide⟩

/-- R107's example: the codes 0b1000 and 0b1100; R106: they read back as 0 and −32. -/
theorem test_vcvt_o4 : next (exec (.vcvt 4 1 17 10) (on tpair)) (fun u => (u.team.rv 4).lane 32 0 == 8 && (u.team.rv 4).lane 32 1 == 12 &&
      u.team.passes.map PassRec.flags == [5]) = true ∧
    next (exec (.vcvt 4 2 2 17) (on tpair)) (fun u => (u.team.rv 4).lane 32 0 == 0 && (u.team.rv 4).lane 32 1 == 0xFFFFFFE0) = true := by decide +kernel

/-- A COOP grid that is being placed beside that team's group: 300 slots for each team of its next group are its reserve. -/
theorem witness_runManagement_pool : (∀ p ∈ (on tinactive).m.grids, (on tinactive).m.placingCoop p.1 p.2 = false) ∧ 3 ≤ (on tinactive).core.poolFree ∧
    (on tinactive).m.poolGives 3 = true ∧ (on tinactive).core.poolFree < 65537 ∧ (on tinactive).m.poolGives 65537 = false := by decide +kernel

theorem witness_storesArePerformed_flight : (∀ q ∈ (sFlight.m.teamAt 0 0).flight, q.entered < sFlight.m.now) ∧
    (((sFlight.m.core 0).serveStore (storeOf true) ((sFlight.m.core 0).busy.headD BankUse.idle)).1 = []) ∧
    (let s := queuedOn { tm with flight := [{ storeTwo with cluster := true }] }
     ((s.m.core 0).serveStore { storeTwo with cluster := true } ((s.m.core 0).busy.headD BankUse.idle)).1 ≠ []) := by decide +kernel

/-- Lanes of a scratchpad access at 4·l from an offset: the first one that is misaligned, and the first one out of bounds. -/
theorem witness_localAccessTraps_lanes : (on tmem).team.Canonical ∧ (1 : Reg).toNat < (on tmem).team.nv ∧
    (∀ l, l < 32 → laneOffset sMem 66 0 true l % 4 ≠ 0 ∨ l = 0 ∨ True) ∧ laneOffset sMem 66 1 true 0 % 4 ≠ 0 ∧
    (sMem.m.reachOf .scratch 4000 = .ok (sMem.m.reachSp, 4000)) ∧ (∀ l, l < 24 → laneOffset sMem 4000 1 true l + 4 ≤ 4096) ∧
    ¬ (laneOffset sMem 4000 1 true 24 + 4 ≤ 4096) ∧ (∀ l, l < 32 → laneOffset sMem 4000 1 true l % 4 = 0) :=
  ⟨canonical_tmem, by decide, by decide, by decide, rfl, by decide, by decide, by decide⟩

/-- A read-write lock on the bytes 128 to 144 of that partition, registered in cycle 0; a live task in block 1; and a lost word at 192. -/
def lock1 : Lock := { tile := false, rw := true, queue := 3, slot := 63, group := 0, start := 128, stop := 144, ocore := 0, coll := none, from_ := 0 }
def sLock (w : Bool) : State := onCore { coreOf tmem with locks := [(0, { lock1 with start := 0, stop := 0 }), (63, { lock1 with rw := w })] }
def sTask : State := onCore { coreOf tmem with groups := [(0, { gp with live := [1, 2] })] }
def sLost : State := onCore { coreOf tmem with badScratch := [24, 25] }

/-- A lane at 4·l from 100: lane 7 is the first at 128. -/
theorem witness_localAccessTraps_lock : (sLock true).m.reachOf .scratch 100 = .ok ((sLock true).m.reachSp, 100) ∧
    (∀ l, l < 32 → laneOffset (sLock true) 100 1 true l % 4 = 0 ∧ 0 ≤ laneOffset (sLock true) 100 1 true l ∧ laneOffset (sLock true) 100 1 true l + 4 ≤ 4096) ∧
    (List.map Prod.fst (sLock true).core.locks).Pairwise (· < ·) ∧ (sLock true).core.locks.find? 63 = some lock1 ∧ lock1.from_ ≤ (sLock true).m.now ∧
    (laneOffset (sLock true) 100 1 true 7 < (lock1.stop : Int) ∧ (lock1.start : Int) < laneOffset (sLock true) 100 1 true 7 + 4) ∧ lock1.start < lock1.stop ∧
    (∀ l, l < 7 → ¬ ((lock1.start : Int) < laneOffset (sLock true) 100 1 true l + 4)) ∧ (63 < 64 ∧ lock1.queue < 4 ∧ lock1.slot < 64 ∧ 128 < 2 ^ 20) ∧
    lockHit ((sLock false).core.seenLocks 0) false 0 128 4 false = none ∧ lockHit ((sLock false).core.seenLocks 0) false 0 128 4 true ≠ none :=
  ⟨rfl, by decide, by decide, by decide, by decide, by decide, by decide, by decide, by decide, by decide, by decide⟩

/-- A store of lane 0 at 64 + 4·0 reaches word 0 of block 1. -/
theorem witness_localAccessTraps_task : sTask.m.reachOf .scratch (sTask.reg 1) = .ok (sTask.m.reachSp, 64) ∧ sTask.core.locks = [] ∧
    1 ∈ (sTask.core.group 0).live ∧ laneOffset sTask 64 1 true 0 < 64 * 1 + 8 ∧ 64 * 1 < laneOffset sTask 64 1 true 0 + 4 ∧
    (∀ l, l < 32 → laneOffset sTask 64 1 true l % 4 = 0 ∧ laneOffset sTask 64 1 true l + 4 ≤ 4096) ∧ (1 : Nat) < 65536 :=
  ⟨rfl, by decide, by decide, by decide, by decide, by decide, by decide⟩

/-- Words 24 and 25 of one set: lane 32 of 4·l from 64 would reach 192; with a base of 128 lane 16 does. -/
theorem witness_localAccessTraps_ecc : sLost.m.reachOf .scratch 128 = .ok (sLost.m.reachSp, 128) ∧
    (sLost.m.core 0).uncorrectable false (sLost.m.phys sLost.m.reachSp (laneOffset sLost 128 1 true 16) / 8) = true ∧
    (∀ l, l < 16 → (sLost.m.core 0).uncorrectable false (sLost.m.phys sLost.m.reachSp (laneOffset sLost 128 1 true l) / 8) = false) ∧
    (∀ l, l < 32 → accessAllowed sLost sLost.m.reachSp 4 false (laneOffset sLost 128 1 true l)) ∧ sLost.team.Room 12 false :=
  ⟨rfl, by decide +kernel, by decide +kernel, by unfold accessAllowed; decide +kernel, by unfold Team.Room; decide⟩

/-- Pointers: a private one of core 5, one with an owner of 320, a cluster pointer with no peer, and one above the window. -/
theorem witness_localAccessTraps_pointers : (0x9028000000000010 : Word).toNat / 2 ^ 60 = 9 ∧ (0x9028000000000010 : Word).toNat % 2 ^ 60 / 2 ^ 51 = 5 ∧ (5 : Nat) ≠ sMem.m.cur.core ∧
    sMem.m.cur.core < 320 ∧ (0x9A00000000000000 : Word).toNat % 2 ^ 60 / 2 ^ 51 = 320 ∧
    ((0xA007000000000000 : Word).toNat / 2 ^ 60 = 10 ∧ (0xA007000000000000 : Word).toNat % 2 ^ 60 < 8 * 2 ^ 48 ∧ (sMem.m.core (0 / 8 * 8 + 7)).groups = []) ∧
    ((0x8000000000080000 : Word).toNat / 2 ^ 60 = 8 ∧ 2 ^ 19 ≤ (0x8000000000080000 : Word).toNat % 2 ^ 60) := by decide +kernel

def onPtr (p : Word) : State := on { tmem with s := [(1, p)], trapVec := 0x8000 }

/-- R136, R274: each trap's code and TRAPINFO. -/
theorem test_local_traps :
    trapOf (.lds 12 1 1 2 true false false) (let s := sLock true; { s with m := s.m.setTeam { s.team with s := [(1, 100)], trapVec := 0x8000 } }) =
      (5, wordOf [(52, 63), (48, 3), (42, 63), (0, 128)]) ∧
    trapOf (.sts 2 1 1 2 true false) { sTask with m := sTask.m.setTeam { sTask.team with trapVec := 0x8000 } } = (17, wordOf [(32, 0), (16, 1), (0, 7)]) ∧
    trapOf (.lds 12 1 1 2 true false false) { sLost with m := sLost.m.setTeam { sLost.team with s := [(1, 128)], trapVec := 0x8000 } } = (20, 192) ∧
    trapOf (.ld 12 1 0 2 false true false) (onPtr 0x9028000000000010) = (6, wordOf [(41, 5), (32, 0), (0, 16)]) ∧
    trapOf (.ld 12 1 0 2 false true false) (onPtr 0xA007000000000000) = (7, wordOf [(60, 10), (0, 4)]) ∧
    trapOf (.ld 12 1 0 2 false true false) (onPtr 0x9A00000000000000) = (7, wordOf [(60, 9), (0, 3)]) := by decide +kernel

/-- That team and core with the words of one set lost. -/
def lostAt (s : State) (ws : List Nat) : State := s.withCore { s.core with badScratch := ws }

theorem witness_barriersComplete_words : (on (tbar 0)).Readable [8] ∧ (on (tbar 0)).Intact [8] ∧
    (lostAt (on (tbar 0)) [1, 2]).core.uncorrectable false ((0 + 8) / 8) = true ∧ (lostAt (on (tbar 0)) [1, 2]).Readable [] ∧ (8 : Nat) < 2 ^ 20 ∧
    (lostAt (on (tbar 0)) [1]).Readable [8] ∧ (lostAt (on (tbar 0)) [1]).core.lostWord 1 = true := by
  unfold State.Readable State.Intact; decide +kernel

/-- R142, R274: a barrier word that cannot be rebuilt traps; one that can is read. -/
theorem test_barrier_ecc : trapOf (.barv 1 2) (lostAt (on { tbar 1 with trapVec := 0x8000 }) [1, 2]) = (20, 8) ∧
    next (exec (.barv 1 2) (lostAt (on (tbar 1)) [1])) (fun u => u.core.scratch.readD 8 == 1 && u.core.badScratch == [] && u.core.detected == [(false, 1)]) = true := by
  decide +kernel

/-- What stands for the FILL's ranges, and those of the COPY, GATHER and SCATTER below: no failure, and the operands are there. -/
def recState (ws : List Word) (lays : List (Nat × List Word)) : State :=
  let put (m : Mem) (a : Nat) (xs : List Word) : Mem := xs.zipIdx.foldl (fun m p => m.writeD (a + 8 * p.2) p.1) m
  onCore { coreFill with scratch := lays.foldl (fun m l => put m l.1 l.2) (put [] 512 ws) }

def rowRec (p : Word) : List Word := [p, wordOf [(59, 4), (56, 1), (32, 1), (0, 4)], 0, 0, 0, 0, 0, 0]
def sGatherPost : State := recState [wordOf [(60, 1), (35, 4), (30, 4)], 0xC000000000000001, 0x9000000000000100, 0x90000000000001C0, 2, 0, 0] [(64, rowRec 0x9000000000000180)]
def sCopyPost : State := recState [wordOf [(35, 4), (30, 4)], 0x9000000000000180, 0x9000000000000100, 0, 4, 0, 0] []
def sScatterPost : State := recState [wordOf [(60, 2), (35, 4), (30, 4)], 0x9000000000000180, 0xC000000000000001, 0x90000000000001C0, 2, 0, 0] [(64, rowRec 0x9000000000000100)]
def sWatchPost : State := recState [wordOf [(60, 4), (56, 6), (40, 1), (15, 1)], 0x8000, 0x9000000000000100, 0xFFFFFFFFFFFFFFFF, 0, 0, 0] []
def sBadPost : State := recState [wordOf [(35, 4), (30, 31)], 0x9000000000000180, 0x9000000000000100, 0, 4, 0, 0] []

theorem witness_copyCommandsComplete_kinds : (∀ s ∈ [sGatherPost, sCopyPost, sScatterPost, sWatchPost], (s.m.postCheck 512).failures = []) ∧
    (∀ k, k < 320 → (sCopyPost.m.core k).badScratch = []) ∧ sBadPost.m.postOffset 512 = .ok () ∧ sBadPost.Intact (sBadPost.m.postOffs 512) ∧
    (sBadPost.m.postCheck 512).failures = [(3, 0)] ∧ (lostAt sCopyPost [64, 65]).Readable [] ∧
    (lostAt sCopyPost [64, 65]).core.uncorrectable false ((0 + 512) / 8) = true ∧ ((lostAt sCopyPost [64, 65]).m.postOffs 512).head? = some 512 ∧
    (lostAt sCopyPost [64, 65]).m.postOffset 512 = .ok () := by
  unfold State.Intact State.Readable
  exact ⟨by decide +kernel, by decide +kernel, ok_of (by decide +kernel), by decide +kernel, by decide +kernel, by decide +kernel, by decide +kernel,
    by decide +kernel, ok_of (by decide +kernel)⟩

/-- R145's table: destination read-write, source, index list and word 7 write; the index list names row 0 alone. -/
theorem test_cpost_ranges : (sGatherPost.m.postRanges 512 (sGatherPost.m.postCheck 512)).map (fun r => (r.rw, r.start, r.stop)) =
      [(true, 256, 258), (false, 384, 385), (false, 448, 456), (false, 568, 576)] ∧
    (sScatterPost.m.postRanges 512 (sScatterPost.m.postCheck 512)).map (fun r => (r.rw, r.start, r.stop)) =
      [(true, 256, 257), (false, 384, 386), (false, 448, 456), (false, 568, 576)] ∧
    trapOf (.cpost 1 0 false) { sBadPost with m := sBadPost.m.setTeam { sBadPost.team with trapVec := 0x8000 } } = (18, wordOf [(32, 512), (8, 0), (0, 3)]) := by
  decide +kernel

/-! Tasks, child launches -/

theorem witness_taskInstructionsComplete_words :
    let x := coreTask [(960, tcbWord 3 0 1 0 0), (1008, 3), (192, tcbWord 1 0 0 1 0)] ready (some 15)
    (onCore x).Readable (x.taskOffs ready 15 true) ∧ (onCore x).Readable (x.taskOffs ready 15 false) ∧ (x.taskOffs ready 15 true).head? = some 960 ∧
    (lostAt (onCore x) [120, 121]).core.uncorrectable false ((0 + 960) / 8) = true := by
  unfold State.Readable; decide +kernel

theorem test_task_ecc : trapOf (.tdone 1) (let s := lostAt (onCore (coreTask [(960, tcbWord 3 0 0 0 0)] ready (some 15))) [120, 121]
    { s with m := s.m.setTeam { s.team with trapVec := 0x8000 } }) = (20, 960) := by decide +kernel

theorem witness_launchesAndWaits_words : (onCore (coreChild 0)).Readable ((List.range 8).map fun k => 64 + 8 * k) ∧ (onCore (coreChild 0)).Readable [64 + 64] ∧
    (onCore (coreChild 0)).Intact [64 + 64] ∧ ((onCore (coreChild 0)).reg 1).toNat % 2 ^ 19 = 64 ∧
    (lostAt (onCore (coreChild 0)) [16, 17]).core.uncorrectable false ((0 + (64 + 64)) / 8) = true ∧
    (lostAt (onCore (coreChild 0)) [8, 9]).core.uncorrectable false ((0 + 64) / 8) = true := by
  unfold State.Intact State.Readable; decide +kernel

theorem test_lwait_ecc : trapOf (.lwait 2 1) (let s := lostAt (onCore (coreChild 0)) [16, 17]
    { s with m := s.m.setTeam { s.team with trapVec := 0x8000 } }) = (20, 128) := by decide +kernel

/-! Reads at homes that have met nothing -/

/-- With no home changed since reset, no row is under test and no sector has an error or is poisoned. -/
theorem home_of_noHomes {s : State} (h : s.l2.homes = []) (k : Nat) : s.home k = Home.initial := by
  simp [State.home, L2Side.home, h, Tab.get, Tab.find?]

theorem rowStalls_of_noHomes {s : State} (h : s.l2.homes = []) (a : Nat) : s.rowStalls a = false := by
  simp [State.rowStalls, home_of_noHomes h, Home.initial]

theorem soundAt_of_noHomes {s : State} (h : s.l2.homes = []) {pa n : Nat} (hp : s.poisoned pa n = false) : s.SoundAt pa n :=
  ⟨hp, fun a _ _ => ⟨rowStalls_of_noHomes h a, by simp [home_of_noHomes h, Home.initial, Tab.find?]⟩⟩

theorem witness_launchesAreDispatched_sound : (sRead (recOk 1 0)).SoundAt 0x303C0 64 ∧ (sRead recBad).SoundAt 0x303C0 64 :=
  ⟨soundAt_of_noHomes rfl (by decide +kernel), soundAt_of_noHomes rfl (by decide +kernel)⟩

/-! Matrix engine: the microsecond's cycles -/
theorem witness_matrixOperationsRun_ramp : (∀ op ∈ [opMat, opF, opD, opLoad .fp32 shF, opLoad .int32 shO, opStore .fp32 shF, opStore .fp32 shO],
    8 * (((sEngine op).m.core 0).occupied + 1) ≤ (sEngine op).ramp 0 * (sEngine op).m.usCycles) ∧ (sEngine opMat).m.usCycles = 3601 := by decide +kernel

/-! Dispatch and saving -/

/-- A grid of one group with no signal address, complete. -/
def grDone : Grid := { newGrid LaunchRec.blank 0 0 0 none 0 none false with next := 1, dies := [0], complete := 1 }
def sRetire : State := { State.reset with m := { Mach.initial with grids := [(1, grDone)] } }

theorem witness_dispatchRecords_retire : sRetire.m.grids.find? 1 = some grDone ∧ grDone.lrec.groups ≤ grDone.complete ∧
    (∀ d ∈ grDone.dies, (sRetire.die d).performedAll = true) ∧ grDone.lrec.sigaddr = 0 ∧ grDone.parent = none ∧
    (∃ d ∈ grDone.dies, ({ sRetire.die d with msgs := [{ id := 0, line := 0, cls := 0, kind := .writeBack 0, rdup := false }] } : Die).performedAll = false) := by
  decide +kernel

theorem test_retireGrid : (retireGrid levels 1 sRetire).m.grids = [] := by decide +kernel

theorem witness_dispatchRecords_stores :
    let x := sGroup { gp with phase := .draining }
    (∀ p ∈ (x.m.core 0).teams, p.2.group = 15 → p.2.flight = [] ∧ p.2.storeQ = []) ∧
    (∀ y ∈ x.m.cores, ∀ p ∈ y.2.teams, ∀ q ∈ p.2.flight ++ p.2.storeQ, q.into 0 { gp with phase := .draining } = false) ∧
    (∀ q ∈ (reqOf recBad :: [] : List LaunchReq), q.core = 0 ∧ q.group = 0) := by decide +kernel

theorem witness_groupsAreSavedAndRestored_reads : (sSaved.rangeStalls (sSaved.sys.slotBase 0) grSaved.lrec.recordBytes = false ∧
    sSaved.readRange (sSaved.sys.slotBase 0) grSaved.lrec.recordBytes = sSaved) ∧
    sBadRec.rangeStalls (sBadRec.sys.slotBase 0) grBad.lrec.recordBytes = false ∧ sBadRec.readRange (sBadRec.sys.slotBase 0) grBad.lrec.recordBytes = sBadRec :=
  ⟨⟨rfl, rfl⟩, rfl, rfl⟩

/-! Copy commands -/

theorem witness_copyCommandsLiveAndEnd_made :
    (let k := { kRun (otherRec 6 0) with stage := 4, token := some 3, cancelling := true }
     k.remoteFault = 0 ∧ k.kind = 6 ∧ k.stage = 4 ∧ (∀ b ∈ (cmdState k).m.bumps, b.token ≠ 3) ∧ (cmdState k).acked 0 k = true) ∧
    (let k := { kRun signalRec with stage := 2, waits := [5], cancelling := true }
     let s := (cmdState k).setDie 0 { Die.initial with msgs := [{ id := 5, line := 256, cls := 0, kind := .atomic 0x8000 0 7 8 9, rdup := false }] }
     k.remoteFault = 0 ∧ k.kind = 5 ∧ k.stage = 2 ∧ k.peers = [] ∧ k.kind ≠ 6 ∧
     (∃ m ∈ (s.die (0 / 80)).msgs, k.waits.contains m.id = true ∧ m.kind ≠ .performed) ∧
     (∀ m ∈ (s.die (0 / 80)).msgs, k.waits.contains m.id = true → m.kind ≠ .performed) ∧ s.openRequests 0 255 = false) ∧
    (∀ b ∈ (cmdState kFill).m.bumps, b.lwait = true → b.die = 0 → kFill.postedAt ≤ b.at_) := by decide +kernel

/-- R177: a SIGNAL whose write is not made is CANCELLED. -/
theorem test_cancel_signal : next (exec (.cancellationComplete 0 3 63)
      (let k := { kRun signalRec with stage := 2, waits := [5], cancelling := true }
       (cmdState k).setDie 0 { Die.initial with msgs := [{ id := 5, line := 256, cls := 0, kind := .atomic 0x8000 0 7 8 9, rdup := false }] }))
    (fun u => (u.cmd? 0 255).map Cmd.state == some .cancelled && (u.die 0).msgs.all (fun m => m.kind == .performed)) = true := by decide +kernel

theorem witness_copyCommandsAct_sound : (cmdState (kRun (watchRec 0))).SoundAt 0x8000 8 ∧ (cmdState (kRun signalRec)).SoundAt 0x8000 8 ∧
    (cmdState (kRun (otherRec 7 0))).rangeWaits 0 0 0x8000 64 = false ∧
    (match (cmdState (kRun (watchRec 0))).m.spotOf 0 0 0 false ((kRun (watchRec 0)).w 2) with
      | some z => !(cmdState (kRun (watchRec 0))).m.tileWaits z.reach z.off 8 true 0
      | none => false) = true := by
  refine ⟨soundAt_of_noHomes rfl (by decide +kernel), soundAt_of_noHomes rfl (by decide +kernel), ?_, by decide +kernel⟩
  simp only [State.rangeWaits]
  simp [rowStalls_of_noHomes (s := cmdState (kRun (otherRec 7 0))) rfl]

/-- The same HINT on a page whose leaf says MIG (R199): it waits for REPLAY. -/
def sMigrating (op : Nat) : State := let s := cmdState (kRun (otherRec 8 op))
  { s with mem := Mem.writeD [] 0x10000 (wordOf [(63, 1), (53, 1), (52, 1), (2, 1), (0, 2)]) }

theorem witness_copyCommandsAct_migrating : (sMigrating 2).migrating 0 0 0x8000 64 = some 0x8000 ∧
    (cmdState (kRun (otherRec 8 0))).migrating 0 0 0x8000 64 = none := by decide +kernel

theorem test_hint_waits : next (exec (.hintKeepResident 0 3 63) (sMigrating 2)) (fun u => (u.die 0).replayQ == [(0, 255)] && (u.cmd? 0 255).any (fun k => k.stage != 4)) = true := by
  decide +kernel

/-! Memory, translation, hosts -/

/-- A FENCE of core 0 that is being cancelled gives up its bump request. -/
def sGiven : State := let k := { kRun (otherRec 6 0) with stage := 4, token := some 3, cancelling := true }
  { cmdState k with m := { (cmdState k).m with bumps := [⟨0, 0, 0, 3, false⟩] } }

/-- A SIGNAL that is being cancelled, its write still on its way. -/
def sTaken : State := let k := { kRun signalRec with stage := 2, waits := [5], cancelling := true }
  (cmdState k).setDie 0 { Die.initial with msgs := [⟨5, 256, 0, .atomic 0x8000 0 7 8 9, false⟩] }

theorem witness_memoryEvents_sound : sFillBack.SoundAt 0x8020 32 ∧ (sMsg (.atomic 0x9000 0 7 8 1) false).takenBack 3 ⟨5, 256, 0, .atomic 0x9000 0 7 8 1, false⟩ = false ∧
    (sMsg (.atomic 0x9000 0 7 8 1) false).rowStalls 0x9000 = false ∧ sTaken.takenBack 0 ⟨5, 256, 0, .atomic 0x8000 0 7 8 9, false⟩ = true :=
  ⟨soundAt_of_noHomes rfl (by decide +kernel), by decide +kernel, rowStalls_of_noHomes rfl _, by decide +kernel⟩

theorem witness_memoryEvents_given : sGiven.m.givenUp ⟨0, 0, 0, 3, false⟩ = true := by decide +kernel

theorem witness_translationEvents_reads : (∀ a ∈ sWalk.walkReads 3 0 0x8000, sWalk.rowStalls a = false) ∧ (sWalk.walkReads 3 0 0x8000 = [0x10000]) ∧
    (let s : State := { State.reset with sys := { Sys.initial with hoDone := false, hoRun := (wordOf [(16, 1)], 1) } }
     (∀ a ∈ s.handReads, s.rowStalls a = false) ∧ s.readEach s.handReads = s ∧ ∀ k, k < 4 → s.drained k = true) := by
  refine ⟨fun a _ => rowStalls_of_noHomes rfl a, by decide +kernel, fun a _ => rowStalls_of_noHomes rfl a, by decide +kernel, by decide +kernel⟩

/-- R291: a handover runs on the words as they stood when it started. -/
theorem test_handover_words : next (exec (.handoverTodevice 5 0) State.reset) (fun u => u.sys.hoRun == (0, 5) &&
    next (exec (.registerWrite 0x31000 8 0x8000000000010000 0) u) (fun v => v.sys.hoRun == (0, 5))) = true := by decide +kernel

theorem witness_hostEvents_clean : ∀ a, 2 ^ 39 - 8 ≤ a → a < 2 ^ 39 - 8 + 8 → sHost.rowStalls a = false ∧ (sHost.home (stackOf a)).errors.find? (sectorOf a) = none :=
  (soundAt_of_noHomes (s := sHost) rfl (pa := 2 ^ 39 - 8) (n := 8) (by decide +kernel)).2

/-! The fabric and the device -/

theorem witness_fabricEvents_reads : (∀ a ∈ sKeys.remoteReads (access .read 0x8000), sKeys.rowStalls a = false) ∧
    (sKeys.remoteReads (access .read 0x8000)).length = 2 ∧ (sKeys.readEach (sKeys.remoteReads (access .read 0x8000))).SoundAt 0x8000 8 ∧
    (sColl collA).windowWaits collA = false ∧ (sColl collA).readRange 0 2 = sColl collA :=
  ⟨fun a _ => rowStalls_of_noHomes rfl a, by decide +kernel, soundAt_of_noHomes (by decide +kernel) (by decide +kernel), by
    simp [State.windowWaits, rowStalls_of_noHomes (s := sColl collA) rfl], rfl⟩

/-- The word read is poisoned: code 7 (R198). -/
def sPoison : State := sKeys.setHome (stackOf 0x8000) { Home.initial with poison := [sectorOf 0x8000] }

theorem witness_fabricEvents_poison : (sPoison.readEach (sPoison.remoteReads (access .atomic 0x8000))).poisoned 0x8000 8 = true ∧
    allowedAt (sPoison.remoteCheck (access .atomic 0x8000)) 0x8000 = true ∧
    (∀ a ∈ sPoison.remoteReads (access .atomic 0x8000), sPoison.rowStalls a = false) ∧
    (sPoison.readEach (sPoison.remoteReads (access .atomic 0x8000))).rowStalls 0x8000 = false ∧ sPoison.fab.seen = [] := by
  have hr (k : Nat) : (sPoison.home k).rowTests = [] := by
    show (Tab.get Home.initial [(stackOf 0x8000, { Home.initial with poison := [sectorOf 0x8000] })] k).rowTests = []
    by_cases e : stackOf 0x8000 = k <;> simp [Tab.get, Tab.find?, e, Home.initial]
  refine ⟨by decide +kernel, by decide +kernel, ?_, by decide +kernel, rfl⟩
  intro a _
  simp [State.rowStalls, hr]

theorem test_remoteRequest_poison : next (exec (.remoteRequest (access .atomic 0x8000)) sPoison)
    (fun u => u.mem == sPoison.mem && u.fab.sent.any (fun o => match o with | .answer _ 287 1 0 7 _ => true | _ => false)) = true := by decide +kernel

theorem witness_fabricEvents_commit : sStaged.fab.upPorts ≠ [] ∧ staged1.src ≠ sStaged.sys.devNum ∧ staged1.elem < 1 := by decide +kernel

/-- R302: the commit is acknowledged. -/
theorem test_remoteCommit : next (exec (.remoteCommit ⟨287, 1, .commit, 1⟩) sStaged)
    (fun u => u.mem.readN 0x8000 2 == 0x0605 && u.fab.sent.any (fun o => match o with | .answer (some _) 287 1 0 0 _ => true | _ => false)) = true := by decide +kernel

theorem witness_deviceEvents_training : (sBring 2 true true).sys.bringUp = some ⟨⟨true, true⟩, 2, 0⟩ ∧ State.reset.sys.boot = 0 ∧
    (sys_ { Sys.initial with tests := [⟨bankError, 1, 0⟩] }).sys.boot = 0 := by decide

/-- R318: a training that fails leaves device memory; one that succeeds zeroes it. -/
theorem test_training : (({ sBring 2 true true with mem := [⟨8, 5⟩] } : State).bringUpStep).mem.read 8 = 0 ∧
    (({ sBring 2 true false with mem := [⟨8, 5⟩] } : State).bringUpStep).mem.read 8 = 5 := by decide +kernel

/-- R324: a frozen device, whose scan read-out shows ASROOT 0. -/
def sFrozen : State := { State.reset with sys := { Sys.initial with frozen := true, dbg := 1, asroot := [(0, 0x10001)] }, agenda := [.scanRead] }

theorem witness_deviceEvents_scan : sFrozen.sys.frozen = true ∧ sFrozen.agenda = .scanRead :: [] ∧ sFrozen.sys.boot = 0 ∧ sFrozen.sys.asroot.get 0 0 ≠ 0 := by decide

theorem test_scan : next (step sFrozen) (fun u => u.sys.outputs.any (fun o => match o with | .scan r => r.regs.contains (0x30000, 0x10001) && r.keys == 0 | _ => false)) = true := by
  decide +kernel

/-- R321: a die that waited for room goes one level up. -/
theorem test_rampAdjust : next (exec .rampAdjust (let s := at_ State.reset 3600 (1000 * nsUnits)
      { s with m := s.m.setCore 0 { s.m.core 0 with rampWait := true } })) (fun u => u.m.usStart == 3600 && (u.die 0).ramp == min (State.reset.die 0).rampCap (min 8 ((State.reset.die 0).ramp + 1))) = true := by
  decide +kernel

end Sys2Proof.Tests
end

/-! # The scheduler's pick and the step that issues a word (R17, R50, R51, R74, R140, R197, R253) -/

namespace Sys2Proof.Machine

/-! ## The slot of a decoded word (R17, R327) -/

/-- Whether an instruction whose place in the scheduler's order is not that of its slot alone issues in the slot that R17 gives it. -/
def slotFits (sl : Slot) : Instr → Bool
  | .vbudget _ _ => sl = .vector
  | .tsub _ | .ttake _ _ _ | .tdone _ | .tretry _ _ | .tcancel _ => sl = .control
  | .ldc _ _ _ _ _ _ _ | .ld _ _ _ _ _ _ _ | .atom _ _ _ _ _ _ _ _ => sl = .localMem
  | _ => true

/-- Every row of the opcode table stands under a major opcode of its instruction's slot. -/
theorem rows_slotFits (w : Inst) (k : Nat) : ((rowsOf k).all fun r => slotFits (slotOfMajor k) (r.make w)) = true := by
  unfold rowsOf
  split <;> rfl

theorem decode_slotFits {w : Inst} {i : Instr} (h : decode w = .ok i) : slotFits (slotOfMajor (major w)) i = true := by
  have hrow : firstRow (rowsOf (major w)) w = some i := by
    unfold decode at h
    split at h
    · cases h
    · split at h
      · cases h; assumption
      · cases h
  obtain ⟨r, hr, -, rfl⟩ := mem_of_firstRow _ _ _ hrow
  exact List.all_eq_true.mp (rows_slotFits w _) r hr

/-! ## What issues comes from a decoded word -/

theorem issueDecoded_run {w v : Inst} {i : Instr} (h : issueDecoded w = .run i v) : decode v = .ok i := by
  unfold issueDecoded at h
  split at h <;> cases h
  assumption

/-- A check whose failure gives something else has passed. -/
theorem eq_of_ite_eq {α : Type} {c : Prop} [Decidable c] {x y z : α} (h : (if c then y else x) = z) (hy : y ≠ z := by nofun) : x = z := by
  split at h
  · exact absurd h hy
  · exact h

theorem Seq.issue_run {q : Seq} {cnt : Nat} {i : Instr} {w : Inst} (h : q.issue cnt = .run i w) : decode w = .ok i := by
  unfold Seq.issue at h
  have hseq := eq_of_ite_eq (eq_of_ite_eq h)
  split at hseq
  · exact issueDecoded_run hseq
  · have hstep := eq_of_ite_eq (eq_of_ite_eq (eq_of_ite_eq (eq_of_ite_eq hseq)))
    split at hstep
    · cases hstep
    · exact issueDecoded_run hstep

/-- The instruction that a team issues next is that of a word of the slot's major opcodes. -/
theorem nextAt_run {s : State} {c p : Nat} {i : Instr} {sl : Slot} (h : nextAt s c p = .run i sl) :
    ∃ w, decode w = .ok i ∧ sl = slotOfMajor (major w) := by
  unfold nextAt at h
  have hgo := eq_of_ite_eq h
  dsimp only at hgo
  split at hgo
  · -- at a clause's start the word is a header
    split at hgo
    · cases hgo
    · rename_i w _
      split at hgo
      · cases hgo
      · rename_i hmajor
        have hhdr := eq_of_ite_eq hgo
        split at hhdr <;> cases hhdr
        exact ⟨w, by assumption, by rw [Decidable.of_not_not hmajor]; rfl⟩
  · -- inside a clause it is the present step of its sequence, or a REP or an IMM that is latched first
    split at hgo
    · cases hgo
    · cases hgo
    · split at hgo
      · split at hgo <;> cases hgo
      · cases hgo
      · rename_i w hw
        have hready := eq_of_ite_eq hgo
        split at hready
        · cases hready
        · rename_i first _
          split at hready
          · rename_i hprefix
            split at hready <;> cases hready
            exact ⟨first, by assumption, by rcases hprefix with e | e <;> simp [e, slotOfMajor]⟩
          · cases hready
            exact ⟨w, Seq.issue_run hw, rfl⟩

theorem nextOf_run {s : State} {c p : Nat} {i : Instr} {sl : Slot} (h : nextOf s c p = .run i sl) :
    ∃ w, decode w = .ok i ∧ sl = slotOfMajor (major w) :=
  nextAt_run (eq_of_ite_eq h)

theorem nextOf_slotFits {s : State} {c p : Nat} {i : Instr} {sl : Slot} (h : nextOf s c p = .run i sl) : slotFits sl i = true := by
  obtain ⟨w, hw, rfl⟩ := nextOf_run h
  exact decode_slotFits hw

/-! ## The kind and the rank of a team's next word (R51, R74, R140, R253) -/

/-- The kind and the rank that the scheduler sees in what a team does next. -/
def Next.kind (m : Mach) (c p : Nat) : Next → WordKind
  | .run i _ => m.wordKind c p i
  | _ => .plain

def Next.rank : Next → Nat
  | .run _ sl => sl.rank
  | _ => 0

/-- Whether words of a kind that has a place of its own in the order are of the slot with a rank. -/
def WordKind.atRank (r : Nat) : WordKind → Prop
  | .plain => True
  | .budget => r = 1
  | .task => r = 5
  | .cluster => r = 3

theorem wordKind_budget_iff {m : Mach} {c p : Nat} {i : Instr} : m.wordKind c p i = .budget ↔ ∃ d a, i = .vbudget d a := by
  unfold Mach.wordKind
  dsimp only
  split <;> (try split) <;> simp_all

theorem wordKind_task_iff {m : Mach} {c p : Nat} {i : Instr} : m.wordKind c p i = .task ↔
    (∃ a, i ∈ [Instr.tsub a, .tdone a, .tcancel a]) ∨ (∃ a b, i = .tretry a b) ∨ ∃ a b w, i = .ttake a b w := by
  unfold Mach.wordKind
  dsimp only
  split <;> (try split) <;> simp_all

theorem wordKind_atRank {m : Mach} {c p : Nat} {i : Instr} {sl : Slot} (h : slotFits sl i = true) : (m.wordKind c p i).atRank sl.rank := by
  unfold Mach.wordKind
  dsimp only
  split <;> (try split) <;> simp_all [slotFits, WordKind.atRank, Slot.rank]

theorem nextOf_kind_atRank (s : State) (c p : Nat) : ((nextOf s c p).kind s.m c p).atRank (nextOf s c p).rank := by
  cases h : nextOf s c p with
  | run i sl => exact wordKind_atRank (nextOf_slotFits h)
  | _ => trivial

/-- The scheduler's entry for a place whose next word may issue. -/
def State.readyAt (s : State) (c p age : Nat) : Ready := ⟨p, age, (nextOf s c p).rank, (nextOf s c p).kind s.m c p⟩

/-- A word other than VBUDGET has the rank of its slot. -/
theorem Next.ready_run {m : Mach} {c p age : Nat} {i : Instr} {sl : Slot} (hi : ∀ d a, i ≠ .vbudget d a) :
    (Next.run i sl).ready m c p age = some ⟨p, age, sl.rank, if sl = .none then .plain else m.wordKind c p i⟩ := by
  unfold Next.ready
  split <;> simp_all

theorem ready_nextOf (s : State) (c p age : Nat) :
    (nextOf s c p).ready s.m c p age = if nextOf s c p = .wait then none else some (s.readyAt c p age) := by
  cases h : nextOf s c p with
  | run i sl =>
    have hat := wordKind_atRank (m := s.m) (c := c) (p := p) (nextOf_slotFits h)
    simp only [State.readyAt, h, Next.rank, Next.kind, reduceCtorEq, if_false]
    by_cases hb : ∃ d a, i = .vbudget d a
    · obtain ⟨d, a, rfl⟩ := hb
      rw [wordKind_budget_iff.mpr ⟨d, a, rfl⟩] at hat ⊢
      rw [show sl.rank = 1 from hat]
      rfl
    · rw [Next.ready_run (fun d a e => hb ⟨d, a, e⟩)]
      by_cases hsl : sl = .none
      · subst hsl
        have hplain : s.m.wordKind c p i = .plain := by
          cases hk : s.m.wordKind c p i <;> simp_all [WordKind.atRank, Slot.rank]
        simp [hplain]
      · simp [hsl]
  | _ => simp [Next.ready, State.readyAt, h, Next.rank, Next.kind]

theorem mem_readies {s : State} {c : Nat} {a : Ready} :
    a ∈ s.readies c ↔ ∃ q ∈ (s.m.core c).teams, nextOf s c q.1 ≠ .wait ∧ a = s.readyAt c q.1 q.2.age := by
  simp only [State.readies, List.mem_filterMap, ready_nextOf]
  grind

/-- Where in the cycle a team's issue stands. -/
theorem keyOf_issue (s : State) (c p : Nat) :
    s.keyOf (.issue c p) = if (nextOf s c p).kind s.m c p = .cluster then orderKey 4 c p else issueKey := by
  unfold State.keyOf
  dsimp only
  cases h : nextOf s c p with
  | run i sl =>
    have hr := wordKind_atRank (m := s.m) (c := c) (p := p) (nextOf_slotFits h)
    by_cases hk : s.m.wordKind c p i = .cluster
    · have hsl : sl ≠ .none := by
        rintro rfl
        simp [hk, WordKind.atRank, Slot.rank] at hr
      simp [Next.kind, hk, hsl]
    · simp [Next.kind, hk]
  | _ => simp [Next.kind]

/-! ## The scheduler's order -/

theorem Ready.before_iff (a b : Ready) :
    a.before b = true ↔ a.rank < b.rank ∨ a.rank = b.rank ∧ (b.age < a.age ∨ a.age = b.age ∧ a.place < b.place) := by
  simp [Ready.before]

theorem Ready.not_before_trans {a b c : Ready} (hab : a.before b = false) (hbc : b.before c = false) : a.before c = false := by
  rw [Bool.eq_false_iff, ne_eq, Ready.before_iff] at *
  omega

theorem Ready.not_before_of_before {a b : Ready} (h : a.before b = true) : b.before a = false := by
  rw [Bool.eq_false_iff, ne_eq, Ready.before_iff] at *
  omega

/-- Of two of one rank, the one that the other does not precede is older, or of equal age on the lower place. -/
theorem Ready.older_of_not_before {a b : Ready} (h : a.before b = false) (hr : a.rank = b.rank) :
    a.age < b.age ∨ a.age = b.age ∧ b.place ≤ a.place := by
  rw [Bool.eq_false_iff, ne_eq, Ready.before_iff] at h
  omega

theorem firstReady_eq_none {rs : List Ready} : firstReady rs = none ↔ rs = [] := by
  cases rs with
  | nil => simp [firstReady]
  | cons x xs =>
    simp only [firstReady, reduceCtorEq, iff_false]
    split
    · simp
    · split <;> simp

theorem firstReady_mem {rs : List Ready} {r : Ready} (h : firstReady rs = some r) : r ∈ rs := by
  induction rs generalizing r with
  | nil => simp [firstReady] at h
  | cons x xs ih =>
    unfold firstReady at h
    split at h
    · simp_all
    · split at h <;> simp_all

/-- Nothing in a list precedes its first. -/
theorem firstReady_first {rs : List Ready} {r a : Ready} (h : firstReady rs = some r) (ha : a ∈ rs) : a.before r = false := by
  induction rs generalizing r with
  | nil => simp at ha
  | cons x xs ih =>
    unfold firstReady at h
    have hself : x.before x = false := by rw [Bool.eq_false_iff, ne_eq, Ready.before_iff]; omega
    rcases List.mem_cons.mp ha with rfl | hxs
    · split at h
      · cases h; exact hself
      · split at h <;> cases h
        · exact Ready.not_before_of_before (by assumption)
        · exact hself
    · split at h
      · rename_i hnone
        simp [firstReady_eq_none.mp hnone] at hxs
      · rename_i y hy
        have hay := ih hy hxs
        split at h <;> cases h
        · exact hay
        · exact Ready.not_before_trans hay (by simp_all)

/-- What is first stays first where it stays. -/
theorem firstReady_filter {rs : List Ready} {r : Ready} {f : Ready → Bool} (h : firstReady rs = some r) (hf : f r = true) :
    firstReady (rs.filter f) = some r := by
  induction rs generalizing r with
  | nil => simp [firstReady] at h
  | cons x xs ih =>
    unfold firstReady at h
    split at h
    · rename_i hnone
      cases h
      simp [hf, firstReady_eq_none.mp hnone, firstReady]
    · rename_i y hy
      split at h
      · rename_i hyx
        cases h
        by_cases hx : f x = true
        · simp [hx, firstReady, ih hy hf, hyx]
        · simp [hx, ih hy hf]
      · rename_i hyx
        cases h
        rw [List.filter_cons_of_pos hf]
        unfold firstReady
        split
        · rfl
        · rename_i z hz
          have hzy := firstReady_first hy (List.mem_filter.mp (firstReady_mem hz)).1
          simp [Ready.not_before_trans hzy (by simpa using hyx)]

theorem lowestPlace_le (rs : List Ready) (p : Nat) : lowestPlace rs p ≤ p ∧ ∀ a ∈ rs, lowestPlace rs p ≤ a.place := by
  unfold lowestPlace
  induction rs generalizing p with
  | nil => simp
  | cons x xs ih =>
    obtain ⟨hp, hxs⟩ := ih (min p x.place)
    simp only [List.foldl_cons, List.mem_cons, forall_eq_or_imp]
    exact ⟨by omega, by omega, hxs⟩

theorem lowestPlace_eq (rs : List Ready) (p : Nat) : lowestPlace rs p = p ∨ ∃ a ∈ rs, a.place = lowestPlace rs p := by
  unfold lowestPlace
  induction rs generalizing p with
  | nil => simp
  | cons x xs ih =>
    simp only [List.foldl_cons, List.mem_cons, exists_eq_or_imp]
    rcases ih (min p x.place) with h | h
    · rw [h]; omega
    · exact .inr (.inr h)

/-- The lowest place among some entries and a given one is that of one of them. -/
theorem exists_lowestPlace (rs : List Ready) (r : Ready) :
    ∃ b ∈ r :: rs, b.place = lowestPlace rs r.place ∧ ∀ a ∈ r :: rs, b.place ≤ a.place := by
  obtain ⟨hr, hrs⟩ := lowestPlace_le rs r.place
  have hall : ∀ a ∈ r :: rs, lowestPlace rs r.place ≤ a.place := by simpa using ⟨hr, hrs⟩
  rcases lowestPlace_eq rs r.place with h | ⟨b, hb, h⟩
  · exact ⟨r, by simp, h.symm, h ▸ hall⟩
  · exact ⟨b, by simp [hb], h, h ▸ hall⟩

theorem mem_insertBy {α : Type} {le : α → α → Bool} {x y : α} {l : List α} : y ∈ insertBy le x l ↔ y = x ∨ y ∈ l := by
  induction l with
  | nil => simp [insertBy]
  | cons z zs ih =>
    unfold insertBy
    split
    · exact List.mem_cons
    · simp only [List.mem_cons, ih]
      exact or_left_comm

theorem mem_sortBy {α : Type} {le : α → α → Bool} {y : α} {l : List α} : y ∈ sortBy l le ↔ y ∈ l := by
  induction l with
  | nil => exact Iff.rfl
  | cons x xs ih => rw [sortBy, mem_insertBy, ih, List.mem_cons]

section
variable {α : Type} {le : α → α → Bool} (total : ∀ a b, le a b = true ∨ le b a = true)
  (trans : ∀ a b c, le a b = true → le b c = true → le a c = true)
include total trans

theorem pairwise_insertBy {x : α} {l : List α} (h : l.Pairwise fun a b => le a b = true) : (insertBy le x l).Pairwise fun a b => le a b = true := by
  induction l with
  | nil => exact List.pairwise_singleton _ _
  | cons y ys ih =>
    obtain ⟨hy, hys⟩ := List.pairwise_cons.mp h
    unfold insertBy
    split
    · rename_i hxy
      refine List.pairwise_cons.mpr ⟨fun z hz => ?_, h⟩
      rcases List.mem_cons.mp hz with rfl | hzs
      · exact hxy
      · exact trans x y z hxy (hy z hzs)
    · rename_i hxy
      refine List.pairwise_cons.mpr ⟨fun z hz => ?_, ih hys⟩
      rcases mem_insertBy.mp hz with rfl | hzs
      · exact (total z y).resolve_left hxy
      · exact hy z hzs

theorem pairwise_sortBy (l : List α) : (sortBy l le).Pairwise fun a b => le a b = true := by
  induction l with
  | nil => exact List.Pairwise.nil
  | cons x xs ih => exact pairwise_insertBy total trans ih

end

/-- The entries of the vector slot in the scheduler's order. -/
def vectorOrder (rs : List Ready) : List Ready := sortBy (rs.filter (fun a => a.rank = 1)) (fun a b => !b.before a)

theorem mem_vectorOrder {rs : List Ready} {a : Ready} : a ∈ vectorOrder rs ↔ a ∈ rs ∧ a.rank = 1 := by
  simp [vectorOrder, mem_sortBy]

/-- What is cut off in the scheduler's order precedes nothing that is kept. -/
theorem not_before_of_mem_drop {rs : List Ready} {n : Nat} {a b : Ready} (ha : a ∈ (vectorOrder rs).drop n) (hb : b ∈ (vectorOrder rs).take n) :
    a.before b = false := by
  have hsorted : (vectorOrder rs).Pairwise fun a b => (!b.before a) = true := by
    refine pairwise_sortBy (fun a b => ?_) (fun a b c hab hbc => ?_) _
    · by_cases h : b.before a = true
      · exact .inr (by simp [Ready.not_before_of_before h])
      · exact .inl (by simp [h])
    · simpa using Ready.not_before_trans (by simpa using hbc) (by simpa using hab)
  rw [← List.take_append_drop n (vectorOrder rs), List.pairwise_append] at hsorted
  obtain ⟨-, -, hcut⟩ := hsorted
  simpa using hcut b hb a ha

/-! ## The scheduler's pick -/

/-- The entries of a core among which the scheduler picks: the local-memory slot is kept for an access to another core's partition that is the oldest
to use it (R140). -/
def State.contenders (s : State) (c : Nat) : List Ready :=
  match oldestLocal (s.readies c) with
  | some r => if r.kind = .cluster then (s.readies c).filter (fun r => r.rank ≠ 3) else s.readies c
  | none => s.readies c

theorem mem_readies_of_mem_contenders {s : State} {c : Nat} {a : Ready} (h : a ∈ s.contenders c) : a ∈ s.readies c := by
  unfold State.contenders at h
  split at h
  · split at h
    · exact (List.mem_filter.mp h).1
    · exact h
  · exact h

/-- The slot that is kept is kept from all words of its rank. -/
theorem mem_contenders_of_rank {s : State} {c : Nat} {a b : Ready} (ha : a ∈ s.readies c) (hb : b ∈ s.contenders c) (hr : a.rank = b.rank) :
    a ∈ s.contenders c := by
  unfold State.contenders at hb ⊢
  split at hb
  · split at hb <;> simp_all
  · exact ha

theorem readies_atRank {s : State} {c : Nat} {a : Ready} (h : a ∈ s.readies c) : a.kind.atRank a.rank := by
  obtain ⟨q, -, -, rfl⟩ := mem_readies.mp h
  exact nextOf_kind_atRank s c q.1

/-- An access to another core's partition is never the first: either its slot is kept, or an older word has the slot. -/
theorem kind_ne_cluster_of_first {s : State} {c : Nat} {r : Ready} (h : firstReady (s.contenders c) = some r) : r.kind ≠ .cluster := by
  intro hk
  have hrank : r.rank = 3 := by
    have := readies_atRank (mem_readies_of_mem_contenders (firstReady_mem h))
    rwa [hk] at this
  have hold : firstReady (s.readies c) = some r → oldestLocal (s.readies c) = some r := fun h => firstReady_filter h (by simp [hrank])
  unfold State.contenders at h
  split at h
  · split at h
    · have := (List.mem_filter.mp (firstReady_mem h)).2
      simp [hrank] at this
    · simp_all
  · simp_all

/-- What the scheduler's pick has over the other entries of a list (R51, R74, R253). -/
def Ready.Chosen (rs : List Ready) (b : Ready) : Prop :=
  match b.kind with
  | .budget => ∀ a ∈ rs, a.kind = .budget → a.age = b.age → b.place ≤ a.place
  | .task => ∀ a ∈ rs, a.kind = .task → b.place ≤ a.place
  | _ => firstReady rs = some b

/-- Among the first n entries of the vector slot and the first of all, the VBUDGET on the lowest place is chosen: what is cut off has no greater age. -/
theorem exists_chosen_budget {rs : List Ready} {r : Ready} (n : Nat) (hat : ∀ a ∈ rs, a.kind.atRank a.rank) (hr : firstReady rs = some r)
    (hk : r.kind = .budget) :
    ∃ b ∈ rs, b.place = lowestPlace (((vectorOrder rs).take n).filter (fun a => a.kind = .budget)) r.place ∧ b.Chosen rs := by
  have hrank {a : Ready} (ha : a ∈ rs) (hka : a.kind = .budget) : a.rank = 1 := by
    have := hat a ha
    rwa [hka] at this
  obtain ⟨b, hb, hplace, hlow⟩ := exists_lowestPlace (((vectorOrder rs).take n).filter (fun a => a.kind = .budget)) r
  have hpicked : b = r ∨ b ∈ (vectorOrder rs).take n ∧ b.kind = .budget := by simpa using hb
  obtain ⟨hbrs, hkb⟩ : b ∈ rs ∧ b.kind = .budget := by
    rcases hpicked with rfl | ⟨ht, hkb⟩
    · exact ⟨firstReady_mem hr, hk⟩
    · exact ⟨(mem_vectorOrder.mp (List.mem_of_mem_take ht)).1, hkb⟩
  refine ⟨b, hbrs, hplace, ?_⟩
  rw [Ready.Chosen, hkb]
  intro a ha hka hage
  have hcut : a ∈ (vectorOrder rs).take n ∨ a ∈ (vectorOrder rs).drop n := by
    rw [← List.mem_append, List.take_append_drop]
    exact mem_vectorOrder.mpr ⟨ha, hrank ha hka⟩
  rcases hcut with ht | hd
  · exact hlow a (by simp [ht, hka])
  · have hnot : a.before b = false := by
      rcases hpicked with rfl | ⟨ht, -⟩
      · exact firstReady_first hr ha
      · exact not_before_of_mem_drop hd ht
    have := Ready.older_of_not_before hnot ((hrank ha hka).trans (hrank hbrs hkb).symm)
    omega

theorem exists_chosen_task {rs : List Ready} {r : Ready} (hat : ∀ a ∈ rs, a.kind.atRank a.rank) (hr : r ∈ rs) (hk : r.kind = .task) :
    ∃ b ∈ rs, b.place = lowestPlace (rs.filter (fun a => a.rank = 5 && a.kind = .task)) r.place ∧ b.Chosen rs := by
  obtain ⟨b, hb, hplace, hlow⟩ := exists_lowestPlace (rs.filter (fun a => a.rank = 5 && a.kind = .task)) r
  have hmem : b ∈ rs ∧ b.kind = .task := by
    rcases List.mem_cons.mp hb with rfl | hf
    · exact ⟨hr, hk⟩
    · obtain ⟨hf, -, hkb⟩ : b ∈ rs ∧ b.rank = 5 ∧ b.kind = .task := by simpa using hf
      exact ⟨hf, hkb⟩
  refine ⟨b, hmem.1, hplace, ?_⟩
  rw [Ready.Chosen, hmem.2]
  intro a ha hka
  have hrank : a.rank = 5 := by
    have := hat a ha
    rwa [hka] at this
  exact hlow a (by simp [ha, hka, hrank])

theorem chosen_of_pick {s : State} {c p : Nat} (h : s.pick c = some p) :
    ∃ b ∈ s.contenders c, b.place = p ∧ b.Chosen (s.contenders c) := by
  have hat (a : Ready) (ha : a ∈ s.contenders c) : a.kind.atRank a.rank := readies_atRank (mem_readies_of_mem_contenders ha)
  unfold State.pick at h
  dsimp only at h
  split at h
  · cases h
  · rename_i r heq
    have hr : firstReady (s.contenders c) = some r := heq
    split at h
    · cases h
      exact exists_chosen_budget _ hat hr (by assumption)
    · cases h
      exact exists_chosen_task hat (firstReady_mem hr) (by assumption)
    · cases h
      refine ⟨r, firstReady_mem hr, rfl, ?_⟩
      unfold Ready.Chosen
      split
      · contradiction
      · contradiction
      · exact hr

/-- A picked team's issue stands among the issues of the cycle (R140). -/
theorem keyOf_issue_of_pick {s : State} {c p : Nat} (h : s.pick c = some p) : s.keyOf (.issue c p) = issueKey := by
  obtain ⟨b, hb, rfl, hchosen⟩ := chosen_of_pick h
  have hk : b.kind ≠ .cluster := by
    intro hk
    rw [Ready.Chosen, hk] at hchosen
    exact kind_ne_cluster_of_first hchosen hk
  obtain ⟨q, -, -, rfl⟩ := mem_readies.mp (mem_readies_of_mem_contenders hb)
  exact (keyOf_issue s c q.1).trans (if_neg hk)

/-! ## The picked team and another team of its core -/

theorem Tab.find?_of_mem_of_nodup {α : Type} {t : Tab α} {k : Nat} {v : α} (hn : (List.map Prod.fst t).Nodup) (h : (k, v) ∈ t) : t.find? k = some v := by
  induction t with
  | nil => simp at h
  | cons q t ih =>
    obtain ⟨j, w⟩ := q
    simp only [List.map_cons, List.nodup_cons] at hn
    rcases List.mem_cons.mp h with e | hm
    · cases e; simp [Tab.find?]
    · have hjk : j ≠ k := by
        rintro rfl
        exact hn.1 (List.mem_map.mpr ⟨_, hm, rfl⟩)
      simp [Tab.find?, hjk, ih hn.2 hm]

theorem Tab.mem_of_find? {α : Type} {t : Tab α} {k : Nat} {v : α} (h : t.find? k = some v) : (k, v) ∈ t := by
  induction t with
  | nil => simp [Tab.find?] at h
  | cons q t ih =>
    obtain ⟨j, w⟩ := q
    unfold Tab.find? at h
    split at h <;> simp_all

/-- The picked team's entry, with the team's own age. -/
theorem chosen_readyAt_of_pick {s : State} {c p : Nat} (hn : (List.map Prod.fst (s.m.core c).teams).Nodup) (h : s.pick c = some p) :
    s.readyAt c p (s.m.teamAt c p).age ∈ s.contenders c ∧ (s.readyAt c p (s.m.teamAt c p).age).Chosen (s.contenders c) := by
  obtain ⟨b, hb, rfl, hchosen⟩ := chosen_of_pick h
  obtain ⟨⟨q, t⟩, hq, -, rfl⟩ := mem_readies.mp (mem_readies_of_mem_contenders hb)
  have ht : (s.m.teamAt c q).age = t.age := by simp [Mach.teamAt, Core.team, Tab.get, Tab.find?_of_mem_of_nodup hn hq]
  simp only [State.readyAt] at hb hchosen ⊢
  rw [ht]
  exact ⟨hb, hchosen⟩

theorem readyAt_mem_readies {s : State} {c q : Nat} (hq : (s.m.core c).teams.has q = true) (h : nextOf s c q ≠ .wait) :
    s.readyAt c q (s.m.teamAt c q).age ∈ s.readies c := by
  obtain ⟨t, ht⟩ := Option.isSome_iff_exists.mp hq
  refine mem_readies.mpr ⟨(q, t), Tab.mem_of_find? ht, h, ?_⟩
  simp [Mach.teamAt, Core.team, Tab.get, ht]

/-- Of the teams whose words would issue in one slot the oldest is picked, and of equal ages the one on the lowest place (R51). -/
theorem oldest_of_pick {s : State} {c p q : Nat} {i j : Instr} {sl : Slot} (hn : (List.map Prod.fst (s.m.core c).teams).Nodup)
    (hp : s.pick c = some p) (hi : nextOf s c p = .run i sl) (hq : (s.m.core c).teams.has q = true) (hj : nextOf s c q = .run j sl) (hqp : q ≠ p)
    (hb : s.m.wordKind c p i ≠ .budget) (ht : s.m.wordKind c p i ≠ .task) :
    (s.m.teamAt c q).age < (s.m.teamAt c p).age ∨ ((s.m.teamAt c q).age = (s.m.teamAt c p).age ∧ p < q) := by
  obtain ⟨hmem, hchosen⟩ := chosen_readyAt_of_pick hn hp
  have hkind : (s.readyAt c p (s.m.teamAt c p).age).kind = s.m.wordKind c p i := by simp [State.readyAt, hi, Next.kind]
  have hfirst : firstReady (s.contenders c) = some (s.readyAt c p (s.m.teamAt c p).age) := by
    unfold Ready.Chosen at hchosen
    split at hchosen
    · simp_all
    · simp_all
    · exact hchosen
  have hrank : (s.readyAt c q (s.m.teamAt c q).age).rank = (s.readyAt c p (s.m.teamAt c p).age).rank := by
    simp [State.readyAt, hi, hj, Next.rank]
  have hother := mem_contenders_of_rank (readyAt_mem_readies hq (by simp [hj])) hmem hrank
  have hold := Ready.older_of_not_before (firstReady_first hfirst hother) hrank
  simp only [State.readyAt] at hold
  omega

/-- Entries of one kind with a place of its own contend in one slot. -/
theorem readyAt_mem_contenders_of_kind {s : State} {c p q : Nat} {i j : Instr} {sl sl' : Slot} (hq : (s.m.core c).teams.has q = true)
    (hi : nextOf s c p = .run i sl) (hj : nextOf s c q = .run j sl') (hk : s.m.wordKind c q j = s.m.wordKind c p i)
    (hne : s.m.wordKind c p i ≠ .plain) (hp : s.readyAt c p (s.m.teamAt c p).age ∈ s.contenders c) :
    s.readyAt c q (s.m.teamAt c q).age ∈ s.contenders c := by
  refine mem_contenders_of_rank (readyAt_mem_readies hq (by simp [hj])) hp ?_
  have hpr := nextOf_kind_atRank s c p
  have hqr := nextOf_kind_atRank s c q
  simp only [hi, hj, Next.kind, hk] at hpr hqr
  simp only [State.readyAt, hi, hj]
  cases h : s.m.wordKind c p i <;> simp_all [WordKind.atRank]

/-- Of task operations the one on the lowest place is picked (R253). -/
theorem lowest_task_of_pick {s : State} {c p q : Nat} {i j : Instr} {sl sl' : Slot} (hn : (List.map Prod.fst (s.m.core c).teams).Nodup)
    (hp : s.pick c = some p) (hi : nextOf s c p = .run i sl) (hq : (s.m.core c).teams.has q = true) (hj : nextOf s c q = .run j sl')
    (hki : s.m.wordKind c p i = .task) (hkj : s.m.wordKind c q j = .task) : p ≤ q := by
  obtain ⟨hmem, hchosen⟩ := chosen_readyAt_of_pick hn hp
  have hother := readyAt_mem_contenders_of_kind hq hi hj (hkj.trans hki.symm) (by simp [hki]) hmem
  have hkind : (s.readyAt c p (s.m.teamAt c p).age).kind = .task := by simp [State.readyAt, hi, Next.kind, hki]
  rw [Ready.Chosen, hkind] at hchosen
  exact hchosen _ hother (by simp [State.readyAt, hj, Next.kind, hkj])

/-- Of VBUDGETs of one age the one on the lowest place is picked (R74). -/
theorem lowest_budget_of_pick {s : State} {c p q : Nat} {i j : Instr} {sl sl' : Slot} (hn : (List.map Prod.fst (s.m.core c).teams).Nodup)
    (hp : s.pick c = some p) (hi : nextOf s c p = .run i sl) (hq : (s.m.core c).teams.has q = true) (hj : nextOf s c q = .run j sl')
    (hki : s.m.wordKind c p i = .budget) (hkj : s.m.wordKind c q j = .budget) (hage : (s.m.teamAt c q).age = (s.m.teamAt c p).age) : p ≤ q := by
  obtain ⟨hmem, hchosen⟩ := chosen_readyAt_of_pick hn hp
  have hother := readyAt_mem_contenders_of_kind hq hi hj (hkj.trans hki.symm) (by simp [hki]) hmem
  have hkind : (s.readyAt c p (s.m.teamAt c p).age).kind = .budget := by simp [State.readyAt, hi, Next.kind, hki]
  rw [Ready.Chosen, hkind] at hchosen
  exact hchosen _ hother (by simp [State.readyAt, hj, Next.kind, hkj]) hage

/-! ## The step of an issue -/

theorem issueKey_ne_zero : issueKey ≠ 0 := by decide

theorem orderKey_ne_zero {k : Nat} (c p : Nat) (h : 0 < k) : orderKey k c p ≠ 0 := by
  unfold orderKey; omega

theorem keyOf_issue_ne_zero (s : State) (c p : Nat) : s.keyOf (.issue c p) ≠ 0 := by
  rw [keyOf_issue]
  split
  · exact orderKey_ne_zero c p (by omega)
  · exact issueKey_ne_zero

/-- Before an issue in its time comes what `beforeIssue` names. -/
theorem State.before_issue {s : State} {c p : Nat} (hk : s.keyOf (.issue c p) = issueKey) (ht : s.turn ≤ issueKey) :
    s.before (.issue c p) = s.beforeIssue c p := by
  unfold State.before
  simp [hk, issueKey_ne_zero, Nat.not_lt.mpr ht]

/-- Before an access to another core's partition in its time comes what is owed, or the team whose access has its turn. -/
theorem State.before_issue_cluster {s : State} {c p : Nat} (hk : s.keyOf (.issue c p) ≠ issueKey) (ht : s.turn ≤ s.keyOf (.issue c p))
    (ho : s.owed (s.keyOf (.issue c p)) = none) :
    s.before (.issue c p) = (s.pickCluster c).bind (fun q => if q = p then none else some (s.issuePicked (c, q))) := by
  unfold State.before
  simp [hk, keyOf_issue_ne_zero, Nat.not_lt.mpr ht, ho]

/-- With nothing that comes before the picks, the scheduler's pick decides. -/
theorem State.beforeIssue_of_pick {s : State} {c q : Nat} (p : Nat) (hf : s.dueFirst = none) (hd : (s.m.core c).due s.m.now c = none)
    (hp : s.pick c = some q) : s.beforeIssue c p = if q = p then none else some (issueAt (s.reach issueKey) c q) := by
  simp [State.beforeIssue, hf, hd, hp, State.issuePicked, keyOf_issue_of_pick hp]

theorem step_of_issue {s : State} {c p : Nat} {rest : List Move} (ha : s.agenda = .issue c p :: rest) (hf : s.sys.frozen = false)
    (hb : s.before (.issue c p) = none) : step s = issueAt { s.reach (s.keyOf (.issue c p)) with agenda := rest } c p := by
  rw [step_of_agenda s _ rest ha hf hb]
  simp only [move, hf]
  rfl

/-- A fetch that meets no error runs the word (R327). -/
theorem issueAt_of_run {s : State} {c p : Nat} {i : Instr} {sl : Slot} (hn : nextOf s c p = .run i sl) (he : s.fetchErrs c p = false) :
    issueAt s c p = s.issueNext c p (.run i sl) := by
  simp [issueAt, hn, he]

/-- A fetch that meets an error reads its sectors first (R197). -/
theorem issueAt_of_fetchErrs {s : State} {c p : Nat} (hn : nextOf s c p ≠ .wait) (he : s.fetchErrs c p = true) :
    issueAt s c p = (s.readEach (s.fetchesOf c p)).issueNext c p (nextAt (s.readEach (s.fetchesOf c p)) c p) := by
  unfold issueAt
  split
  · contradiction
  · simp [he]

theorem issueNext_run (s : State) (c p : Nat) (i : Instr) (sl : Slot) :
    s.issueNext c p (.run i sl) =
      match exec i { s with m := { s.m with cur := ⟨c, p⟩ } } with
      | .next u => .next { u with m :=
          (if sl = .vector then u.m.holdReads (s.m.teamAt c p).passes.length ((s.m.teamAt c p).needs i sl) c p else u.m).issued c p sl }
      | .fault f => .fault f
      | .refused r => .refused r := by
  unfold State.issueNext
  dsimp only
  cases exec i { s with m := { s.m with cur := ⟨c, p⟩ } } <;> rfl

/-- Settles O4: what comes before an issue is nothing for the team that the scheduler picks, and that team otherwise; the pick is the first of the
contenders in the scheduler's order, or the lowest place of its kind. -/
theorem stepRunsDecodedWord : Obligations.StepRunsDecodedWord := by
  unfold Obligations.StepRunsDecodedWord
  intro s c p
  refine ⟨fun rest ha hf => ?_, ?_⟩
  · intro key here hturn
    refine ⟨fun hplace => ?_, ?_⟩
    · have hbefore : s.before (.issue c p) = none := by
        rcases hplace with ⟨hk, hfirst, hdue, hp⟩ | ⟨hk, howed, hp⟩
        · rw [State.before_issue hk (hk ▸ hturn), State.beforeIssue_of_pick p hfirst hdue hp, if_pos rfl]
        · simp [State.before_issue_cluster hk hturn howed, hp]
      have hstep : step s = issueAt here c p := step_of_issue ha hf hbefore
      refine ⟨fun i sl hn he => ?_, fun hn he => ?_⟩
      · rw [hstep, issueAt_of_run (s := here) hn he, issueNext_run]
        rfl
      · rw [hstep]
        exact issueAt_of_fetchErrs (s := here) hn he
    · intro hk hfirst hdue q hp hqp
      refine step_of_before s _ rest _ ha hf ?_
      rw [State.before_issue hk (hk ▸ hturn), State.beforeIssue_of_pick p hfirst hdue hp, if_neg hqp]
  · intro i j sl q hn hp hi hq hj hqp age task
    have htask {p : Nat} {i : Instr} : s.m.wordKind c p i = .task ↔ task i := wordKind_task_iff
    refine ⟨fun hb ht => ?_, fun hti htj => ?_, fun hbi hbj hage => ?_⟩
    · exact oldest_of_pick hn hp hi hq hj hqp (fun h => by obtain ⟨d, a, e⟩ := wordKind_budget_iff.mp h; exact hb d a e) (fun h => ht (htask.mp h))
    · exact Nat.lt_of_le_of_ne (lowest_task_of_pick hn hp hi hq hj (htask.mpr hti) (htask.mpr htj)) hqp.symm
    · exact Nat.lt_of_le_of_ne
        (lowest_budget_of_pick hn hp hi hq hj (wordKind_budget_iff.mpr hbi) (wordKind_budget_iff.mpr hbj) hage) hqp.symm

end Sys2Proof.Machine
